-- ==== Sys2Proof/Word.lean ====
section
/-! DEFINITION. The words of the machine: bytes, 32-bit and 64-bit words (R115, R142, R154). -/

namespace Sys2Proof

/-- One byte of memory. -/
abbrev Byte := BitVec 8

/-- One lane's word of a v register (R142), and one instruction word (R154). -/
abbrev W32 := BitVec 32

/-- One w register, mailbox register or control register (R142, R335). -/
abbrev W64 := BitVec 64

/-- A lane mask: bit i for lane i (R142). -/
abbrev Mask := BitVec 128

end Sys2Proof
end

