-- ==== Sys2Proof/Syntax.lean ====
section
/-! DEFINITION. The syntax of the machine's steps: one constructor of Instr per row of spec/opcode_table.json. The instruction rows
carry the fields of their format (R160, R161, R165), already pulled apart. The event rows, the steps that no instruction word starts,
carry the event's operands. -/

namespace Sys2Proof

/-- Register class of a long-form operand: KD, KA, KB, KC of R161. -/
inductive Cls where
  | v | w | m | mb
deriving DecidableEq, Repr, Inhabited

/-- Rounding mode codes of R121. -/
inductive Rm where
  | rne | rz | ru | rd
deriving DecidableEq, Repr, Inhabited

/-- Ordering annotation ORD of SY and MA (R160, R165). In FENCE the last code is the full fence (R222). -/
inductive Ord where
  | plain | acq | rel | ar
deriving DecidableEq, Repr, Inhabited

/-- The RG format (R160), which is also the first word of XR, MA and XP (R161): C, D, A, B, G, GN and bit 0 (X). -/
structure RG where
  c : Bool
  d : BitVec 6
  a : BitVec 6
  b : BitVec 6
  g : BitVec 4
  n : Bool
  x : Bool
deriving DecidableEq, Repr, Inhabited

/-- The IM format (R160): 11-bit immediate, K = 1 makes D and A w registers. -/
structure IM where
  c : Bool
  d : BitVec 6
  a : BitVec 6
  imm : BitVec 11
  k : Bool
deriving DecidableEq, Repr, Inhabited

/-- The IW format (R160): 17-bit immediate. -/
structure IW where
  c : Bool
  d : BitVec 6
  imm : BitVec 17
  k : Bool
deriving DecidableEq, Repr, Inhabited

/-- The BR format (R160): an 18-bit packet offset, guard and uniformity bit U. -/
structure BR where
  c : Bool
  off : BitVec 18
  g : BitVec 4
  n : Bool
  u : Bool
deriving DecidableEq, Repr, Inhabited

/-- The Z format (R160): a 16-bit code and a guard. -/
structure Z where
  c : Bool
  code : BitVec 16
  g : BitVec 4
  n : Bool
deriving DecidableEq, Repr, Inhabited

/-- The SY format (R160). -/
structure SY where
  c : Bool
  d : BitVec 6
  a : BitVec 6
  b : BitVec 6
  scope : BitVec 3
  ord : Ord
  x : Bool
deriving DecidableEq, Repr, Inhabited

/-- The CR format (R160): a v (K = 0) or w (K = 1) register and a 12-bit CSR number. -/
structure CR where
  c : Bool
  reg : BitVec 6
  csr : BitVec 12
  g : BitVec 4
  n : Bool
  k : Bool
deriving DecidableEq, Repr, Inhabited

/-- The XR format (R161) less OP and FN: first word and operate extension. -/
structure XR where
  h : RG
  kd : Cls
  ka : Cls
  kb : Cls
  kc : Cls
  rm : Rm
  ty : BitVec 3
  rc : BitVec 6
  md : BitVec 7
deriving DecidableEq, Repr, Inhabited

/-- The XI format (R161) less OP and FN: K and a 32-bit immediate as second source. -/
structure XI where
  c : Bool
  d : BitVec 6
  a : BitVec 6
  g : BitVec 4
  n : Bool
  k : Bool
  imm : W32
deriving DecidableEq, Repr, Inhabited

/-- A long form: XR, or XI where the function takes one (R177, R186). -/
inductive Alu where
  | xr (o : XR)
  | xi (o : XI)
deriving DecidableEq, Repr, Inhabited

/-- The MA format (R165): first word and access descriptor. -/
structure MA where
  h : RG
  scope : BitVec 3
  ord : Ord
  sz : BitVec 3
  scl : BitVec 2
  ka : Bool
  kb : Bool
  nb : Bool
  p64 : Bool
  opx : BitVec 4
  off : BitVec 14
deriving DecidableEq, Repr, Inhabited

/-- The payload of an instruction of XP whose payload bits [27:0] are all 0. -/
structure NoP where
deriving DecidableEq, Repr, Inhabited

/-- Payload of the subscription family (R227). -/
structure SubP where
  mode : Bool
  fmt : BitVec 3
deriving DecidableEq, Repr, Inhabited

/-- Payload of CPY (R229). -/
structure CpyP where
  cb : BitVec 6
  rel : Bool
  scope : BitVec 3
  dl : Bool
  sl : Bool
deriving DecidableEq, Repr, Inhabited

/-- Payload of CPYQ (R229, R231). -/
structure CpyqP where
  cb : BitVec 6
  rel : Bool
  scope : BitVec 3
  gs : BitVec 2
  s : BitVec 6
  seq : BitVec 8
  w4 : Bool
deriving DecidableEq, Repr, Inhabited

/-- Payload of PUB, COLL and BLD (R232, R298). -/
structure EngP where
  cb : BitVec 6
  rel : Bool
  scope : BitVec 3
deriving DecidableEq, Repr, Inhabited

/-- Payload of the instruction-cache form of CINV (I = 1, R234). -/
structure CinvIP where
deriving DecidableEq, Repr, Inhabited

/-- Payload of TLDB (BTY, H; R249) and TMMA (ATY, H; R250). -/
structure TldbP where
  ty : BitVec 3
  half : Bool
deriving DecidableEq, Repr, Inhabited

/-- Payload of TMMQ (R250). -/
structure TmmqP where
  ty : BitVec 3
  half : Bool
  seq : BitVec 8
  gs : BitVec 2
  ce : BitVec 10
deriving DecidableEq, Repr, Inhabited

/-- Payload of TMSP (R250). -/
structure TmspP where
  ty : BitVec 3
  half : Bool
  sk : Bool
  cbv : Bool
  c : BitVec 6
  m : BitVec 6
  phx : Bool
deriving DecidableEq, Repr, Inhabited

/-- Payload of TEPI (R255). -/
structure TepiP where
  ofmt : BitVec 3
  act : BitVec 2
  dl : Bool
  c : BitVec 6
  sr : BitVec 6
  br : BitVec 6
  scope : BitVec 3
deriving DecidableEq, Repr, Inhabited

/-- Payload of TCON (R256). -/
structure TconP where
  scope : BitVec 3
deriving DecidableEq, Repr, Inhabited

/-- Payload of RAST (R265). -/
structure RastP where
  hr : BitVec 6
  s : BitVec 6
  spp : BitVec 2
  hiz : Bool
  ez : Bool
  cull : BitVec 2
deriving DecidableEq, Repr, Inhabited

/-- Payload of TEX, TEXG and TEXQ (R286). -/
structure TexP where
  lod : Bool
  ch : BitVec 2
deriving DecidableEq, Repr, Inhabited

/-- Payload of SPAWN (R315). -/
structure SpawnP where
  rel : Bool
  scope : BitVec 3
  nrs : BitVec 4
deriving DecidableEq, Repr, Inhabited

/-- Payload of LAUNCH.grid: MODE 0 (R324). -/
structure Launch0 where
deriving DecidableEq, Repr, Inhabited

/-- Payload of LAUNCH.graph: MODE 1 (R324). -/
structure Launch1 where
deriving DecidableEq, Repr, Inhabited

/-- Payload of LAUNCH.arm: MODE 2 (R324). -/
structure Launch2 where
deriving DecidableEq, Repr, Inhabited

/-- Payload of MBPOST: the number of mailboxes less 1 (R308). -/
structure MbpostP where
  n : BitVec 3
deriving DecidableEq, Repr, Inhabited

/-! ### Operands of the events -/

/-- Who asks the home for a line, or who holds a copy of it: a cluster (0 to 255) of the home die, a die's remote-data cache,
or the host (R51, R52, R65). -/
inductive Requester where
  | cluster (c : Nat)
  | rdc (die : Nat)
  | host
deriving DecidableEq, Repr, Inhabited

/-- What an access of a peer package does here (R64). -/
inductive PeerOp where
  | read (size : Nat)
  | write (bytes : List Byte)
  | atomic (wide : Bool) (op : BitVec 4) (x y : W64)
deriving DecidableEq, Repr, Inhabited

/-- An access that a peer package sends to this one (R64): the peer and its source port, as one number, the address, and what it does there. -/
structure PeerReq where
  port : Nat
  pa : Nat
  op : PeerOp
deriving DecidableEq, Repr, Inhabited

/-- A subscription request on its way to the home slice (R74, R76, R81): the asking cluster, the context, the region's address. -/
inductive SubReq where
  | subscribe (cluster ctx region : Nat) (fmt : BitVec 3) (inv : Bool)
  | unsub (cluster ctx region : Nat)
  | subup (cluster ctx region : Nat) (fmt : BitVec 3)
deriving DecidableEq, Repr, Inhabited

/-- Whose decrement a TCB_DECREMENT is (R228, R327): an STC's, with the LANE, WAVE, CL and PC bits of its lane; or a predecessor's, with its address. -/
inductive DecBy where
  | stc (lane : Nat)
  | tcb (pred : BitVec 64)
deriving DecidableEq, Repr, Inhabited

/-- A host access to the register window: an aligned 8-byte write, or an access of another shape, read or write (R360). -/
inductive HostAccess where
  | write (die off : Nat) (value : W64)
  | malformedRead (die off : Nat)
  | malformedWrite (die off : Nat)
deriving DecidableEq, Repr, Inhabited

/-- The unit of a kind-3 event of the error log (R372, R373). -/
inductive FailUnit where
  | cluster (c : Nat)
  | cartCore (c cart : Nat)
  | hbmRow (stack channel row : Nat)
  | hbmChannel (stack channel : Nat)
  | fleogLane (port : Nat)
deriving DecidableEq, Repr, Inhabited

/-- One entry of the scope table (R93): a device index and its distance. -/
structure ScopeRow where
  dev : Nat
  dist : BitVec 4
deriving DecidableEq, Repr, Inhabited

/-- A signed record of the module's flash (R374): KIND (1 firmware, 2 configuration, 3 device certificate), security version, the 64 bytes that name its target, its
body and its signature. -/
structure BootRecord where
  kind : Nat
  version : Nat
  target : List Byte
  body : List Byte
  signature : List Byte
deriving DecidableEq, Repr, Inhabited

/-- What boot finds (R365, R374, R378). From the body of the configuration record: device index, domain, the gateway table by entry (R367), the spare map by die (R373),
whether the second tier is exported to the host (R359), PWRLIM, FUNCMODE and HOSTSZ in GiB. From discovery: the scope table (R93), and for each die's
memory port the capacities in bytes of its expanders, in enumeration order. From the flash: the firmware records in load order, the configuration record
and the device certificate. `failAt` is a stage at which this boot fails for another reason than a rejected record, 0 for none. -/
structure BootCfg where
  devIdx : BitVec 14
  domain : BitVec 4
  gateways : List (Nat × Nat × Nat)
  spares : List (Nat × FailUnit)
  exported : Bool
  pwrlim : Nat
  funcmode : BitVec 3
  hostGiB : Nat
  scopeTab : List ScopeRow
  tier2 : List (List Nat)
  firmware : List BootRecord
  config : BootRecord
  certificate : BootRecord
  failAt : Nat
deriving DecidableEq, Repr, Inhabited

/-- The steps of the machine. The first part is the instruction set (R166 to R168), one constructor per encoding row of the table;
the second part is the events (spec/95_what_each_step_holds.md). An event without operands acts at the unit that State.site names: a
cluster, die, wave, queue position or line, as the comment beside it says. -/
inductive Instr where
  | add (o : Alu)
  | addRg (o : RG)
  | addIm (o : IM)
  | sub (o : Alu)
  | subRg (o : RG)
  | mul (o : Alu)
  | mulRg (o : RG)
  | mulh (o : Alu)
  | mulhu (o : Alu)
  | mad (o : XR)
  | madRg (o : RG)
  | div (o : Alu)
  | divu (o : Alu)
  | rem (o : Alu)
  | remu (o : Alu)
  | and (o : Alu)
  | andRg (o : RG)
  | andIm (o : IM)
  | or (o : Alu)
  | orRg (o : RG)
  | orIm (o : IM)
  | xor (o : Alu)
  | xorRg (o : RG)
  | xorIm (o : IM)
  | andn (o : Alu)
  | andnRg (o : RG)
  | shl (o : Alu)
  | shlRg (o : RG)
  | shlIm (o : IM)
  | shr (o : Alu)
  | shrRg (o : RG)
  | shrIm (o : IM)
  | sra (o : Alu)
  | sraRg (o : RG)
  | sraIm (o : IM)
  | rol (o : Alu)
  | clz (o : XR)
  | clzRg (o : RG)
  | ctz (o : XR)
  | ctzRg (o : RG)
  | popc (o : XR)
  | popcRg (o : RG)
  | brev (o : XR)
  | bfe (o : Alu)
  | bfi (o : XR)
  | bil (o : XR)
  | bilx (o : XR)
  | min (o : Alu)
  | minRg (o : RG)
  | max (o : Alu)
  | maxRg (o : RG)
  | minu (o : Alu)
  | maxu (o : Alu)
  | abs (o : XR)
  | sel (o : XR)
  | cmp (o : XR)
  | mov (o : XR)
  | movRg (o : RG)
  | movi (o : XI)
  | moviIw (o : IW)
  | movh (o : XI)
  | movhIw (o : IW)
  | lea (o : XR)
  | fadd (o : Alu)
  | faddRg (o : RG)
  | fsub (o : Alu)
  | fsubRg (o : RG)
  | fmul (o : Alu)
  | fmulRg (o : RG)
  | ffma (o : XR)
  | ffmaRg (o : RG)
  | fmin (o : Alu)
  | fminRg (o : RG)
  | fmax (o : Alu)
  | fmaxRg (o : RG)
  | fcmp (o : XR)
  | frcp (o : XR)
  | frcpRg (o : RG)
  | frsq (o : XR)
  | frsqRg (o : RG)
  | fsqrt (o : XR)
  | fsqrtRg (o : RG)
  | fexp2 (o : XR)
  | fexp2Rg (o : RG)
  | flog2 (o : XR)
  | flog2Rg (o : RG)
  | fsin (o : XR)
  | fsinRg (o : RG)
  | fcos (o : XR)
  | fcosRg (o : RG)
  | frnd (o : XR)
  | fclass (o : XR)
  | fcvt (o : XR)
  | dot4 (o : XR)
  | dot2 (o : XR)
  | wmul (o : XR)
  | quant (o : XR)
  | dequant (o : XR)
  | pack (o : XR)
  | unpack (o : XR)
  | shfl (o : XR)
  | shflRg (o : RG)
  | vote (o : XR)
  | redux (o : XR)
  | scan (o : XR)
  | matchv (o : XR)
  | elect (o : XR)
  | mpopc (o : XR)
  | mand (o : RG)
  | mor (o : RG)
  | mxor (o : RG)
  | mnot (o : RG)
  | mmov (o : RG)
  | bra (o : BR)
  | call (o : BR)
  | setmeet (o : BR)
  | brx (o : RG)
  | ret (o : RG)
  | exit (o : Z)
  | yieldv (o : Z)
  | nop (o : Z)
  | trap (o : Z)
  | bkpt (o : Z)
  | ld (o : MA)
  | st (o : MA)
  | ldv (o : MA)
  | gather (o : MA)
  | scatter (o : MA)
  | ldlm (o : MA)
  | stlm (o : MA)
  | lmbc (o : MA)
  | prefetch (o : MA)
  | atom (o : MA)
  | atomo (o : MA)
  | stc (o : MA)
  | fence (o : SY)
  | drain (o : SY)
  | bar (o : SY)
  | gbar (o : SY)
  | waita (o : SY)
  | cbinit (o : SY)
  | cbexpect (o : SY)
  | cbarrive (o : SY)
  | cbwait (o : SY)
  | cbtest (o : SY)
  | subscribe (h : RG) (p : SubP)
  | unsub (h : RG) (p : SubP)
  | subup (h : RG) (p : SubP)
  | cpy (h : RG) (p : CpyP)
  | cpyq (h : RG) (p : CpyqP)
  | pub (h : RG) (p : EngP)
  | coll (h : RG) (p : EngP)
  | cflush (h : RG) (p : NoP)
  | cinv (h : RG) (p : NoP)
  | cinvI (h : RG) (p : CinvIP)
  | tlease (o : RG)
  | trel (o : RG)
  | tzero (o : RG)
  | tring (o : RG)
  | tracc (o : RG)
  | twacc (o : RG)
  | tldb (h : RG) (p : TldbP)
  | tmma (h : RG) (p : TldbP)
  | tmmq (h : RG) (p : TmmqP)
  | tmsp (h : RG) (p : TmspP)
  | tepi (h : RG) (p : TepiP)
  | tcon (h : RG) (p : TconP)
  | rast (h : RG) (p : RastP)
  | hizupd (o : RG)
  | discard (o : RG)
  | tbind (o : RG)
  | tbindFlush (o : RG)
  | tex (h : RG) (p : TexP)
  | texg (h : RG) (p : TexP)
  | texq (h : RG) (p : TexP)
  | ibox (h : RG) (p : NoP)
  | itri (h : RG) (p : NoP)
  | bld (h : RG) (p : EngP)
  | spawn (h : RG) (p : SpawnP)
  | launchGrid (h : RG) (p : Launch0)
  | launchGraph (h : RG) (p : Launch1)
  | launchArm (h : RG) (p : Launch2)
  | mbpost (h : RG) (p : MbpostP)
  | reorder (h : RG) (p : NoP)
  | migrate (h : RG) (p : NoP)
  | cplflush (o : RG)
  | cplflushPc (o : RG)
  | cplflushKey (o : RG)
  | qnotify (o : RG)
  | csrr (o : CR)
  | csrw (o : CR)
  | eret (o : Z)
  | sysc (o : Z)
  | tlbinvVa (o : RG)
  | tlbinvCtx (o : RG)
  | tlbinvAll (o : RG)
  | clkrd (o : RG)
  | fillReturn (die line : Nat)
  | homeLoadMiss (from_ : Requester) (line : Nat)
  | homeStore (cluster pa : Nat) (bytes : List Byte)
  | homeAtomic (die pa : Nat) (wide : Bool) (op : BitVec 4) (x y : BitVec 64)
  | homeWriteback (die line : Nat)
  | dirtyNotice (die region : Nat)
  | clusterProbe (cluster region : Nat) (mask : BitVec 8) (storer : Option Nat)
  | rdcInvalidate (die line : Nat)
  | rdcPull (die line : Nat)
  | rdcDrainTimer (die line : Nat)
  | remoteTagInstall (die region : Nat) (install : Bool)
  | hold (cluster region : Nat) (fmt : BitVec 3) (words : List Nat)
  | dataMsg (cluster region : Nat) (fmt : BitVec 3) (words : List (Nat × BitVec 32))
  | inval (cluster region : Nat) (fmt : BitVec 3)
  | probeTimeout (holder : Requester) (line : Nat)
  | atomoAccept (ctx pa : Nat) (key value : BitVec 32)
  | notifyFold (die slot : Nat)
  | tcbDecrement (ctx die : Nat) (tcb : BitVec 64) (by_ : DecBy)
  | remoteResponse (index : Nat) (ok : Bool)
  | peerAccess (req : PeerReq)
  | hostMemRead (pa size : Nat)
  | hostMemWrite (pa : Nat) (bytes : List Byte)
  | pgresp (die : Nat) (value : BitVec 64)
  | pctlPreempt (value : BitVec 64)
  | pctlResume (value : BitVec 64)
  | pctlKill (value : BitVec 64)
  | gdoor (value : BitVec 64)
  | qnc (die slot : Nat) (value : BitVec 64)
  | dispatch (die : Nat) (value : BitVec 64)
  | funcmodeWrite (value : BitVec 64)
  | prqbaseWrite (die : Nat) (value : BitVec 64)
  | resetctl (value : BitVec 64)
  | errlogClear (die : Nat) (value : BitVec 64)
  | statusAccerrClear (die : Nat) (value : BitVec 64)
  | attestation (value : BitVec 64)
  | hostRegisterWrite (access : HostAccess)
  | correctedError (die : Nat) (unit : BitVec 4) (addr : BitVec 52)
  | unitFailure (die : Nat) (unit : FailUnit)
  | powerGating (die : Nat) (level : BitVec 2)
  | clusterClockStop (cluster : Nat) (stop : Bool)
  | powerOn (cfg : BootCfg)
  | unassignedMajor (word : BitVec 32)
  | homeSubscriptionRequest (req : SubReq)
  | loadReturn  -- at a wave
  | pageWalk  -- at a die
  | walkComplete  -- at a die
  | pageCopyDone  -- at a die
  | logReplay  -- at a wave
  | engineHandback  -- at a index
  | fpParkAction  -- at a wave
  | supvPostRetry  -- at a index
  | waitaWake  -- at a wave
  | waitaPeerPoll  -- at a wave
  | couplerAccept  -- at a cluster
  | couplerTimeout  -- at a cluster
  | waveAdmit  -- at a cluster
  | cartDispatch  -- at a cluster
  | teamAdmit  -- at a grid
  | qmDecision  -- at a die
  | leaseGrant  -- at a cluster
  | leaseExpiry  -- at a cluster
  | tensorCommandDone  -- at a cluster
  | tconStep  -- at a cluster
  | ringTransfer  -- at a gang
  | copyEngineDone  -- at a cluster
  | publishDone  -- at a cluster
  | collectiveDone  -- at a cluster
  | sbeCommandDone  -- at a die
  | remoteAccessTimeout  -- at a index
  | pctlDone
  | teamResumePlace  -- at a context
  | blddoneArrive  -- at a die
  | blddoneHandback  -- at a die
  | uncorrectableError  -- at a line
  | thermalTrip
  | flitCrcFail  -- at a port
  | linkLaneFail  -- at a port
  | yieldTimeout  -- at a wave
  | backInvalidationAnswer  -- at a line
  | hostWriteCompletion  -- at a index
  | pageRequestRoomRecheck  -- at a die
deriving DecidableEq, Repr, Inhabited

end Sys2Proof
end

