-- ==== Sys2Proof/Machine/Bits.lean ====
section
/-! DEFINITION. Bit fields, sign extension, little-endian bytes and small association lists, used by the decoder and the machine. -/

namespace Sys2Proof

/-- Bits [lo + len - 1 : lo] of a word (R6). -/
def fld {n : Nat} (w : BitVec n) (lo len : Nat) : BitVec len := BitVec.ofNat len (w.toNat / 2 ^ lo)

/-- Bit i of a word. -/
def bit {n : Nat} (w : BitVec n) (i : Nat) : Bool := w.toNat / 2 ^ i % 2 == 1

/-- The word with bits [lo + len - 1 : lo] replaced by the low bits of x. -/
def putFld {n : Nat} (w : BitVec n) (lo len x : Nat) : BitVec n :=
  BitVec.ofNat n (w.toNat % 2 ^ lo + x % 2 ^ len * 2 ^ lo + w.toNat / 2 ^ (lo + len) * 2 ^ (lo + len))

/-- The two's-complement reading of the low n bits of x: `sgn` of R174. -/
def sgn (n x : Nat) : Int := if x % 2 ^ n < 2 ^ (n - 1) then (x % 2 ^ n : Nat) else (x % 2 ^ n : Nat) - (2 ^ n : Nat)

/-- The low n bits of an integer as a natural number: wrap32 and wrap64 of R6. -/
def wrap (n : Nat) (x : Int) : Nat := (x % (2 ^ n : Nat)).toNat

/-- The first n bytes of x, lowest first (R154). -/
def leBytes : Nat → Nat → List Byte
  | 0, _ => []
  | n + 1, x => BitVec.ofNat 8 x :: leBytes n (x / 256)

/-- The number whose bytes, lowest first, are given. -/
def leNat : List Byte → Nat
  | [] => 0
  | b :: r => b.toNat + 256 * leNat r

/-- The 32-bit words of a byte list, lowest first. -/
def leWords : List Byte → List W32
  | a :: b :: c :: d :: r => BitVec.ofNat 32 (leNat [a, b, c, d]) :: leWords r
  | _ => []

/-- Element k of a list, or d beyond its end. -/
def nth {α : Type} (d : α) : List α → Nat → α
  | [], _ => d
  | x :: _, 0 => x
  | _ :: r, k + 1 => nth d r k

/-- The list with element k replaced; unchanged if the list is shorter. -/
def setNth {α : Type} (y : α) : List α → Nat → List α
  | [], _ => []
  | _ :: r, 0 => y :: r
  | x :: r, k + 1 => x :: setNth y r k

/-- The numbers lo, lo + 1, ..., lo + n - 1. -/
def span (lo : Nat) : Nat → List Nat
  | 0 => []
  | n + 1 => lo :: span (lo + 1) n

/-- The value at a key of an association list whose keys rise, or d where there is none. -/
def aget {α : Type} (d : α) : List (Nat × α) → Nat → α
  | [], _ => d
  | (j, x) :: r, k => if j == k then x else aget d r k

/-- An association list, keys rising, with one entry set. -/
def aset {α : Type} (k : Nat) (y : α) : List (Nat × α) → List (Nat × α)
  | [] => [(k, y)]
  | (j, x) :: r => if j == k then (k, y) :: r else if k < j then (k, y) :: (j, x) :: r else (j, x) :: aset k y r

/-- An association list without an entry for the key. -/
def adel {α : Type} (k : Nat) (l : List (Nat × α)) : List (Nat × α) := l.filter (fun p => p.1 != k)

/-- The least element of a list of numbers, if there is one. -/
def least : List Nat → Option Nat
  | [] => none
  | x :: r => match least r with
    | none => some x
    | some y => some (if x ≤ y then x else y)

/-- Insertion into a list ordered by a key; equal keys keep their order of insertion. -/
def insertBy {α : Type} (key : α → Nat) (x : α) : List α → List α
  | [] => [x]
  | y :: r => if key x < key y then x :: y :: r else y :: insertBy key x r

/-- Stable ascending sort by a key. -/
def sortBy {α : Type} (key : α → Nat) (l : List α) : List α := l.foldl (fun acc x => insertBy key x acc) []

/-- n divided by d, rounded up. -/
def ceilDiv (n d : Nat) : Nat := (n + d - 1) / d

/-- Sign extension of bit 51 to a 64-bit address: the canonical address of a 52-bit one (R11, R204). -/
def canon52 (x : Nat) : W64 := (BitVec.ofNat 52 x).signExtend 64

/-- Bits [63:52] of a canonical address all equal bit 51 (R11). -/
def canonical (a : W64) : Bool := a == canon52 a.toNat

end Sys2Proof
end

