-- ==== Sys2Proof/Decode.lean ====
section
/-! DEFINITION. The decoder, total on any words, and the encoder: the formats of R160, R161 and R165, the opcode map of R166 and the
function lists of R168. -/

namespace Sys2Proof

/-- Why a word is no instruction of the table. -/
inductive DecodeError where
  /-- a function number or form outside the family's list (R159, R161) -/
  | badFunction
  /-- a bit named 0 in the layout, or a payload bit that must be 0, is set (R159) -/
  | reservedBits
  /-- a two-word instruction with no second word: word 3 of a packet (R154), or the end of the bytes -/
  | truncated
deriving DecidableEq, Repr, Inhabited

/-! ### Codes of small fields -/

/-- Class codes of R161. -/
def Cls.ofCode (x : BitVec 2) : Cls := if x = 0 then .v else if x = 1 then .w else if x = 2 then .m else .mb
/-- Class codes of R161. -/
def Cls.code : Cls → Nat
  | .v => 0 | .w => 1 | .m => 2 | .mb => 3
/-- Rounding codes of R121. -/
def Rm.ofCode (x : BitVec 2) : Rm := if x = 0 then .rne else if x = 1 then .rz else if x = 2 then .ru else .rd
/-- Rounding codes of R121. -/
def Rm.code : Rm → Nat
  | .rne => 0 | .rz => 1 | .ru => 2 | .rd => 3
/-- Ordering codes of R160. -/
def Ord.ofCode (x : BitVec 2) : Ord := if x = 0 then .plain else if x = 1 then .acq else if x = 2 then .rel else .ar
/-- Ordering codes of R160. -/
def Ord.code : Ord → Nat
  | .plain => 0 | .acq => 1 | .rel => 2 | .ar => 3

/-- The major opcode, bits [30:24] of the first word. -/
def majorOf (w : W32) : Nat := w.toNat / 16777216 % 128

/-! ### Formats: words to fields and back -/

def RG.ofWord (w : W32) : RG :=
  { c := bit w 31, d := fld w 18 6, a := fld w 12 6, b := fld w 6 6, g := fld w 2 4, n := bit w 1, x := bit w 0 }
def RG.toWord (op : Nat) (o : RG) : W32 :=
  BitVec.ofNat 32 (o.x.toNat + 2 * o.n.toNat + 4 * o.g.toNat + 64 * o.b.toNat + 4096 * o.a.toNat + 262144 * o.d.toNat
    + 16777216 * op + 2147483648 * o.c.toNat)
def IM.ofWord (w : W32) : IM :=
  { c := bit w 31, d := fld w 18 6, a := fld w 12 6, imm := fld w 1 11, k := bit w 0 }
def IM.toWord (op : Nat) (o : IM) : W32 :=
  BitVec.ofNat 32 (o.k.toNat + 2 * o.imm.toNat + 4096 * o.a.toNat + 262144 * o.d.toNat + 16777216 * op + 2147483648 * o.c.toNat)
def IW.ofWord (w : W32) : IW := { c := bit w 31, d := fld w 18 6, imm := fld w 1 17, k := bit w 0 }
def IW.toWord (op : Nat) (o : IW) : W32 :=
  BitVec.ofNat 32 (o.k.toNat + 2 * o.imm.toNat + 262144 * o.d.toNat + 16777216 * op + 2147483648 * o.c.toNat)
def BR.ofWord (w : W32) : BR := { c := bit w 31, off := fld w 6 18, g := fld w 2 4, n := bit w 1, u := bit w 0 }
def BR.toWord (op : Nat) (o : BR) : W32 :=
  BitVec.ofNat 32 (o.u.toNat + 2 * o.n.toNat + 4 * o.g.toNat + 64 * o.off.toNat + 16777216 * op + 2147483648 * o.c.toNat)
def Z.ofWord (w : W32) : Z := { c := bit w 31, code := fld w 8 16, g := fld w 2 4, n := bit w 1 }
def Z.toWord (op : Nat) (o : Z) : W32 :=
  BitVec.ofNat 32 (2 * o.n.toNat + 4 * o.g.toNat + 256 * o.code.toNat + 16777216 * op + 2147483648 * o.c.toNat)
def SY.ofWord (w : W32) : SY :=
  { c := bit w 31, d := fld w 18 6, a := fld w 12 6, b := fld w 6 6, scope := fld w 3 3, ord := .ofCode (fld w 1 2), x := bit w 0 }
def SY.toWord (op : Nat) (o : SY) : W32 :=
  BitVec.ofNat 32 (o.x.toNat + 2 * o.ord.code + 8 * o.scope.toNat + 64 * o.b.toNat + 4096 * o.a.toNat + 262144 * o.d.toNat
    + 16777216 * op + 2147483648 * o.c.toNat)
def CR.ofWord (w : W32) : CR :=
  { c := bit w 31, reg := fld w 18 6, csr := fld w 6 12, g := fld w 2 4, n := bit w 1, k := bit w 0 }
def CR.toWord (op : Nat) (o : CR) : W32 :=
  BitVec.ofNat 32 (o.k.toNat + 2 * o.n.toNat + 4 * o.g.toNat + 64 * o.csr.toNat + 262144 * o.reg.toNat + 16777216 * op
    + 2147483648 * o.c.toNat)
/-- XR of R161: FN is bits [31:26] of the payload word. -/
def XR.ofWords (w p : W32) : XR :=
  { h := .ofWord w, kd := .ofCode (fld p 24 2), ka := .ofCode (fld p 22 2), kb := .ofCode (fld p 20 2), kc := .ofCode (fld p 18 2),
    rm := .ofCode (fld p 16 2), ty := fld p 13 3, rc := fld p 7 6, md := fld p 0 7 }
def XR.payload (fn : Nat) (o : XR) : W32 :=
  BitVec.ofNat 32 (o.md.toNat + 128 * o.rc.toNat + 8192 * o.ty.toNat + 65536 * o.rm.code + 262144 * o.kc.code + 1048576 * o.kb.code
    + 4194304 * o.ka.code + 16777216 * o.kd.code + 67108864 * fn)
/-- XI of R161: FN is bits [11:6] of the first word. -/
def XI.ofWords (w p : W32) : XI :=
  { c := bit w 31, d := fld w 18 6, a := fld w 12 6, g := fld w 2 4, n := bit w 1, k := bit w 0, imm := p }
def XI.toWord (op fn : Nat) (o : XI) : W32 :=
  BitVec.ofNat 32 (o.k.toNat + 2 * o.n.toNat + 4 * o.g.toNat + 64 * fn + 4096 * o.a.toNat + 262144 * o.d.toNat + 16777216 * op
    + 2147483648 * o.c.toNat)
def MA.ofWords (w p : W32) : MA :=
  { h := .ofWord w, scope := fld p 29 3, ord := .ofCode (fld p 27 2), sz := fld p 24 3, scl := fld p 22 2, ka := bit p 21, kb := bit p 20,
    nb := bit p 19, p64 := bit p 18, opx := fld p 14 4, off := fld p 0 14 }
def MA.payload (o : MA) : W32 :=
  BitVec.ofNat 32 (o.off.toNat + 16384 * o.opx.toNat + 262144 * o.p64.toNat + 524288 * o.nb.toNat + 1048576 * o.kb.toNat
    + 2097152 * o.ka.toNat + 4194304 * o.scl.toNat + 16777216 * o.sz.toNat + 134217728 * o.ord.code + 536870912 * o.scope.toNat)

/-! ### XP payloads, bits [27:0] under FN in [31:28] -/

def NoP.ofPay (_ : W32) : NoP := {}
def NoP.toPay (_ : NoP) : Nat := 0
def CinvIP.ofPay (_ : W32) : CinvIP := {}
def CinvIP.toPay (_ : CinvIP) : Nat := 1
def SubP.ofPay (p : W32) : SubP := { mode := bit p 3, fmt := fld p 0 3 }
def SubP.toPay (o : SubP) : Nat := o.fmt.toNat + 8 * o.mode.toNat
def CpyP.ofPay (p : W32) : CpyP :=
  { cb := fld p 22 6, rel := bit p 21, scope := fld p 18 3, dl := bit p 17, sl := bit p 16 }
def CpyP.toPay (o : CpyP) : Nat :=
  65536 * o.sl.toNat + 131072 * o.dl.toNat + 262144 * o.scope.toNat + 2097152 * o.rel.toNat + 4194304 * o.cb.toNat
def CpyqP.ofPay (p : W32) : CpyqP :=
  { cb := fld p 22 6, rel := bit p 21, scope := fld p 18 3, gs := fld p 16 2, s := fld p 10 6, seq := fld p 2 8, w4 := bit p 1 }
def CpyqP.toPay (o : CpyqP) : Nat :=
  2 * o.w4.toNat + 4 * o.seq.toNat + 1024 * o.s.toNat + 65536 * o.gs.toNat + 262144 * o.scope.toNat + 2097152 * o.rel.toNat
    + 4194304 * o.cb.toNat
def EngP.ofPay (p : W32) : EngP := { cb := fld p 22 6, rel := bit p 21, scope := fld p 18 3 }
def EngP.toPay (o : EngP) : Nat := 262144 * o.scope.toNat + 2097152 * o.rel.toNat + 4194304 * o.cb.toNat
def TldbP.ofPay (p : W32) : TldbP := { ty := fld p 25 3, half := bit p 24 }
def TldbP.toPay (o : TldbP) : Nat := 16777216 * o.half.toNat + 33554432 * o.ty.toNat
def TmmqP.ofPay (p : W32) : TmmqP :=
  { ty := fld p 25 3, half := bit p 24, seq := fld p 16 8, gs := fld p 14 2, ce := fld p 4 10 }
def TmmqP.toPay (o : TmmqP) : Nat :=
  16 * o.ce.toNat + 16384 * o.gs.toNat + 65536 * o.seq.toNat + 16777216 * o.half.toNat + 33554432 * o.ty.toNat
def TmspP.ofPay (p : W32) : TmspP :=
  { ty := fld p 25 3, half := bit p 24, sk := bit p 23, cbv := bit p 22, c := fld p 16 6, m := fld p 10 6, phx := bit p 9 }
def TmspP.toPay (o : TmspP) : Nat :=
  512 * o.phx.toNat + 1024 * o.m.toNat + 65536 * o.c.toNat + 4194304 * o.cbv.toNat + 8388608 * o.sk.toNat + 16777216 * o.half.toNat
    + 33554432 * o.ty.toNat
def TepiP.ofPay (p : W32) : TepiP :=
  { ofmt := fld p 25 3, act := fld p 23 2, dl := bit p 22, c := fld p 16 6, sr := fld p 10 6, br := fld p 4 6, scope := fld p 0 3 }
def TepiP.toPay (o : TepiP) : Nat :=
  o.scope.toNat + 16 * o.br.toNat + 1024 * o.sr.toNat + 65536 * o.c.toNat + 4194304 * o.dl.toNat + 8388608 * o.act.toNat
    + 33554432 * o.ofmt.toNat
def TconP.ofPay (p : W32) : TconP := { scope := fld p 0 3 }
def TconP.toPay (o : TconP) : Nat := o.scope.toNat
def RastP.ofPay (p : W32) : RastP :=
  { hr := fld p 22 6, s := fld p 16 6, spp := fld p 14 2, hiz := bit p 13, ez := bit p 12, cull := fld p 10 2 }
def RastP.toPay (o : RastP) : Nat :=
  1024 * o.cull.toNat + 4096 * o.ez.toNat + 8192 * o.hiz.toNat + 16384 * o.spp.toNat + 65536 * o.s.toNat + 4194304 * o.hr.toNat
def TexP.ofPay (p : W32) : TexP := { lod := bit p 27, ch := fld p 25 2 }
def TexP.toPay (o : TexP) : Nat := 33554432 * o.ch.toNat + 134217728 * o.lod.toNat
def SpawnP.ofPay (p : W32) : SpawnP := { rel := bit p 27, scope := fld p 24 3, nrs := fld p 20 4 }
def SpawnP.toPay (o : SpawnP) : Nat := 1048576 * o.nrs.toNat + 16777216 * o.scope.toNat + 134217728 * o.rel.toNat
def Launch0.ofPay (_ : W32) : Launch0 := {}
def Launch0.toPay (_ : Launch0) : Nat := 0
def Launch1.ofPay (_ : W32) : Launch1 := {}
def Launch1.toPay (_ : Launch1) : Nat := 67108864
def Launch2.ofPay (_ : W32) : Launch2 := {}
def Launch2.toPay (_ : Launch2) : Nat := 134217728
def MbpostP.ofPay (p : W32) : MbpostP := { n := fld p 25 3 }
def MbpostP.toPay (o : MbpostP) : Nat := 33554432 * o.n.toNat

/-- The payload word of an XP function (R161). -/
def xpWord (fn pay : Nat) : W32 := BitVec.ofNat 32 (pay + 268435456 * fn)

/-- The words of an instruction, from the layouts and the opcode map; an event has none. -/
def encode (i : Instr) : Option (W32 × Option W32) :=
  match i with
  | .add (.xr o) => some (o.h.toWord 0x60, some (o.payload 0))
  | .add (.xi o) => some (o.toWord 0x64 0, some o.imm)
  | .addRg o => some (o.toWord 0x01, none)
  | .addIm o => some (o.toWord 0x10, none)
  | .sub (.xr o) => some (o.h.toWord 0x60, some (o.payload 1))
  | .sub (.xi o) => some (o.toWord 0x64 1, some o.imm)
  | .subRg o => some (o.toWord 0x02, none)
  | .mul (.xr o) => some (o.h.toWord 0x60, some (o.payload 2))
  | .mul (.xi o) => some (o.toWord 0x64 2, some o.imm)
  | .mulRg o => some (o.toWord 0x03, none)
  | .mulh (.xr o) => some (o.h.toWord 0x60, some (o.payload 3))
  | .mulh (.xi o) => some (o.toWord 0x64 3, some o.imm)
  | .mulhu (.xr o) => some (o.h.toWord 0x60, some (o.payload 4))
  | .mulhu (.xi o) => some (o.toWord 0x64 4, some o.imm)
  | .mad o => some (o.h.toWord 0x60, some (o.payload 5))
  | .madRg o => some (o.toWord 0x04, none)
  | .div (.xr o) => some (o.h.toWord 0x60, some (o.payload 6))
  | .div (.xi o) => some (o.toWord 0x64 6, some o.imm)
  | .divu (.xr o) => some (o.h.toWord 0x60, some (o.payload 7))
  | .divu (.xi o) => some (o.toWord 0x64 7, some o.imm)
  | .rem (.xr o) => some (o.h.toWord 0x60, some (o.payload 8))
  | .rem (.xi o) => some (o.toWord 0x64 8, some o.imm)
  | .remu (.xr o) => some (o.h.toWord 0x60, some (o.payload 9))
  | .remu (.xi o) => some (o.toWord 0x64 9, some o.imm)
  | .and (.xr o) => some (o.h.toWord 0x60, some (o.payload 10))
  | .and (.xi o) => some (o.toWord 0x64 10, some o.imm)
  | .andRg o => some (o.toWord 0x05, none)
  | .andIm o => some (o.toWord 0x11, none)
  | .or (.xr o) => some (o.h.toWord 0x60, some (o.payload 11))
  | .or (.xi o) => some (o.toWord 0x64 11, some o.imm)
  | .orRg o => some (o.toWord 0x06, none)
  | .orIm o => some (o.toWord 0x1a, none)
  | .xor (.xr o) => some (o.h.toWord 0x60, some (o.payload 12))
  | .xor (.xi o) => some (o.toWord 0x64 12, some o.imm)
  | .xorRg o => some (o.toWord 0x07, none)
  | .xorIm o => some (o.toWord 0x1b, none)
  | .andn (.xr o) => some (o.h.toWord 0x60, some (o.payload 13))
  | .andn (.xi o) => some (o.toWord 0x64 13, some o.imm)
  | .andnRg o => some (o.toWord 0x0f, none)
  | .shl (.xr o) => some (o.h.toWord 0x60, some (o.payload 14))
  | .shl (.xi o) => some (o.toWord 0x64 14, some o.imm)
  | .shlRg o => some (o.toWord 0x08, none)
  | .shlIm o => some (o.toWord 0x12, none)
  | .shr (.xr o) => some (o.h.toWord 0x60, some (o.payload 15))
  | .shr (.xi o) => some (o.toWord 0x64 15, some o.imm)
  | .shrRg o => some (o.toWord 0x09, none)
  | .shrIm o => some (o.toWord 0x13, none)
  | .sra (.xr o) => some (o.h.toWord 0x60, some (o.payload 16))
  | .sra (.xi o) => some (o.toWord 0x64 16, some o.imm)
  | .sraRg o => some (o.toWord 0x0a, none)
  | .sraIm o => some (o.toWord 0x14, none)
  | .rol (.xr o) => some (o.h.toWord 0x60, some (o.payload 17))
  | .rol (.xi o) => some (o.toWord 0x64 17, some o.imm)
  | .clz o => some (o.h.toWord 0x60, some (o.payload 18))
  | .clzRg o => some (o.toWord 0x18, none)
  | .ctz o => some (o.h.toWord 0x60, some (o.payload 19))
  | .ctzRg o => some (o.toWord 0x19, none)
  | .popc o => some (o.h.toWord 0x60, some (o.payload 20))
  | .popcRg o => some (o.toWord 0x17, none)
  | .brev o => some (o.h.toWord 0x60, some (o.payload 21))
  | .bfe (.xr o) => some (o.h.toWord 0x60, some (o.payload 22))
  | .bfe (.xi o) => some (o.toWord 0x64 22, some o.imm)
  | .bfi o => some (o.h.toWord 0x60, some (o.payload 23))
  | .bil o => some (o.h.toWord 0x60, some (o.payload 24))
  | .bilx o => some (o.h.toWord 0x60, some (o.payload 25))
  | .min (.xr o) => some (o.h.toWord 0x60, some (o.payload 26))
  | .min (.xi o) => some (o.toWord 0x64 26, some o.imm)
  | .minRg o => some (o.toWord 0x0b, none)
  | .max (.xr o) => some (o.h.toWord 0x60, some (o.payload 27))
  | .max (.xi o) => some (o.toWord 0x64 27, some o.imm)
  | .maxRg o => some (o.toWord 0x0c, none)
  | .minu (.xr o) => some (o.h.toWord 0x60, some (o.payload 28))
  | .minu (.xi o) => some (o.toWord 0x64 28, some o.imm)
  | .maxu (.xr o) => some (o.h.toWord 0x60, some (o.payload 29))
  | .maxu (.xi o) => some (o.toWord 0x64 29, some o.imm)
  | .abs o => some (o.h.toWord 0x60, some (o.payload 30))
  | .sel o => some (o.h.toWord 0x60, some (o.payload 31))
  | .cmp o => some (o.h.toWord 0x60, some (o.payload 32))
  | .mov o => some (o.h.toWord 0x60, some (o.payload 33))
  | .movRg o => some (o.toWord 0x0d, none)
  | .movi o => some (o.toWord 0x64 34, some o.imm)
  | .moviIw o => some (o.toWord 0x15, none)
  | .movh o => some (o.toWord 0x64 35, some o.imm)
  | .movhIw o => some (o.toWord 0x16, none)
  | .lea o => some (o.h.toWord 0x60, some (o.payload 36))
  | .fadd (.xr o) => some (o.h.toWord 0x61, some (o.payload 0))
  | .fadd (.xi o) => some (o.toWord 0x65 0, some o.imm)
  | .faddRg o => some (o.toWord 0x20, none)
  | .fsub (.xr o) => some (o.h.toWord 0x61, some (o.payload 1))
  | .fsub (.xi o) => some (o.toWord 0x65 1, some o.imm)
  | .fsubRg o => some (o.toWord 0x21, none)
  | .fmul (.xr o) => some (o.h.toWord 0x61, some (o.payload 2))
  | .fmul (.xi o) => some (o.toWord 0x65 2, some o.imm)
  | .fmulRg o => some (o.toWord 0x22, none)
  | .ffma o => some (o.h.toWord 0x61, some (o.payload 3))
  | .ffmaRg o => some (o.toWord 0x23, none)
  | .fmin (.xr o) => some (o.h.toWord 0x61, some (o.payload 4))
  | .fmin (.xi o) => some (o.toWord 0x65 4, some o.imm)
  | .fminRg o => some (o.toWord 0x24, none)
  | .fmax (.xr o) => some (o.h.toWord 0x61, some (o.payload 5))
  | .fmax (.xi o) => some (o.toWord 0x65 5, some o.imm)
  | .fmaxRg o => some (o.toWord 0x25, none)
  | .fcmp o => some (o.h.toWord 0x61, some (o.payload 6))
  | .frcp o => some (o.h.toWord 0x61, some (o.payload 7))
  | .frcpRg o => some (o.toWord 0x26, none)
  | .frsq o => some (o.h.toWord 0x61, some (o.payload 8))
  | .frsqRg o => some (o.toWord 0x27, none)
  | .fsqrt o => some (o.h.toWord 0x61, some (o.payload 9))
  | .fsqrtRg o => some (o.toWord 0x28, none)
  | .fexp2 o => some (o.h.toWord 0x61, some (o.payload 10))
  | .fexp2Rg o => some (o.toWord 0x29, none)
  | .flog2 o => some (o.h.toWord 0x61, some (o.payload 11))
  | .flog2Rg o => some (o.toWord 0x2a, none)
  | .fsin o => some (o.h.toWord 0x61, some (o.payload 12))
  | .fsinRg o => some (o.toWord 0x2b, none)
  | .fcos o => some (o.h.toWord 0x61, some (o.payload 13))
  | .fcosRg o => some (o.toWord 0x2c, none)
  | .frnd o => some (o.h.toWord 0x61, some (o.payload 14))
  | .fclass o => some (o.h.toWord 0x61, some (o.payload 15))
  | .fcvt o => some (o.h.toWord 0x61, some (o.payload 16))
  | .dot4 o => some (o.h.toWord 0x62, some (o.payload 0))
  | .dot2 o => some (o.h.toWord 0x62, some (o.payload 1))
  | .wmul o => some (o.h.toWord 0x62, some (o.payload 2))
  | .quant o => some (o.h.toWord 0x62, some (o.payload 3))
  | .dequant o => some (o.h.toWord 0x62, some (o.payload 4))
  | .pack o => some (o.h.toWord 0x62, some (o.payload 5))
  | .unpack o => some (o.h.toWord 0x62, some (o.payload 6))
  | .shfl o => some (o.h.toWord 0x63, some (o.payload 0))
  | .shflRg o => some (o.toWord 0x30, none)
  | .vote o => some (o.h.toWord 0x63, some (o.payload 1))
  | .redux o => some (o.h.toWord 0x63, some (o.payload 2))
  | .scan o => some (o.h.toWord 0x63, some (o.payload 3))
  | .matchv o => some (o.h.toWord 0x63, some (o.payload 4))
  | .elect o => some (o.h.toWord 0x63, some (o.payload 5))
  | .mpopc o => some (o.h.toWord 0x63, some (o.payload 6))
  | .mand o => some (o.toWord 0x31, none)
  | .mor o => some (o.toWord 0x32, none)
  | .mxor o => some (o.toWord 0x33, none)
  | .mnot o => some (o.toWord 0x34, none)
  | .mmov o => some (o.toWord 0x35, none)
  | .bra o => some (o.toWord 0x38, none)
  | .call o => some (o.toWord 0x39, none)
  | .setmeet o => some (o.toWord 0x3a, none)
  | .brx o => some (o.toWord 0x3b, none)
  | .ret o => some (o.toWord 0x3c, none)
  | .exit o => some (o.toWord 0x3d, none)
  | .yieldv o => some (o.toWord 0x3e, none)
  | .nop o => some (o.toWord 0x3f, none)
  | .trap o => some (o.toWord 0x4a, none)
  | .bkpt o => some (o.toWord 0x4b, none)
  | .ld o => some (o.h.toWord 0x66, some o.payload)
  | .st o => some (o.h.toWord 0x67, some o.payload)
  | .ldv o => some (o.h.toWord 0x68, some o.payload)
  | .gather o => some (o.h.toWord 0x69, some o.payload)
  | .scatter o => some (o.h.toWord 0x6a, some o.payload)
  | .ldlm o => some (o.h.toWord 0x6b, some o.payload)
  | .stlm o => some (o.h.toWord 0x6c, some o.payload)
  | .lmbc o => some (o.h.toWord 0x6d, some o.payload)
  | .prefetch o => some (o.h.toWord 0x6e, some o.payload)
  | .atom o => some (o.h.toWord 0x6f, some o.payload)
  | .atomo o => some (o.h.toWord 0x70, some o.payload)
  | .stc o => some (o.h.toWord 0x71, some o.payload)
  | .fence o => some (o.toWord 0x40, none)
  | .drain o => some (o.toWord 0x41, none)
  | .bar o => some (o.toWord 0x42, none)
  | .gbar o => some (o.toWord 0x43, none)
  | .waita o => some (o.toWord 0x44, none)
  | .cbinit o => some (o.toWord 0x45, none)
  | .cbexpect o => some (o.toWord 0x46, none)
  | .cbarrive o => some (o.toWord 0x47, none)
  | .cbwait o => some (o.toWord 0x48, none)
  | .cbtest o => some (o.toWord 0x49, none)
  | .subscribe h p => some (h.toWord 0x72, some (xpWord 0 p.toPay))
  | .unsub h p => some (h.toWord 0x72, some (xpWord 1 p.toPay))
  | .subup h p => some (h.toWord 0x72, some (xpWord 2 p.toPay))
  | .cpy h p => some (h.toWord 0x73, some (xpWord 0 p.toPay))
  | .cpyq h p => some (h.toWord 0x73, some (xpWord 1 p.toPay))
  | .pub h p => some (h.toWord 0x74, some (xpWord 0 p.toPay))
  | .coll h p => some (h.toWord 0x74, some (xpWord 1 p.toPay))
  | .cflush h p => some (h.toWord 0x75, some (xpWord 0 p.toPay))
  | .cinv h p => some (h.toWord 0x75, some (xpWord 1 p.toPay))
  | .cinvI h p => some (h.toWord 0x75, some (xpWord 1 p.toPay))
  | .tlease o => some (o.toWord 0x50, none)
  | .trel o => some (o.toWord 0x51, none)
  | .tzero o => some (o.toWord 0x52, none)
  | .tring o => some (o.toWord 0x53, none)
  | .tracc o => some (o.toWord 0x54, none)
  | .twacc o => some (o.toWord 0x55, none)
  | .tldb h p => some (h.toWord 0x76, some (xpWord 0 p.toPay))
  | .tmma h p => some (h.toWord 0x76, some (xpWord 1 p.toPay))
  | .tmmq h p => some (h.toWord 0x76, some (xpWord 2 p.toPay))
  | .tmsp h p => some (h.toWord 0x76, some (xpWord 3 p.toPay))
  | .tepi h p => some (h.toWord 0x76, some (xpWord 4 p.toPay))
  | .tcon h p => some (h.toWord 0x76, some (xpWord 5 p.toPay))
  | .rast h p => some (h.toWord 0x77, some (xpWord 0 p.toPay))
  | .hizupd o => some (o.toWord 0x56, none)
  | .discard o => some (o.toWord 0x57, none)
  | .tbind o => some (o.toWord 0x58, none)
  | .tbindFlush o => some (o.toWord 0x58, none)
  | .tex h p => some (h.toWord 0x78, some (xpWord 0 p.toPay))
  | .texg h p => some (h.toWord 0x78, some (xpWord 1 p.toPay))
  | .texq h p => some (h.toWord 0x78, some (xpWord 2 p.toPay))
  | .ibox h p => some (h.toWord 0x79, some (xpWord 0 p.toPay))
  | .itri h p => some (h.toWord 0x79, some (xpWord 1 p.toPay))
  | .bld h p => some (h.toWord 0x7a, some (xpWord 0 p.toPay))
  | .spawn h p => some (h.toWord 0x7b, some (xpWord 0 p.toPay))
  | .launchGrid h p => some (h.toWord 0x7b, some (xpWord 1 p.toPay))
  | .launchGraph h p => some (h.toWord 0x7b, some (xpWord 1 p.toPay))
  | .launchArm h p => some (h.toWord 0x7b, some (xpWord 1 p.toPay))
  | .mbpost h p => some (h.toWord 0x7c, some (xpWord 0 p.toPay))
  | .reorder h p => some (h.toWord 0x7c, some (xpWord 1 p.toPay))
  | .migrate h p => some (h.toWord 0x7c, some (xpWord 2 p.toPay))
  | .cplflush o => some (o.toWord 0x59, none)
  | .cplflushPc o => some (o.toWord 0x59, none)
  | .cplflushKey o => some (o.toWord 0x59, none)
  | .qnotify o => some (o.toWord 0x5a, none)
  | .csrr o => some (o.toWord 0x4c, none)
  | .csrw o => some (o.toWord 0x4d, none)
  | .eret o => some (o.toWord 0x4e, none)
  | .sysc o => some (o.toWord 0x4f, none)
  | .tlbinvVa o => some (o.toWord 0x5c, none)
  | .tlbinvCtx o => some (o.toWord 0x5c, none)
  | .tlbinvAll o => some (o.toWord 0x5c, none)
  | .clkrd o => some (o.toWord 0x5b, none)
  | .unassignedMajor w => some (w, none)
  | _ => none

/-- The functions of family major 0x60 (R168). -/
def decodeInt (fn : Nat) (o : XR) : Option Instr :=
  match fn with
  | 0 => some (.add (.xr o))
  | 1 => some (.sub (.xr o))
  | 2 => some (.mul (.xr o))
  | 3 => some (.mulh (.xr o))
  | 4 => some (.mulhu (.xr o))
  | 5 => some (.mad o)
  | 6 => some (.div (.xr o))
  | 7 => some (.divu (.xr o))
  | 8 => some (.rem (.xr o))
  | 9 => some (.remu (.xr o))
  | 10 => some (.and (.xr o))
  | 11 => some (.or (.xr o))
  | 12 => some (.xor (.xr o))
  | 13 => some (.andn (.xr o))
  | 14 => some (.shl (.xr o))
  | 15 => some (.shr (.xr o))
  | 16 => some (.sra (.xr o))
  | 17 => some (.rol (.xr o))
  | 18 => some (.clz o)
  | 19 => some (.ctz o)
  | 20 => some (.popc o)
  | 21 => some (.brev o)
  | 22 => some (.bfe (.xr o))
  | 23 => some (.bfi o)
  | 24 => some (.bil o)
  | 25 => some (.bilx o)
  | 26 => some (.min (.xr o))
  | 27 => some (.max (.xr o))
  | 28 => some (.minu (.xr o))
  | 29 => some (.maxu (.xr o))
  | 30 => some (.abs o)
  | 31 => some (.sel o)
  | 32 => some (.cmp o)
  | 33 => some (.mov o)
  | 36 => some (.lea o)
  | _ => none

/-- The functions of family major 0x61 (R168). -/
def decodeFlt (fn : Nat) (o : XR) : Option Instr :=
  match fn with
  | 0 => some (.fadd (.xr o))
  | 1 => some (.fsub (.xr o))
  | 2 => some (.fmul (.xr o))
  | 3 => some (.ffma o)
  | 4 => some (.fmin (.xr o))
  | 5 => some (.fmax (.xr o))
  | 6 => some (.fcmp o)
  | 7 => some (.frcp o)
  | 8 => some (.frsq o)
  | 9 => some (.fsqrt o)
  | 10 => some (.fexp2 o)
  | 11 => some (.flog2 o)
  | 12 => some (.fsin o)
  | 13 => some (.fcos o)
  | 14 => some (.frnd o)
  | 15 => some (.fclass o)
  | 16 => some (.fcvt o)
  | _ => none

/-- The functions of family major 0x62 (R168). -/
def decodePck (fn : Nat) (o : XR) : Option Instr :=
  match fn with
  | 0 => some (.dot4 o)
  | 1 => some (.dot2 o)
  | 2 => some (.wmul o)
  | 3 => some (.quant o)
  | 4 => some (.dequant o)
  | 5 => some (.pack o)
  | 6 => some (.unpack o)
  | _ => none

/-- The functions of family major 0x63 (R168). -/
def decodeLan (fn : Nat) (o : XR) : Option Instr :=
  match fn with
  | 0 => some (.shfl o)
  | 1 => some (.vote o)
  | 2 => some (.redux o)
  | 3 => some (.scan o)
  | 4 => some (.matchv o)
  | 5 => some (.elect o)
  | 6 => some (.mpopc o)
  | _ => none

/-- The functions of family major 0x64 (R168). -/
def decodeIntXi (fn : Nat) (o : XI) : Option Instr :=
  match fn with
  | 0 => some (.add (.xi o))
  | 1 => some (.sub (.xi o))
  | 2 => some (.mul (.xi o))
  | 3 => some (.mulh (.xi o))
  | 4 => some (.mulhu (.xi o))
  | 6 => some (.div (.xi o))
  | 7 => some (.divu (.xi o))
  | 8 => some (.rem (.xi o))
  | 9 => some (.remu (.xi o))
  | 10 => some (.and (.xi o))
  | 11 => some (.or (.xi o))
  | 12 => some (.xor (.xi o))
  | 13 => some (.andn (.xi o))
  | 14 => some (.shl (.xi o))
  | 15 => some (.shr (.xi o))
  | 16 => some (.sra (.xi o))
  | 17 => some (.rol (.xi o))
  | 22 => some (.bfe (.xi o))
  | 26 => some (.min (.xi o))
  | 27 => some (.max (.xi o))
  | 28 => some (.minu (.xi o))
  | 29 => some (.maxu (.xi o))
  | 34 => some (.movi o)
  | 35 => some (.movh o)
  | _ => none

/-- The functions of family major 0x65 (R168). -/
def decodeFltXi (fn : Nat) (o : XI) : Option Instr :=
  match fn with
  | 0 => some (.fadd (.xi o))
  | 1 => some (.fsub (.xi o))
  | 2 => some (.fmul (.xi o))
  | 4 => some (.fmin (.xi o))
  | 5 => some (.fmax (.xi o))
  | _ => none

/-- The MA majors (R166). -/
def decodeMa (op : Nat) (o : MA) : Option Instr :=
  match op with
  | 0x66 => some (.ld o)
  | 0x67 => some (.st o)
  | 0x68 => some (.ldv o)
  | 0x69 => some (.gather o)
  | 0x6a => some (.scatter o)
  | 0x6b => some (.ldlm o)
  | 0x6c => some (.stlm o)
  | 0x6d => some (.lmbc o)
  | 0x6e => some (.prefetch o)
  | 0x6f => some (.atom o)
  | 0x70 => some (.atomo o)
  | 0x71 => some (.stc o)
  | _ => none

/-- The functions of the XP majors (R168); LAUNCH by MODE (R324), CINV by I (R234). -/
def decodeXp (op fn : Nat) (w p : W32) : Option Instr :=
  match op with
  | 0x72 =>
    match fn with
    | 0 => some (.subscribe (.ofWord w) (.ofPay p))
    | 1 => some (.unsub (.ofWord w) (.ofPay p))
    | 2 => some (.subup (.ofWord w) (.ofPay p))
    | _ => none
  | 0x73 =>
    match fn with
    | 0 => some (.cpy (.ofWord w) (.ofPay p))
    | 1 => some (.cpyq (.ofWord w) (.ofPay p))
    | _ => none
  | 0x74 =>
    match fn with
    | 0 => some (.pub (.ofWord w) (.ofPay p))
    | 1 => some (.coll (.ofWord w) (.ofPay p))
    | _ => none
  | 0x75 =>
    match fn with
    | 0 => some (.cflush (.ofWord w) (.ofPay p))
    | 1 => some (if bit p 0 then .cinvI (.ofWord w) (.ofPay p) else .cinv (.ofWord w) (.ofPay p))
    | _ => none
  | 0x76 =>
    match fn with
    | 0 => some (.tldb (.ofWord w) (.ofPay p))
    | 1 => some (.tmma (.ofWord w) (.ofPay p))
    | 2 => some (.tmmq (.ofWord w) (.ofPay p))
    | 3 => some (.tmsp (.ofWord w) (.ofPay p))
    | 4 => some (.tepi (.ofWord w) (.ofPay p))
    | 5 => some (.tcon (.ofWord w) (.ofPay p))
    | _ => none
  | 0x77 =>
    match fn with
    | 0 => some (.rast (.ofWord w) (.ofPay p))
    | _ => none
  | 0x78 =>
    match fn with
    | 0 => some (.tex (.ofWord w) (.ofPay p))
    | 1 => some (.texg (.ofWord w) (.ofPay p))
    | 2 => some (.texq (.ofWord w) (.ofPay p))
    | _ => none
  | 0x79 =>
    match fn with
    | 0 => some (.ibox (.ofWord w) (.ofPay p))
    | 1 => some (.itri (.ofWord w) (.ofPay p))
    | _ => none
  | 0x7a =>
    match fn with
    | 0 => some (.bld (.ofWord w) (.ofPay p))
    | _ => none
  | 0x7b =>
    match fn with
    | 0 => some (.spawn (.ofWord w) (.ofPay p))
    | 1 => if fld p 26 2 = 0 then some (.launchGrid (.ofWord w) (.ofPay p)) else if fld p 26 2 = 1 then some (.launchGraph (.ofWord w) (.ofPay p))
      else if fld p 26 2 = 2 then some (.launchArm (.ofWord w) (.ofPay p)) else none
    | _ => none
  | 0x7c =>
    match fn with
    | 0 => some (.mbpost (.ofWord w) (.ofPay p))
    | 1 => some (.reorder (.ofWord w) (.ofPay p))
    | 2 => some (.migrate (.ofWord w) (.ofPay p))
    | _ => none
  | _ => none

/-- The one-word majors of R166. TBIND is told by X (R284), CPLFLUSH by B (R312), TLBINV by D (R357). -/
def decodeOne (op : Nat) (w : W32) : Option Instr :=
  match op with
  | 0x01 => some (.addRg (.ofWord w))
  | 0x02 => some (.subRg (.ofWord w))
  | 0x03 => some (.mulRg (.ofWord w))
  | 0x04 => some (.madRg (.ofWord w))
  | 0x05 => some (.andRg (.ofWord w))
  | 0x06 => some (.orRg (.ofWord w))
  | 0x07 => some (.xorRg (.ofWord w))
  | 0x08 => some (.shlRg (.ofWord w))
  | 0x09 => some (.shrRg (.ofWord w))
  | 0x0a => some (.sraRg (.ofWord w))
  | 0x0b => some (.minRg (.ofWord w))
  | 0x0c => some (.maxRg (.ofWord w))
  | 0x0d => some (.movRg (.ofWord w))
  | 0x0f => some (.andnRg (.ofWord w))
  | 0x10 => some (.addIm (.ofWord w))
  | 0x11 => some (.andIm (.ofWord w))
  | 0x12 => some (.shlIm (.ofWord w))
  | 0x13 => some (.shrIm (.ofWord w))
  | 0x14 => some (.sraIm (.ofWord w))
  | 0x15 => some (.moviIw (.ofWord w))
  | 0x16 => some (.movhIw (.ofWord w))
  | 0x17 => some (.popcRg (.ofWord w))
  | 0x18 => some (.clzRg (.ofWord w))
  | 0x19 => some (.ctzRg (.ofWord w))
  | 0x1a => some (.orIm (.ofWord w))
  | 0x1b => some (.xorIm (.ofWord w))
  | 0x20 => some (.faddRg (.ofWord w))
  | 0x21 => some (.fsubRg (.ofWord w))
  | 0x22 => some (.fmulRg (.ofWord w))
  | 0x23 => some (.ffmaRg (.ofWord w))
  | 0x24 => some (.fminRg (.ofWord w))
  | 0x25 => some (.fmaxRg (.ofWord w))
  | 0x26 => some (.frcpRg (.ofWord w))
  | 0x27 => some (.frsqRg (.ofWord w))
  | 0x28 => some (.fsqrtRg (.ofWord w))
  | 0x29 => some (.fexp2Rg (.ofWord w))
  | 0x2a => some (.flog2Rg (.ofWord w))
  | 0x2b => some (.fsinRg (.ofWord w))
  | 0x2c => some (.fcosRg (.ofWord w))
  | 0x30 => some (.shflRg (.ofWord w))
  | 0x31 => some (.mand (.ofWord w))
  | 0x32 => some (.mor (.ofWord w))
  | 0x33 => some (.mxor (.ofWord w))
  | 0x34 => some (.mnot (.ofWord w))
  | 0x35 => some (.mmov (.ofWord w))
  | 0x38 => some (.bra (.ofWord w))
  | 0x39 => some (.call (.ofWord w))
  | 0x3a => some (.setmeet (.ofWord w))
  | 0x3b => some (.brx (.ofWord w))
  | 0x3c => some (.ret (.ofWord w))
  | 0x3d => some (.exit (.ofWord w))
  | 0x3e => some (.yieldv (.ofWord w))
  | 0x3f => some (.nop (.ofWord w))
  | 0x40 => some (.fence (.ofWord w))
  | 0x41 => some (.drain (.ofWord w))
  | 0x42 => some (.bar (.ofWord w))
  | 0x43 => some (.gbar (.ofWord w))
  | 0x44 => some (.waita (.ofWord w))
  | 0x45 => some (.cbinit (.ofWord w))
  | 0x46 => some (.cbexpect (.ofWord w))
  | 0x47 => some (.cbarrive (.ofWord w))
  | 0x48 => some (.cbwait (.ofWord w))
  | 0x49 => some (.cbtest (.ofWord w))
  | 0x4a => some (.trap (.ofWord w))
  | 0x4b => some (.bkpt (.ofWord w))
  | 0x4c => some (.csrr (.ofWord w))
  | 0x4d => some (.csrw (.ofWord w))
  | 0x4e => some (.eret (.ofWord w))
  | 0x4f => some (.sysc (.ofWord w))
  | 0x50 => some (.tlease (.ofWord w))
  | 0x51 => some (.trel (.ofWord w))
  | 0x52 => some (.tzero (.ofWord w))
  | 0x53 => some (.tring (.ofWord w))
  | 0x54 => some (.tracc (.ofWord w))
  | 0x55 => some (.twacc (.ofWord w))
  | 0x56 => some (.hizupd (.ofWord w))
  | 0x57 => some (.discard (.ofWord w))
  | 0x5a => some (.qnotify (.ofWord w))
  | 0x5b => some (.clkrd (.ofWord w))
  | 0x58 => some (if bit w 0 then .tbindFlush (.ofWord w) else .tbind (.ofWord w))
  | 0x59 => if fld w 6 6 = 0 then some (.cplflush (.ofWord w)) else if fld w 6 6 = 1 then some (.cplflushPc (.ofWord w))
    else if fld w 6 6 = 2 then some (.cplflushKey (.ofWord w)) else none
  | 0x5c => if fld w 18 6 = 0 then some (.tlbinvVa (.ofWord w)) else if fld w 18 6 = 1 then some (.tlbinvCtx (.ofWord w))
    else if fld w 18 6 = 2 then some (.tlbinvAll (.ofWord w)) else none
  | _ => none

/-- The majors that R166 leaves unassigned. -/
def unassigned (op : Nat) : Bool :=
  [0x00, 0x0e, 0x1c, 0x1d, 0x1e, 0x1f, 0x2d, 0x2e, 0x2f, 0x36, 0x37, 0x5d, 0x5e, 0x5f, 0x7d, 0x7e, 0x7f].contains op

/-- Majors 0x60 to 0x7C take two words (R161, R166). -/
def twoWord (op : Nat) : Bool := 0x60 ≤ op && op ≤ 0x7c

/-- The instruction that the opcode map names for the words, before the bits that must be 0 are looked at. -/
def decodeRaw (w p : W32) : Option Instr :=
  let op := majorOf w
  if unassigned op then some (.unassignedMajor w)
  else if twoWord op then
    if op = 0x60 then decodeInt (p.toNat / 67108864) (.ofWords w p)
    else if op = 0x61 then decodeFlt (p.toNat / 67108864) (.ofWords w p)
    else if op = 0x62 then decodePck (p.toNat / 67108864) (.ofWords w p)
    else if op = 0x63 then decodeLan (p.toNat / 67108864) (.ofWords w p)
    else if op = 0x64 then decodeIntXi (fld w 6 6).toNat (.ofWords w p)
    else if op = 0x65 then decodeFltXi (fld w 6 6).toNat (.ofWords w p)
    else if op < 0x72 then decodeMa op (.ofWords w p)
    else decodeXp op (p.toNat / 268435456) w p
  else decodeOne op w

/-- Decoding of an instruction word and the word after it, if there is one in the packet. The words of the instruction found must
be exactly these words, which refuses every bit that the layout names 0. -/
def decode (w : W32) (next : Option W32) : Except DecodeError Instr :=
  if twoWord (majorOf w) then
    match next with
    | none => .error .truncated
    | some p => match decodeRaw w p with
      | none => .error .badFunction
      | some i => if encode i = some (w, some p) then .ok i else .error .reservedBits
  else match decodeRaw w 0 with
    | none => .error .badFunction
    | some i => if encode i = some (w, none) then .ok i else .error .reservedBits

/-- How many words an instruction takes; an event takes none. -/
def Instr.words (i : Instr) : Nat :=
  match encode i with
  | none => 0
  | some (_, none) => 1
  | some (_, some _) => 2

/-- Decoding of the instruction at the head of any bytes (little-endian words, R154), with the bytes that follow it. -/
def decodeBytes (l : List Byte) : Except DecodeError (Instr × List Byte) :=
  match leWords l with
  | [] => .error .truncated
  | w :: r => match decode w r.head? with
    | .error e => .error e
    | .ok i => .ok (i, l.drop (4 * i.words))

/-- The instruction the decoder reads from bits numbered as the opcode table numbers them: the first word is bits 31 to 0, the second
bits 63 to 32, and every bit above `nbits` is 0. -/
def decodeTableWord (nbits w : Nat) : Option Instr :=
  match decodeBytes (leBytes 8 (w % 2 ^ nbits)) with
  | .ok (i, _) => some i
  | .error _ => none

end Sys2Proof
end

