-- ==== Sys2Proof/Config.lean ====
section
/-! DEFINITION. The free values: constants without a body, so that nothing can be proved of what they are (notes/assumptions/3.md). Each is
applied to the operands it depends on, or to a number from the plain counter State.free. -/

namespace Sys2Proof.Config

/-- The FP32 encoding a revision returns for approximated function `fn` (0 FRCP, 1 FRSQ, 3 FEXP2, 4 FLOG2, 5 FSIN, 6 FCOS) on an input
(R126); the machine uses it only where it lies within the function's bound. Log 3. -/
opaque approx : (fn : Nat) → W32 → W32

/-- A choice between two outcomes that the manual both allows: a translation, texel or packet cached before a change against the new one
(R27, R32, R40, R281). Log 3. -/
opaque pick : Nat → Bool

/-- The order in which the lanes of one access that overlap in a byte perform (R90, R211, R217), and in which dies are pulled (R58):
ascending by this rank of the lane or die. Log 3. -/
opaque rank : Nat → Nat → Nat

/-- Whether a lane of a split gather has its data at the split point (R146). Log 3. -/
opaque early : Nat → Nat → Bool

/-- Whether the host completes an access to a line of its memory, made in a step, with an error (R13). Log 62. -/
opaque hostError : Nat → Nat → Bool

/-- The number of core-clock periods that a step takes (R2, R358). Log 3. -/
opaque periods : Nat → Nat

/-- The bytes of the package's identity public key, which derives from its unclonable function (R375). Log 3. -/
opaque identityKey : Nat → Byte

/-- The bytes of the SHA3-512 digest of the given bytes (R374, R375), an algorithm that the manual only names. Log 3. -/
opaque sha3 : List Byte → Nat → Byte

/-- The bytes of the signature over the given bytes with the package's private key (R375). Log 3. -/
opaque sign : List Byte → Nat → Byte

/-- The signature of a record of a KIND over the given bytes is that of the key that signs the kind (R374). Log 3. -/
opaque signed : Nat → List Byte → List Byte → Bool

/-- How many spare rows a stack has (R373), which the manual does not say. Log 76. -/
opaque spareRows : Nat → Nat

/-- The row of its channel that holds an address, which the manual does not say. Log 76. -/
opaque rowOf : Nat → Nat

/-- A value that the manual leaves unspecified: the bytes of an output area after a structure build that was handed back (R305), and
the content of a frame slot a device reads outside its ring. Log 3. -/
opaque value : Nat → W64

end Sys2Proof.Config
end

