-- ==== Sys2Proof/Machine/Float.lean ====
section
/-! DEFINITION. Number formats and exact arithmetic (R115 to R134): unpacking, exact sums and products, the one rounding function, conversions and
the approximated functions. -/

namespace Sys2Proof.Machine

/-- The five floating formats (R117). -/
inductive Fmt where
  | fp32 | fp16 | bf16 | e4m3 | e5m2
deriving DecidableEq, Repr, Inhabited

/-- Width in bits. -/
def Fmt.width : Fmt → Nat
  | .fp32 => 32 | .fp16 => 16 | .bf16 => 16 | .e4m3 => 8 | .e5m2 => 8

/-- Width of M. -/
def Fmt.mbits : Fmt → Nat
  | .fp32 => 23 | .fp16 => 10 | .bf16 => 7 | .e4m3 => 3 | .e5m2 => 2

/-- Exponent bias. -/
def Fmt.bias : Fmt → Nat
  | .fp32 => 127 | .fp16 => 15 | .bf16 => 127 | .e4m3 => 7 | .e5m2 => 15

/-- The all-ones exponent field. -/
def Fmt.eOnes (f : Fmt) : Nat := 2 ^ (f.width - 1 - f.mbits) - 1

/-- Exponent of the least significant bit of subnormals: 2 to this is the smallest subnormal. -/
def Fmt.qMin (f : Fmt) : Int := 1 - (f.bias : Int) - f.mbits

/-- Exponent of the least significant bit at the largest finite value. -/
def Fmt.qMax (f : Fmt) : Int :=
  match f with
  | .e4m3 => 8 - 3
  | _ => (f.bias : Int) - f.mbits

/-- Significand of the largest finite value (R117, R118). -/
def Fmt.maxSig : Fmt → Nat
  | .e4m3 => 14
  | f => 2 ^ (f.mbits + 1) - 1

/-- The canonical NaN (R119, R68). -/
def Fmt.canonNaN : Fmt → Nat
  | .fp32 => 0x7FC00000 | .fp16 => 0x7E00 | .bf16 => 0x7FC0 | .e4m3 => 0x7F | .e5m2 => 0x7E

/-- A floating value: a NaN (signalling or not), an infinity, or sign and magnitude m * 2^e, zero keeping its sign. -/
inductive FVal where
  | nan (sig : Bool)
  | inf (neg : Bool)
  | fin (neg : Bool) (m : Nat) (e : Int)
deriving DecidableEq, Repr, Inhabited

/-- The exception flags of one result, laid out as FPFLAGS[4:0]: NV DZ OF UF NX (R123). -/
abbrev Flags := BitVec 5

def fNV : Flags := 16
def fDZ : Flags := 8
def fOF : Flags := 4
def fUF : Flags := 2
def fNX : Flags := 1

/-- A flag raised on a condition. -/
def flagIf (c : Bool) (f : Flags) : Flags := if c then f else 0

/-- The value an encoding stands for (R117, R118). -/
def unpackF (f : Fmt) (x : Nat) : FVal :=
  let x := x % 2 ^ f.width
  let neg := x / 2 ^ (f.width - 1) == 1
  let mant := x % 2 ^ f.mbits
  let ex := x / 2 ^ f.mbits % 2 ^ (f.width - 1 - f.mbits)
  let finite := FVal.fin neg (if ex = 0 then mant else 2 ^ f.mbits + mant) (f.qMin + (if ex = 0 then 0 else (ex : Int) - 1))
  if ex = f.eOnes then
    match f with
    | .e4m3 => if mant = 7 then .nan false else finite
    | _ => if mant = 0 then .inf neg else .nan (mant / 2 ^ (f.mbits - 1) == 0)
  else finite

/-- m * 2^e rounded to a multiple of 2^q: the quotient, and whether it is inexact (R121). -/
def roundAt (rm : Rm) (neg : Bool) (m : Nat) (e q : Int) : Nat × Bool :=
  if q ≤ e then (m * 2 ^ (e - q).toNat, false)
  else
    let d := 2 ^ (q - e).toNat
    let k := m / d
    let r := m % d
    let up := match rm with
      | .rne => if 2 * r = d then k % 2 == 1 else decide (d < 2 * r)
      | .rz => false
      | .ru => !neg && r != 0
      | .rd => neg && r != 0
    (if up then k + 1 else k, r != 0)

/-- Sign bit of a format. -/
def signBit (f : Fmt) (neg : Bool) : Nat := if neg then 2 ^ (f.width - 1) else 0

/-- The encoding of an infinity, or of E4M3's largest magnitude (R118, R122). -/
def infBits (f : Fmt) (neg : Bool) : Nat :=
  match f with
  | .e4m3 => signBit f neg + 0x7E
  | _ => signBit f neg + f.eOnes * 2 ^ f.mbits

/-- The encoding of the largest finite magnitude. -/
def maxBits (f : Fmt) (neg : Bool) : Nat := signBit f neg + ((f.qMax - f.qMin).toNat * 2 ^ f.mbits + f.maxSig)

/-- round(x, fmt, mode) of R122: the encoding and the flags. A signalling NaN raises NV where it is read, so none is raised here but for the
argument itself. -/
def roundF (f : Fmt) (rm : Rm) (x : FVal) : Nat × Flags :=
  match x with
  | .nan sig => (f.canonNaN, flagIf sig fNV)
  | .inf neg => (infBits f neg, match f with | .e4m3 => fOF ||| fNX | _ => 0)
  | .fin neg m e =>
    if m = 0 then (signBit f neg, 0)
    else
      let q := e + (Nat.log2 m : Int) - f.mbits
      let r := roundAt rm neg m e q
      if f.qMax < q ∨ (q = f.qMax ∧ f.maxSig < r.1) then
        let toInf := match f, rm with
          | .e4m3, _ => true
          | _, .rne => true
          | _, .rz => false
          | _, .ru => !neg
          | _, .rd => neg
        (if toInf then infBits f neg else maxBits f neg, fOF ||| fNX)
      else if (Nat.log2 r.1 : Int) + q < f.qMin + f.mbits then
        let s := roundAt rm neg m e f.qMin
        (signBit f neg + s.1, flagIf s.2 (fUF ||| fNX))
      else (signBit f neg + ((q - f.qMin) * (2 ^ f.mbits : Nat) + (r.1 : Int)).toNat, flagIf r.2 fNX)

/-! ### Exact arithmetic over the extended reals -/

/-- The signed significand of a finite value at exponent q, which is not above its own. -/
def atExp (neg : Bool) (m : Nat) (e q : Int) : Int :=
  let k : Int := (m * 2 ^ (e - q).toNat : Nat)
  if neg then -k else k

/-- Negation. -/
def negF : FVal → FVal
  | .nan s => .nan s
  | .inf n => .inf (!n)
  | .fin n m e => .fin (!n) m e

/-- The exact sum of two values; an exact zero of unlike signs is -0 only in RD (R122). NV for a signalling NaN and for +inf - inf. -/
def addF (rm : Rm) (a b : FVal) : FVal × Flags :=
  match a, b with
  | .nan s, .nan t => (.nan false, flagIf (s || t) fNV)
  | .nan s, _ => (.nan false, flagIf s fNV)
  | _, .nan t => (.nan false, flagIf t fNV)
  | .inf n, .inf k => if n == k then (.inf n, 0) else (.nan false, fNV)
  | .inf n, _ => (.inf n, 0)
  | _, .inf k => (.inf k, 0)
  | .fin n m e, .fin k p g =>
    if m = 0 ∧ p = 0 then (.fin (if n == k then n else rm == .rd) 0 0, 0)
    else
      let q := if e ≤ g then e else g
      let s := atExp n m e q + atExp k p g q
      (.fin (if s = 0 then rm == .rd else decide (s < 0)) s.natAbs q, 0)

/-- The exact product. NV for a signalling NaN and for 0 * inf (R127). -/
def mulF (a b : FVal) : FVal × Flags :=
  match a, b with
  | .nan s, .nan t => (.nan false, flagIf (s || t) fNV)
  | .nan s, _ => (.nan false, flagIf s fNV)
  | _, .nan t => (.nan false, flagIf t fNV)
  | .inf n, .inf k => (.inf (n != k), 0)
  | .inf n, .fin k p _ => if p = 0 then (.nan false, fNV) else (.inf (n != k), 0)
  | .fin n m _, .inf k => if m = 0 then (.nan false, fNV) else (.inf (n != k), 0)
  | .fin n m e, .fin k p g => (.fin (n != k) (m * p) (e + g), 0)

/-- The exact sum of a list of values, first to last. Whether NV is raised where infinities of both signs meet a quiet NaN then depends on their order, which the
manual leaves open: DESIGN CHOICE (log 71). -/
def sumF (rm : Rm) : FVal → List FVal → FVal × Flags
  | a, [] => (a, 0)
  | a, b :: r =>
    let s := addF rm a b
    let t := sumF rm s.1 r
    (t.1, s.2 ||| t.2)

/-- The exact sum of an addend and a list of products (R127, R129, R191), the addend first: DESIGN CHOICE for NV where infinities of both signs meet a quiet NaN
(log 71). Reading the addend alone raises NV for a signalling NaN. -/
def dotF (rm : Rm) (c : FVal) (ps : List (FVal × FVal)) : FVal × Flags :=
  let prods := ps.map (fun p => mulF p.1 p.2)
  let s := sumF rm c (prods.map (·.1))
  (s.1, prods.foldl (fun acc p => acc ||| p.2) s.2)

/-- An integer as an exact value. -/
def ofInt (x : Int) : FVal := .fin (decide (x < 0)) x.natAbs 0

/-- Less than, on values neither of which is a NaN; -0 and +0 are equal. -/
def ltF (a b : FVal) : Bool :=
  match a, b with
  | .inf n, .inf k => n && !k
  | .inf n, .fin _ _ _ => n
  | .fin _ _ _, .inf k => !k
  | .fin n m e, .fin k p g =>
    let q := if e ≤ g then e else g
    decide (atExp n m e q < atExp k p g q)
  | _, _ => false

/-- The value is a NaN. -/
def isNaN : FVal → Bool
  | .nan _ => true
  | _ => false

/-- The value is a signalling NaN. -/
def isSNaN : FVal → Bool
  | .nan s => s
  | _ => false

/-- The sign of a value; a NaN has none. -/
def negOf : FVal → Bool
  | .nan _ => false
  | .inf n => n
  | .fin n _ _ => n

/-- The value is a zero. -/
def isZero : FVal → Bool
  | .fin _ m _ => m == 0
  | _ => false

/-! ### Operations of one element: encodings in, encoding and flags out (R187, R188) -/

/-- The exact value of an instruction's operation, rounded once. -/
def roundResult (f : Fmt) (rm : Rm) (x : FVal × Flags) : Nat × Flags :=
  let r := roundF f rm x.1
  (r.1, r.2 ||| x.2)

def faddE (f : Fmt) (rm : Rm) (a b : Nat) : Nat × Flags := roundResult f rm (addF rm (unpackF f a) (unpackF f b))

def fsubE (f : Fmt) (rm : Rm) (a b : Nat) : Nat × Flags := roundResult f rm (addF rm (unpackF f a) (negF (unpackF f b)))

def fmulE (f : Fmt) (rm : Rm) (a b : Nat) : Nat × Flags := roundResult f rm (mulF (unpackF f a) (unpackF f b))

/-- round(a * b + c) (R127). -/
def ffmaE (f : Fmt) (rm : Rm) (a b c : Nat) : Nat × Flags :=
  let p := mulF (unpackF f a) (unpackF f b)
  let s := addF rm p.1 (unpackF f c)
  roundResult f rm (s.1, s.2 ||| p.2)

/-- a orders below b, with -0 below +0 (R119). -/
def belowF (a b : FVal) : Bool := ltF a b || (isZero a && isZero b && negOf a && !negOf b)

/-- FMIN (`hi` false) and FMAX (`hi` true) of R119. -/
def fminmaxE (f : Fmt) (hi : Bool) (a b : Nat) : Nat × Flags :=
  let x := unpackF f a
  let y := unpackF f b
  let nv := flagIf (isSNaN x || isSNaN y) fNV
  if isNaN x && isNaN y then (f.canonNaN, nv)
  else if isNaN x then (b % 2 ^ f.width, nv)
  else if isNaN y then (a % 2 ^ f.width, nv)
  else if (if hi then belowF x y else belowF y x) then (b % 2 ^ f.width, nv)
  else (a % 2 ^ f.width, nv)

/-- FCMP's condition (R188). -/
def fcmpE (f : Fmt) (cond : Nat) (a b : Nat) : Bool × Flags :=
  let x := unpackF f a
  let y := unpackF f b
  let un := isNaN x || isNaN y
  let lt := ltF x y
  let gt := ltF y x
  let r := match cond with
    | 0 => !un && !lt && !gt
    | 1 => un || lt || gt
    | 2 => !un && lt
    | 3 => !un && !gt
    | 4 => !un && gt
    | 5 => !un && !lt
    | 6 => !un
    | _ => un
  (r, flagIf (isSNaN x || isSNaN y) fNV)

/-- FCLASS's code (R188). -/
def fclassE (f : Fmt) (a : Nat) : Nat :=
  match unpackF f a with
  | .inf n => if n then 0 else 7
  | .nan s => if s then 8 else 9
  | .fin n m _ =>
    if m = 0 then (if n then 3 else 4)
    else if m < 2 ^ f.mbits then (if n then 2 else 5)
    else (if n then 1 else 6)

/-- A finite value rounded to an integer in a mode: its value and whether it is inexact. -/
def toIntF (rm : Rm) (neg : Bool) (m : Nat) (e : Int) : Int × Bool :=
  let r := roundAt rm neg m e 0
  (if neg then -(r.1 : Int) else r.1, r.2)

/-- FRND (R187): the encoding of the integral value; no NX. -/
def frndE (f : Fmt) (rm : Rm) (a : Nat) : Nat × Flags :=
  match unpackF f a with
  | .nan s => (f.canonNaN, flagIf s fNV)
  | .inf _ => (a % 2 ^ f.width, 0)
  | .fin n m e => ((roundF f rm (.fin n (roundAt rm n m e 0).1 0)).1, 0)

/-- Float to integer (R125): bounds lo and hi. -/
def toIntE (rm : Rm) (lo hi : Int) (x : FVal) : Int × Flags :=
  match x with
  | .nan _ => (0, fNV)
  | .inf n => (if n then lo else hi, fNV)
  | .fin n m e =>
    let r := toIntF rm n m e
    if r.1 < lo then (lo, fNV) else if hi < r.1 then (hi, fNV) else (r.1, flagIf r.2 fNX)

/-- The code of QUANT: an exact value rounded, clamped to [0, 2^b - 1] (R125, R193). -/
def quantE (rm : Rm) (b : Nat) (t : FVal) : Nat × Flags :=
  let hi : Int := (2 ^ b : Nat) - 1
  match t with
  | .nan _ => (0, fNV)
  | .inf n => (if n then 0 else 2 ^ b - 1, fNX)
  | .fin n m e =>
    let r := toIntF rm n m e
    let q := if r.1 < 0 then 0 else if hi < r.1 then hi else r.1
    (q.toNat, flagIf (r.2 || q != r.1) fNX)

/-- Float to float through the exact value (R125). -/
def cvtE (src dst : Fmt) (rm : Rm) (a : Nat) : Nat × Flags := roundF dst rm (unpackF src a)

/-! ### Square root and the approximated functions (R126) -/

/-- One bit of the integer square root: keeps r with r * r at most x. -/
def isqrtBit (x b r : Nat) : Nat := if (r + 2 ^ b) * (r + 2 ^ b) ≤ x then r + 2 ^ b else r

/-- Bits b-1 down to 0 of the integer square root. -/
def isqrtLoop (x : Nat) : Nat → Nat → Nat
  | 0, r => r
  | b + 1, r => isqrtLoop x b (isqrtBit x b r)

/-- The integer square root. -/
def isqrt (x : Nat) : Nat := isqrtLoop x (Nat.log2 x / 2 + 1) 0

/-- The square root of m * 2^e as a value with at least 70 significant bits whose last bit is sticky. -/
def sqrtF (m : Nat) (e : Int) : FVal :=
  let k : Nat := if e % 2 = 0 then 160 else 161
  let x := m * 2 ^ k
  let r := isqrt x
  .fin false (2 * r + (if r * r = x then 0 else 1)) ((e - k) / 2 - 1)

/-- FSQRT: correctly rounded. -/
def fsqrtE (rm : Rm) (a : Nat) : Nat × Flags :=
  match unpackF .fp32 a with
  | .nan s => (Fmt.fp32.canonNaN, flagIf s fNV)
  | .inf n => if n then (Fmt.fp32.canonNaN, fNV) else (a % 2 ^ 32, 0)
  | .fin n m e =>
    if m = 0 then (a % 2 ^ 32, 0)
    else if n then (Fmt.fp32.canonNaN, fNV)
    else roundF .fp32 rm (sqrtF m e)

/-- Fixed-point precision of the reference values, in bits. -/
def refBits : Nat := 200

/-- One term after another of the exponential series at f / 2^200: n terms, the k-th being t. -/
def expTerms (f : Nat) : Nat → Nat → Nat → Nat
  | 0, _, _ => 0
  | n + 1, k, t => t + expTerms f n (k + 1) (t * f / 2 ^ 200 / (k + 1))

/-- ln 2 * 2^240, truncated. -/
def ln2Fix : Nat := 0xb17217f7d1cf79abc9e3b39803f2f6af40f343267298b62d8a0d175b8baa

/-- 2^(f / 2^200) * 2^200 for f below 2^200. -/
def exp2Fix (f : Nat) : Nat := expTerms (f * ln2Fix / 2 ^ 240) 60 0 (2 ^ 200)

/-- Fraction bits of log2(y / 2^200), y in [2^200, 2^201), one by one by squaring. -/
def log2Bits : Nat → Nat → Nat → Nat
  | 0, _, acc => acc
  | n + 1, y, acc =>
    let z := y * y / 2 ^ 200
    if 2 ^ 201 ≤ z then log2Bits n (z / 2) (2 * acc + 1) else log2Bits n z (2 * acc)

/-- pi * 2^320, truncated. -/
def piFix : Nat := 0x3243f6a8885a308d313198a2e03707344a4093822299f31d0082efa98ec4e6c89452821e638d01377

/-- Alternating series of sine (start term x, k = 1) and cosine (start term 1, k = 0) at x / 2^200 below 2^203. -/
def trigTerms (x2 : Nat) : Nat → Nat → Int → Int
  | 0, _, _ => 0
  | n + 1, k, t => t + trigTerms x2 n (k + 2) (-(t * x2 / (2 ^ 200 : Nat) / ((k + 1) * (k + 2) : Nat)))

/-- |x| reduced by 2 pi, times 2^200, for m * 2^e. -/
def reduceFix (m : Nat) (e : Int) : Nat :=
  let x := if 0 ≤ e + 320 then m * 2 ^ (e + 320).toNat else m / 2 ^ (-(e + 320)).toNat
  x % (2 * piFix) / 2 ^ 120

/-- A signed fixed-point number at 2^-200 as a value. -/
def fixVal (x : Int) : FVal := .fin (decide (x < 0)) x.natAbs (-200)

/-- The exact special results and exact cases of the table of R126: function (0 FRCP, 1 FRSQ, 3 FEXP2, 4 FLOG2, 5 FSIN, 6 FCOS). -/
def approxSpecial (fn : Nat) (a : Nat) : Option (Nat × Flags) :=
  let nan := (Fmt.fp32.canonNaN, fNV)
  let pow2 (m : Nat) : Bool := m == 2 ^ Nat.log2 m
  match unpackF .fp32 a with
  | .nan s => some (Fmt.fp32.canonNaN, flagIf s fNV)
  | .inf n =>
    match fn with
    | 0 => some (signBit .fp32 n, 0)
    | 1 => some (if n then nan else (0, 0))
    | 3 => some (if n then (0, 0) else (infBits .fp32 false, 0))
    | 4 => some (if n then nan else (infBits .fp32 false, 0))
    | _ => some nan
  | .fin n m e =>
    if m = 0 then
      match fn with
      | 0 => some (infBits .fp32 n, fDZ)
      | 1 => some (infBits .fp32 n, fDZ)
      | 3 => some (0x3F800000, 0)
      | 4 => some (infBits .fp32 true, fDZ)
      | 5 => some (signBit .fp32 n, 0)
      | _ => some (0x3F800000, 0)
    else
      match fn with
      | 0 => if pow2 m then some (roundF .fp32 .rne (.fin n 1 (-(e + Nat.log2 m)))) else none
      | 1 => if n then some nan
             else if pow2 m && (e + Nat.log2 m) % 2 == 0 then some (roundF .fp32 .rne (.fin false 1 (-((e + Nat.log2 m) / 2))))
             else none
      | 3 =>
        let i := toIntF .rz n m e
        let r := roundF .fp32 .rne (.fin false 1 i.1)
        if i.2 = false ∧ -149 ≤ i.1 ∧ i.1 < 128 then some r else none
      | 4 => if n then some nan else if pow2 m then some (roundF .fp32 .rne (ofInt (e + Nat.log2 m))) else none
      | _ => none

/-- A reference value of the exact result, with relative error far below 2^-60, for an argument that approxSpecial does not answer. -/
def approxRef (fn : Nat) (a : Nat) : FVal :=
  match unpackF .fp32 a with
  | .fin n m e =>
    match fn with
    | 0 => .fin n (2 ^ 200 / m) (-200 - e)
    | 1 =>
      let k : Nat := if e % 2 = 0 then 400 else 401
      .fin false (isqrt (2 ^ k / m)) (-((e + k) / 2))
    | 3 =>
      let i := toIntF .rd n m e
      let fr := atExp n m e (if e < 0 then e else 0) - i.1 * (2 ^ (-(if e < 0 then e else 0)).toNat : Nat)
      let s : Int := -(if e < 0 then e else 0)
      let f := if s ≤ 200 then fr.natAbs * 2 ^ (200 - s).toNat else fr.natAbs / 2 ^ (s - 200).toNat
      let i' := if i.1 < -400 then -400 else if 400 < i.1 then 400 else i.1
      .fin false (exp2Fix f) (i' - 200)
    | 4 =>
      let l := Nat.log2 m
      let fr := log2Bits 100 (m * 2 ^ (200 - l)) 0
      let v : Int := (e + l) * (2 ^ 100 : Nat) + fr
      .fin (decide (v < 0)) v.natAbs (-100)
    | 5 =>
      let x := reduceFix m e
      let s := trigTerms (x * x / 2 ^ 200) 70 1 x
      -- sin x lies just below x where the second term of the series vanishes in the reference
      let v : FVal := if x * x / 2 ^ 200 = 0 then .fin false (x * 2 ^ 100 - 1) (-300) else fixVal s
      if n then negF v else v
    | _ =>
      let x := reduceFix m e
      fixVal (trigTerms (x * x / 2 ^ 200) 70 0 (2 ^ 200 : Nat))
  | v => v

/-- The error bound of R126 for a reference value y, as an exponent-aligned pair: the bound is the value. -/
def approxBound (fn : Nat) (a : Nat) (y : FVal) : FVal :=
  let ulps : Nat := match fn with | 0 => 1 | 1 => 1 | _ => 2
  let ulp : Int := match y with
    | .fin _ m e => if m = 0 then -149 else
      let x := e + Nat.log2 m
      (if x < -126 then -126 else x) - 23
    | _ => -149
  let absolute := match fn with
    | 5 => true
    | 6 => true
    | 4 => match unpackF .fp32 a with
      | v => !ltF v (.fin false 1 (-1)) && !ltF (.fin false 2 0) v
    | _ => false
  let b : FVal := if absolute then .fin false 1 (-22) else .fin false ulps ulp
  -- the reference's own error is below this margin
  (addF .rne b (mulF b (.fin false 1 (-50))).1).1

/-- A candidate encoding lies within the bound of R126. -/
def approxWithin (fn : Nat) (a c : Nat) : Bool :=
  let y := approxRef fn a
  match unpackF .fp32 c with
  | .fin n m e =>
    match (addF .rne (.fin n m e) (negF y)).1 with
    | .fin _ dm de => !ltF (approxBound fn a y) (.fin false dm de)
    | _ => false
  | _ => false

/-- The approximated functions: the exact cases; else overflow of the reference; else the revision's own choice where it lies within the bound,
and the nearest value otherwise. NX always, UF where the exact result rounds to a tiny value (log 3). -/
def approxE (fn : Nat) (a : Nat) : Nat × Flags :=
  match approxSpecial fn a with
  | some r => r
  | none =>
    let ref := roundF .fp32 .rne (approxRef fn a)
    if ref.2 &&& fOF = fOF then (ref.1, fOF ||| fNX)
    else
      let c := (Config.approx fn (BitVec.ofNat 32 a)).toNat
      let r := if approxWithin fn a c then c else ref.1
      (r, fNX ||| (ref.2 &&& fUF))

/-! ### Trees and scans of R128 -/

/-- One level of the binary tree: nodes 2i and 2i + 1 combined, an absent one passing its sibling on. -/
def treeLevel (op : Nat → Nat → Nat × Flags) : List (Option Nat) → Flags → List (Option Nat) × Flags
  | x :: y :: r, fl =>
    let here : Option Nat × Flags := match x, y with
      | some a, some b => let q := op a b; (some q.1, q.2)
      | some a, none => (some a, 0)
      | none, b => (b, 0)
    let rest := treeLevel op r (fl ||| here.2)
    (here.1 :: rest.1, rest.2)
  | l, fl => (l, fl)

/-- n levels of the tree. -/
def treeLevels (op : Nat → Nat → Nat × Flags) : Nat → List (Option Nat) → Flags → List (Option Nat) × Flags
  | 0, l, fl => (l, fl)
  | n + 1, l, fl => let q := treeLevel op l fl; treeLevels op n q.1 q.2

end Sys2Proof.Machine
end

