-- ==== Sys2Proof/Machine/State.lean ====
section
/-! DEFINITION. The state of one package, as plain data (INVENTORY.md, State), the reasons a step can stop, and the state after reset. -/

namespace Sys2Proof.Machine

/-! ### Lanes and waves -/

/-- A sleeping WAITA (R223): its D register, access size, where the word lies (0 package memory, 1 a peer, t + 2 local memory of team t), its
physical, fabric or local address with its memory type, the time it sleeps from, its timeout in cycles (0: none), whether a store to its line has become
visible, and the virtual address with the mode it was read in. -/
structure WaitA where
  d : Nat
  size : Nat
  place : Nat
  addr : Nat
  mt : Nat := 0
  since : Nat
  timeout : Nat
  woken : Bool := false
  va : W64 := 0
  h : Bool := false
deriving DecidableEq, Repr, Inhabited

/-- Why a Waiting lane waits (R136). Its PC stays at the instruction, which runs again when the wait may be over, but for `bar`,
whose instruction has done its part already. -/
inductive Wait where
  /-- an operand, room in a queue, a fault service, a lease: tried again after the next change of the machine -/
  | retry
  /-- a wave-wide instruction whose effective mask has not gathered (R147); the mask is the member mask named -/
  | wide (mask : Mask)
  /-- arrived at a BAR (gang false) or GBAR (gang true) that has not completed (R226) -/
  | bar (gang : Bool)
  /-- arrived again at a barrier that has not completed (R226) -/
  | barAgain
  /-- asleep in WAITA (R223) -/
  | waita (w : WaitA)
  /-- the data of a log entry, for the later part of a split gather (R146) -/
  | data (entry : Nat)
  /-- the first data of the log entry of a split gather, of which no selected lane's has arrived (R146) -/
  | first (entry : Nat)
  /-- a subscription request is on its way to the home (R227); its status goes to this w register -/
  | status (d : Nat)
  /-- a lease request is queued (R242); the grant moves it past its TLEASE -/
  | lease
  /-- its supervisor message has not been posted yet (R334, R345) -/
  | posting
  /-- handed to the coupler or the cart dispatch queue and not accepted yet (R152, R153, R311) -/
  | accept
  /-- in the ERET of the converged handler, until every lane in it has come there (R355) -/
  | eret
  /-- YIELD: the subgroup slots of the wave and the other waves still to issue (R206) -/
  | yield (slots waves : List Nat)
deriving DecidableEq, Repr, Inhabited

/-- Lane states of R136. Unfilled positions have no record; Handler is Ready with H = 1. -/
inductive LaneSt where
  | ready
  | waiting (why : Wait)
  | parked
  | overflowed
  | fpParked
  | exited
deriving DecidableEq, Repr, Inhabited

/-- What a precise trap writes (R331 to R333, R343): the cause code, TVAL, TEPC and TARG, and the marks of TCAUSE. -/
structure LaneTrap where
  code : Nat
  tval : W64 := 0
  tepc : W64 := 0
  targ : W64 := 0
  nr : Bool := false
  eh : Bool := false
  mal : Bool := false
  log : Option Nat := none
  eop : Nat := 0
  efn : Nat := 0
  ptag : Option Nat := none
  /-- delivered later, it is taken in the converged fallback (R209, R337) -/
  conv : Bool := false
deriving DecidableEq, Repr, Inhabited

/-- One lane (R135, R136, R142). -/
structure Lane where
  id : Nat
  st : LaneSt := .ready
  slot : Nat := 0
  /-- the number of its Overflowed group: of the branch that left it without a slot (R144) -/
  ovGroup : Nat := 0
  pc : W64 := 0
  /-- the first word of the chain that it is in the middle of (R157, R333) -/
  chainPc : Option W64 := none
  /-- MEET (R143) -/
  meet : W64 := 0
  /-- LINK (R203) -/
  link : W64 := 0
  /-- FPFLAGS and FPEN (R123) -/
  fpflags : BitVec 5 := 0
  fpen : BitVec 5 := 0
  /-- SCOPETAB.IDX (R94) -/
  scopeIdx : BitVec 14 := 0
  /-- H (R331) -/
  h : Bool := false
  tcause : W64 := 0
  tval : W64 := 0
  tepc : W64 := 0
  targ : W64 := 0
  /-- v0 to v63 -/
  v : List W32 := []
  /-- this execution raises no FPE (R346, ACTION 1) -/
  noFpe : Bool := false
  /-- the state before the converged fallback, which SSTATE codes (R337) -/
  before : LaneSt := .ready
  /-- held by a converged handler of its wave that it did not join (R337): it issues nothing -/
  held : Bool := false
  /-- the traps this lane takes at its ERETs, one at each, oldest first: a logged access that failed while the lane was in the handler (R342, R386) -/
  atEret : List LaneTrap := []
  /-- traps of logged accesses that this lane takes at its next instruction boundary (R340, R342, R386), oldest first -/
  due : List LaneTrap := []
  /-- the message this FP-parked lane has still to post, or whose post failed finally (R345, R346): raised flags -/
  fpe : BitVec 5 := 0
  /-- launched from a queue slot of a die (R321), counted in its held count -/
  queue : Option (Nat × Nat) := none
  /-- appended by a TCB of a context, which retires when this lane is Exited (R327) -/
  tcb : Option (Nat × W64) := none
  /-- the instruction that it is in the middle of, where a pre-emption lets it run to completion (R347) -/
  opPc : Option W64 := none
deriving DecidableEq, Repr, Inhabited

/-- What a lane's part of an operand-log entry waits for. -/
inductive LogWait where
  /-- a page fault in service (R340, R341); the tag of the page request, if one was made -/
  | page (tag : Option Nat)
  /-- data on its way, which LOAD_RETURN brings (R210) -/
  | data
  /-- the answer of a peer (R368) -/
  | peer
deriving DecidableEq, Repr, Inhabited

/-- One lane's part of an operand-log entry (R339, R352): effective address, data operands, what it waits for, and whether the lane has taken the PFAULT
trap and replays at its ERET (R340, R341). -/
structure LogLane where
  lane : Nat
  addr : W64
  data : List W64
  wait : LogWait
  trapped : Bool := false
  /-- of a sample in flight to a peer: the slot, binding generation and table that it captured (R285) -/
  tex : Option (Nat × W32 × List Byte) := none
deriving DecidableEq, Repr, Inhabited

/-- An operand-log entry (R339, R352). `once` marks an access performed once for the wave (R209); `h` is the mode of the access. -/
structure LogEntry where
  ins : Instr
  pc : W64
  lanes : List LogLane
  once : Bool := false
  h : Bool := false
  /-- the w operand that a replay needs (R352) -/
  wop : W64 := 0
  /-- of a split gather: the lanes selected at its issue (R146) -/
  sel : List Nat := []
deriving DecidableEq, Repr, Inhabited

/-- A wave's tensor lease state (R240). -/
inductive Lease where
  | none | requesting | holding | lapsed
deriving DecidableEq, Repr, Inhabited

/-- A resident wave, or a resident cart thread (a wave of one lane, R139). -/
structure Wave where
  id : Nat
  /-- WAVEID.KIND: a cart thread -/
  cart : Bool
  cluster : Nat
  unit : Nat
  slot : Nat
  team : Nat
  /-- index among the team's members; none for an attached wave or thread (R135) -/
  member : Option Nat
  ctx : Nat
  /-- v allocation in registers (R35) -/
  regs : Nat
  w : List W64
  m : List Mask
  mb : List W64
  lanes : List Lane
  log : List (Nat × LogEntry) := []
  lastSlot : Nat := 0
  lease : Lease := .none
  leaseN : Nat := 0
  halted : Bool := false
  recAddr : W64 := 0
deriving DecidableEq, Repr, Inhabited

/-! ### Work in flight: records of starts, engine commands -/

/-- A launch record that has been read and checked (R306), with the w registers it gives (R307). -/
structure LaunchRec where
  addr : W64
  entry : W64
  done : W64
  qtab : W64
  nteam : Nat
  teamsz : Nat
  nq : Nat
  lm : Nat
  gw : Nat
  gh : Nat
  dies : Nat
  regs : Nat
  cart : Bool
  prio : Nat
  w : List W64
deriving DecidableEq, Repr, Inhabited

/-- A lane or thread on its way to its first instruction (R310, R317): its own starting state. -/
structure Start where
  pc : W64
  v : List W32
  /-- its bits of m0 to m7 -/
  m : List Bool
  fpflags : BitVec 5 := 0
  fpen : BitVec 5 := 0
  queue : Option (Nat × Nat) := none
  tcb : Option (Nat × W64) := none
  /-- the wave and lane that moved here (R148, R310): its accesses that are not performed yet stay accesses of the same thread (R89) -/
  mover : Option (Nat × Nat) := none
deriving DecidableEq, Repr, Inhabited

/-- A carriage decision of the queue manager on its way to a coupler (R323): the queue's slot, its team on the cluster, the records still to hand over, and
whether one has been taken. -/
structure QmLaunch where
  slot : Nat
  team : Nat
  left : Nat
  took : Bool := false
deriving DecidableEq, Repr, Inhabited

/-- The key of an open wave beside its team and context (R149): an entry PC or a reorder key. -/
inductive CplKey where
  | entry (pc : W64)
  | reorder (key : W32)
deriving DecidableEq, Repr, Inhabited

/-- An open wave of the coupler (R149, R150): in order of opening; due waves carry the order in which they became due. -/
structure OpenWave where
  team : Nat
  ctx : Nat
  key : CplKey
  lr : LaunchRec
  lanes : List Start
  timeout : Nat
  since : Nat
  due : Option Nat := none
deriving DecidableEq, Repr, Inhabited

/-- A thread in the cart dispatch queue (R153). -/
structure CartStart where
  team : Nat
  ctx : Nat
  lr : LaunchRec
  start : Start
deriving DecidableEq, Repr, Inhabited

/-- A lane handed to the coupler (with a key) or to the cart dispatch queue (without one) and not accepted yet: who waits, the position of its source
(R149), and how it starts (R310, R311). `exits`: at acceptance the lane becomes Exited; otherwise its instruction is done. -/
structure Offer where
  wave : Nat
  lane : Nat
  src : Nat
  ctx : Nat
  team : Nat
  key : Option CplKey
  lr : LaunchRec
  start : Start
  exits : Bool
deriving DecidableEq, Repr, Inhabited

/-- An engine command accepted and not yet done: the instruction, who issued it and its captured operands (R229 to R233, R298, R350). -/
structure EngCmd where
  ins : Instr
  ctx : Nat
  cluster : Nat
  team : Nat
  wave : Nat
  /-- the selected and active lanes at issue (R343) -/
  lanes : List Nat
  h : Bool
  /-- captured w operands -/
  ops : List W64
  /-- pieces done: granules of a copy, elements of a collective -/
  progress : Nat := 0
  /-- the requester position of its issuer (R239) -/
  pos : Nat := 0
  /-- the step in which it was accepted: the order of issue (R87) -/
  seq : Nat := 0
  /-- of a command accepted behind a TRING that waits: its effects are made, and it completes in its turn (R243, R245) -/
  begun : Bool := false
deriving DecidableEq, Repr, Inhabited

/-- A command handed back that no lane has taken yet (R343): its number, the trap, the command, and its completion barrier. -/
structure Hand where
  id : Nat
  trap : LaneTrap
  cmd : EngCmd
  cb : Option W64
deriving DecidableEq, Repr, Inhabited

/-! ### Clusters -/

/-- A subscription shadow in a view store (R72, R79, R80, R387). Views are held as encodings of its format, one per word. -/
structure Shadow where
  ctx : Nat
  region : Nat
  fmt : BitVec 3
  inv : Bool
  count : Nat
  stale : Bool
  pending : List Nat
  views : List Nat
deriving DecidableEq, Repr, Inhabited

/-- A cached leaf translation (R26): the page's lowest canonical 52-bit address, its level, and the entry. -/
structure TlbEntry where
  ctxid : W64
  glob : Bool
  va : Nat
  level : Nat
  pteAddr : Nat
  pte : W64
deriving DecidableEq, Repr, Inhabited

/-- A texture slot (R284, R285): the table's virtual address, the binding generation, the mode of the TBIND, the CTXID of the context that bound it,
whether it is bound or was lost at a resume, and the copy of the table. -/
structure TexSlot where
  addr : W64 := 0
  gen : W32 := 0
  h : Bool := false
  tag : W64 := 0
  bound : Bool := false
  lost : Bool := false
  table : List Byte := []
deriving DecidableEq, Repr, Inhabited

/-- One latch of B operands (R235, R249): its type, word count and columns of packed bytes. -/
structure Latch where
  ty : Nat := 0
  nw : Nat := 0
  cols : List (List W32) := []
deriving DecidableEq, Repr, Inhabited

/-- A TCON accepted and not yet complete (R256 to R263): its command, parameter block and group counts, the next step, the bytes that its output steps
have written, and whether it is suspended. -/
structure TconRun where
  cmd : EngCmd
  block : List Byte
  counts : List Nat
  next : Nat
  written : Nat := 0
  suspended : Bool := false
deriving DecidableEq, Repr, Inhabited

/-- The array state of a team (R235, R236, R353): accumulators as sparse tiles (element 128 i + j of tile k under key 16384 k + 128 i + j),
latches, scale entries with their tags, the ring count,
a TCON running or suspended, and the command accepted behind it. An absent accumulator element is +0. -/
structure ArrayState where
  acc : List (Nat × W32) := []
  bl0 : Latch := {}
  bl1 : Latch := {}
  /-- entry e: scale (16), zero point (8), tag (8) as one word; absent = not valid -/
  scale : List (Nat × W32) := []
  ring : Nat := 0
  tcon : Option TconRun := none
  kept : Option EngCmd := none
deriving DecidableEq, Repr, Inhabited

/-- What a request for an array is for (R236, R239, R262): a lease, a suspended TCON whose issuer asks for none, or the scale writes of a CPYQ. -/
inductive ReqKind where
  | lease | tcon | scale
deriving DecidableEq, Repr, Inhabited

/-- A request for an array: in whose name, the requester position, and the team whose state it needs. -/
structure ArrReq where
  wave : Nat
  team : Nat
  pos : Nat
  kind : ReqKind
deriving DecidableEq, Repr, Inhabited

/-- The tensor array of a cluster and its sequencer (R235 to R245). -/
structure Tensor where
  /-- the team whose state the array holds (R236) -/
  team : Option Nat := none
  arr : ArrayState := {}
  /-- the holder wave (R239), the commands its lease still counts, those accepted and not complete, and whether the lease ends with them (R241, R242) -/
  holder : Option Nat := none
  left : Nat := 0
  running : Nat := 0
  ending : Bool := false
  /-- the requests, at most one for the commands of a wave -/
  reqs : List ArrReq := []
  /-- requester position of the last holder; 191 before the first (log 9) -/
  lastPos : Nat := 191
  /-- a TRING accepted and not started: receiving and sending half (R254) -/
  ringCmd : Option (Nat × Nat) := none
  /-- the TRING of an instruction that waits; none where the RING step of a contraction does -/
  ringOf : Option EngCmd := none
  /-- the time of the grant -/
  since : Nat := 0
deriving DecidableEq, Repr, Inhabited

/-- Who makes an access: a subgroup that issues, an event, a lane's part of a wave's operand-log entry, the work for a task control block of a context, or a grid
that completes. -/
inductive Agent where
  | lanes (wave slot : Nat)
  | event (site : Nat) (e : Instr)
  | part (wave entry lane : Nat)
  | work (ctx die : Nat) (tcb : W64)
  | grid (id : Nat)
deriving DecidableEq, Repr, Inhabited

/-- What an attempt needs before it may take effect: the host's answer for a line (R52, R63), or a peer's for an access of n bytes (R49, R368): kind 0 a read,
1 a write, 2 an atomic. -/
inductive Ask where
  | host (line : Nat)
  | far (dev pa n kind : Nat)
deriving DecidableEq, Repr, Inhabited

/-- A peer's answer that an agent has had, and whether the access was acknowledged (R368). -/
structure Answer where
  agent : Agent
  dev : Nat
  pa : Nat
  n : Nat
  kind : Nat
  ok : Bool
deriving DecidableEq, Repr, Inhabited

/-- A queued or outstanding miss (R26, R28): context, 64 KiB granule, kind of access (0 read, 1 write, 2 fetch, 3 prefetch), the cluster it came from, who waits
for its walk and on which cluster, and whether the walk is in progress. -/
structure Miss where
  ctx : Nat
  granule : Nat
  kind : Nat
  cluster : Nat
  waits : List (Nat × Agent) := []
  walking : Bool := false
  h : Bool := true
deriving DecidableEq, Repr, Inhabited

/-- One cluster. -/
structure Cluster where
  cplTimeout : W64 := 0x400
  opens : List OpenWave := []
  dueCount : Nat := 0
  offers : List Offer := []
  /-- position of the source that the coupler served last (R149) -/
  cplLast : Nat := 192
  /-- decisions of the die's queue manager that the coupler has not taken whole, the source after the waves (R149, R323) -/
  qmQ : List QmLaunch := []
  releaseQ : List OpenWave := []
  dispatchQ : List CartStart := []
  copyQ : List EngCmd := []
  pubQ : List EngCmd := []
  collQ : List EngCmd := []
  shadows : List Shadow := []
  /-- the L2 TLB (R26) -/
  tlb : List TlbEntry := []
  /-- the L1 TLBs (R26): of the carriages (0 to 3) and of the cart groups (4 to 7) -/
  l1tlb : List (Nat × TlbEntry) := []
  /-- the L2 miss table (R26, R28, R29): misses waiting for the die, oldest first -/
  missq : List Miss := []
  /-- the filter (R54): line and holder vector; bits 0 to 3 the carriage L1s, bit 4 the cart L1 -/
  filter : List (Nat × BitVec 5) := []
  /-- instruction-cache lines (R34, R40): cache (0 to 3 carriage, 4 to 7 cart group), address, 64 bytes -/
  icache : List (Nat × Nat × List Byte) := []
  tex : List TexSlot := [{}, {}, {}, {}, {}, {}, {}, {}]
  /-- texel cache (R281): lines of 64 bytes -/
  texc : List (Nat × List Byte) := []
  tensor : Tensor := {}
  /-- for each carriage (0 to 3) and cart (4 to 19): the slot that issued last (R139, R140) -/
  lastSlots : List (Nat × Nat) := []
  /-- cart cores that have failed with no spare left (R373) -/
  lostCarts : List Nat := []
  stopped : Bool := false
  failed : Bool := false
deriving DecidableEq, Repr, Inhabited

/-! ### Dies -/

/-- A die-directory entry (R51). -/
structure DirEntry where
  cl : BitVec 64 := 0
  rdcp : BitVec 4 := 0
  rdcd : BitVec 4 := 0
  host : Bool := false
  sub : Bool := false
  /-- allocated last by a streaming access: the lowest retention priority (R44) -/
  stream : Bool := false
deriving DecidableEq, Repr, Inhabited

/-- A line of a remote-data cache (R56); `stream`: allocated by a streaming access, the lowest retention priority (R44). -/
structure RdcLine where
  filled : Bool := false
  mask : BitVec 64 := 0
  bytes : List Byte := []
  stream : Bool := false
deriving DecidableEq, Repr, Inhabited

/-- A class record of a subscription entry (R71). -/
structure SubClass where
  fmt : BitVec 3
  mem : BitVec 256
  inv : BitVec 256
deriving DecidableEq, Repr, Inhabited

/-- A subscription-directory entry with its valid classes (R70, R71); TAG is its key, V its presence. -/
structure SubEntry where
  hold : Bool := false
  classes : List SubClass := []
deriving DecidableEq, Repr, Inhabited

/-- An outstanding fill (R60): the cache that asked (an L1 `unit` of a cluster, 5 for none; through the remote-data cache of the die where `forRdc`), the
data read at the home, whether the access was a streaming one, and whether an invalidation has passed it. -/
structure Fill where
  line : Nat
  forRdc : Bool
  cluster : Nat
  bytes : List Byte
  unit : Nat := 5
  stream : Bool := false
  invalidated : Bool := false
deriving DecidableEq, Repr, Inhabited

/-- A store held at the home until the host answers a back-invalidation (R52, R63): from an L1 `unit` of a cluster (5 for none of them), and for which
lanes of which waves a release waits for it (R100). -/
structure HeldStore where
  cluster : Nat
  unit : Nat := 5
  pa : Nat
  bytes : List Byte
  who : List (Nat × Nat) := []
  /-- an STC's decrement that follows it: context, die, TCB address, and the LANE, WAVE, CL and PC bits of its lane (R228) -/
  dec : Option (Nat × Nat × W64 × Nat) := none
deriving DecidableEq, Repr, Inhabited

/-- A contribution held by an ordered buffer (R218, R219). -/
structure Contribution where
  ctx : Nat
  pa : Nat
  key : W32
  value : W32
  pos : Nat
  spilled : Bool
deriving DecidableEq, Repr, Inhabited

/-- A mapped queue slot of a die's queue manager (R313, R314, R321). -/
structure QSlot where
  desc : W64
  ctx : Nat
  base : W64
  notify : W64
  head : W32
  tail : W32
  lcap : Nat
  rsz : Nat
  cart : Bool
  prio : Nat
  thresh : Nat
  age : Nat
  minsh : Nat
  maxsh : Nat
  lr : LaunchRec
  pinned : Bool := false
  /-- marks of the visible age: position after the records marked, and the time (R321) -/
  marks : List (W32 × Nat) := []
  pass : Nat := 0
  /-- threads waiting in SPAWN for room: wave, lane, and the PC of the SPAWN (R318) -/
  waiters : List (Nat × Nat × W64) := []
  /-- team of the queue on each cluster (R323) -/
  teams : List (Nat × Nat) := []
  /-- cluster of the die that was chosen last (log 9) -/
  last : Nat := 63
  /-- held ineligible after a failed record read (R317) -/
  stuck : Bool := false
  /-- TCB appends still to take their positions: TCB context and address by record position (R327) -/
  tcbs : List (W32 × Nat × W64) := []
  lastErr : Bool := false
  /-- HEAD has still to be written to the descriptor after a launch (R319) -/
  headDue : Bool := false
deriving DecidableEq, Repr, Inhabited

/-- A grid's share on a die (R325). -/
structure Share where
  grid : Nat
  die : Nat
  teams : List Nat
  last : Nat := 63
  pass : Nat := 0
  since : Nat := 0
deriving DecidableEq, Repr, Inhabited

/-- A page being served by the service core of a die (R340): the frame taken and the entry to replace. -/
structure PageCopy where
  ctx : Nat
  granule : Nat
  pteAddr : Nat
  pte : W64
  frame : Nat
deriving DecidableEq, Repr, Inhabited

/-- A page request (R341): posted ones keep their tag until answered; KIND 3 entries (R371) need no answer. -/
structure PageReq where
  tag : Nat
  ctxid : W64
  ctx : Nat
  granule : Nat
  kind : Nat
  posted : Bool
  /-- the answer, once it has come: FAIL -/
  answer : Option Bool := none
  /-- the events whose device accesses wait for it (R388) -/
  devs : List Agent := []
deriving DecidableEq, Repr, Inhabited

/-- The host register block of a die, as far as it is storage (R360, R361). -/
structure HostRegs where
  accerr : Bool := false
  mchk : Bool := false
  pwr : Nat := 0
  errlog : W64 := 0
  prqbase : W64 := 0
  prqtail : W64 := 0
  prqhead : W64 := 0
  scopeq : BitVec 14 := 0
  chrbase : W64 := 0
  chrctl : W64 := 0
  chrtail : W64 := 0
  chrhead : W64 := 0
  chrdrop : Nat := 0
  qna : List (Nat × W64) := []
  qncErr : List Nat := []
  /-- writes to notify registers whose map still waits, oldest first: the slot, the value and the descriptor address at the write (R314, R364) -/
  qncQ : List (Nat × W64 × W64) := []
deriving DecidableEq, Repr, Inhabited

/-- One die. -/
structure Die where
  dir : List (Nat × DirEntry) := []
  subs : List (Nat × SubEntry) := []
  rdc : List (Nat × RdcLine) := []
  /-- the remote-data cache is fenced off (R65, R372): no access uses it any more -/
  rdcFenced : Bool := false
  rdcVec : List (Nat × BitVec 64) := []
  rtags : List Nat := []
  fills : List Fill := []
  held : List HeldStore := []
  /-- accesses of peers that have arrived and are not performed yet, oldest first (R64) -/
  peerQ : List PeerReq := []
  /-- units that have failed since reset and that a spare of the die stands for (R373) -/
  spared : List FailUnit := []
  /-- units of HBM and of Fleog links that have failed with no spare left (R366, R373) -/
  lost : List FailUnit := []
  buf : List Contribution := []
  bufPos : Nat := 0
  slots : List (Nat × QSlot) := []
  shares : List (Nat × Share) := []
  sbe : List EngCmd := []
  builds : List EngCmd := []
  /-- the die miss table (R26, R28), in order of arrival, and the clusters that its admission and its walkers served last (R28, R29) -/
  misses : List Miss := []
  lastAdmit : Nat := 63
  lastWalk : Nat := 63
  wcache : List TlbEntry := []
  copies : List PageCopy := []
  reqs : List PageReq := []
  nextTag : Nat := 0
  regs : HostRegs := {}
  lastCluster : Nat := 0
deriving DecidableEq, Repr, Inhabited

/-! ### Contexts, teams, grids and the package -/

/-- Where a context stands (R347, R363); `stopped`: unsaved, until it is killed (R372). -/
inductive CtxStat where
  | live | preempting | saved | resuming | stopped | killed
deriving DecidableEq, Repr, Inhabited

/-- A team (R135, R138). -/
structure Team where
  id : Nat
  ctx : Nat
  cluster : Nat
  cart : Bool
  size : Nat
  /-- local-memory allocation in bytes, and its bytes by offset; an unlisted offset holds 0 (R37) -/
  lm : Nat
  mem : List Host.Cell := []
  /-- members that have arrived at BAR and GBAR (R226, R350) -/
  bar : List Nat := []
  gbar : List Nat := []
  gang : Option Nat := none
  rank : Nat := 0
  gw : Nat := 1
  gh : Nat := 1
  grid : Option Nat := none
  /-- a queue's team: die and slot (R323) -/
  queue : Option (Nat × Nat) := none
  arr : ArrayState := {}
  /-- slot of the context's exchange pool that holds its image (R236) -/
  pool : Option Nat := none
  retired : Bool := false
  /-- at the team's first grant after a resume (R264): the command that had been accepted and not begun, and a TRING that had not started -/
  again : Option EngCmd := none
  againRing : Option EngCmd := none
  lr : LaunchRec := default
deriving DecidableEq, Repr, Inhabited

/-- What a saved context keeps beside its registers (R347 to R353), by the cluster it came from; the pinned queues by their die and the number, past every slot's,
under which lanes, teams and grids name them until they are mapped again (R330). -/
structure Saved where
  teams : List Team := []
  waves : List Wave := []
  opens : List (Nat × OpenWave) := []
  dispatch : List (Nat × CartStart) := []
  engines : List (Nat × EngCmd) := []
  shadows : List (Nat × Shadow) := []
  tex : List (Nat × List TexSlot) := []
  pinned : List (Nat × Nat × QSlot) := []
deriving DecidableEq, Repr, Inhabited

/-- The registers of a context (R9, R17, R24, R220, R237, R334, R344, R349) and where it stands. -/
structure Ctx where
  ctxid : W64 := 0
  ptbase : W64 := 0
  hwinBase : W64 := 0
  hwinLimit : W64 := 0
  hwinOff : W64 := 0
  ordspill : W64 := 0
  txpool : W64 := 0
  tvec : W64 := 0
  supv : W64 := 0
  csa : W64 := 0
  stat : CtxStat := .live
  saved : Saved := {}
  /-- TCB appends that stood in queues unmapped by a pre-emption (R327, R330): the descriptor, the record position, and the TCB's context and address -/
  appends : List (W64 × W32 × Nat × W64) := []
  /-- the CLKRD value at the request of the context's latest pre-emption (R349) -/
  asked : Nat := 0
deriving DecidableEq, Repr, Inhabited

/-- A grid (R135, R325). -/
structure Grid where
  id : Nat
  ctx : Nat
  lr : LaunchRec
  die : Nat := 0
  /-- teams (or gangs) not yet Retired -/
  alive : Nat
  queues : List (Nat × Nat) := []
  tcb : Option (Nat × W64) := none
deriving DecidableEq, Repr, Inhabited

/-- An access to another package that has not been acknowledged (R49, R368). -/
structure Remote where
  ctx : Nat
  /-- who made it: waves and their lanes; an access made once for a wave counts for each of its lanes (R90), and a lane that migrates keeps its own (R89) -/
  who : List (Nat × Nat)
  /-- the cluster it was made on -/
  cluster : Nat
  log : Option Nat
  dev : Nat
  pa : Nat
  va : W64
  pc : W64
  /-- stores: the bytes; loads and atomics are performed from the operand log -/
  bytes : List Byte
  /-- an STC's decrement that follows the store: context and TCB address (R228) -/
  tcb : Option (Nat × W64) := none
  /-- the LANE, WAVE, CL and PC bits of the message of a store that fails (R368) -/
  origin : Nat := 0
  /-- of the lanes of one SCATTER: the step of its issue; its stores are performed in lane order (R212) -/
  scatter : Option Nat := none
  /-- an access of no log entry and no store: who waits for its answer, its length and its kind (R368) -/
  agent : Option Agent := none
  n : Nat := 0
  kind : Nat := 0
deriving DecidableEq, Repr, Inhabited

/-- What a posting lane does once its message stands, or has failed (R334, R345, R346). -/
inductive AfterPost where
  | nothing
  | exit
  | park
deriving DecidableEq, Repr, Inhabited

/-- A supervisor message that has not been posted (R345): its context and die, bytes [191:0], and the lane that posts it. -/
structure Post where
  ctx : Nat
  cluster : Nat
  msg : Nat
  lane : Option (Nat × Nat) := none
  after : AfterPost := .nothing
deriving DecidableEq, Repr, Inhabited

/-- A graph whose replay runs (R329): its object, the TCBs that have not retired, and the patch of a replay that has not started yet. -/
structure Replay where
  ctx : Nat
  die : Nat
  obj : W64
  left : List W64
  starting : Option W64 := none
  /-- the completion word has been raised for the replay that is over -/
  counted : Bool := false
deriving DecidableEq, Repr, Inhabited

/-- What a task control block still has to have done for it (R327): its action; its retirement, with ERR where its action failed; or ERR alone, after a decrement of
its retirement was dropped. -/
inductive TcbJob where
  | fire
  | retire (err : Bool)
  | err
deriving DecidableEq, Repr, Inhabited

/-- A task control block at work: its context, the die whose queue manager works for it, and its address. -/
structure TcbWork where
  ctx : Nat
  die : Nat
  tcb : W64
  job : TcbJob
deriving DecidableEq, Repr, Inhabited

/-- The registers that exist once in the package (R360, R363, R364, R370, R371, R375). -/
structure PkgRegs where
  stage : Nat := 0
  cause : Nat := 0
  pctl : W64 := 0
  pooltab : W64 := 0
  gobj : W64 := 0
  gpatch : W64 := 0
  gstat : W64 := 0
  /-- GOBJ and GPATCH as the doorbell under way was rung (R364) -/
  door : W64 × W64 := (0, 0)
  funcmode : W64 := 0
  attnonce : List W64 := [0, 0, 0, 0, 0, 0, 0, 0]
  attbuf : W64 := 0
  attctl : W64 := 0
  pwrlim : W64 := 0
  /-- the host is fenced off as a holder of copies (R65, R372) -/
  hostFenced : Bool := false
deriving DecidableEq, Repr, Inhabited

/-- A unit failure that the firmware is still acting on (R373): the contexts to pre-empt, the one whose pre-emption runs, those pre-empted and to be resumed, and
whether the spare has been mapped in. -/
structure Repair where
  die : Nat
  unit : FailUnit
  todo : List Nat
  now : Option Nat := none
  saved : List Nat := []
  mapped : Bool := false
deriving DecidableEq, Repr, Inhabited

/-- The state of one package. -/
structure State where
  /-- package memory by local physical address (R13); an unlisted byte reads 0 (log 1) -/
  mem : List Host.Cell
  /-- memory of peers by fabric address (R14); an unlisted byte reads 0 (log 1) -/
  peer : List Host.Cell
  /-- poisoned lines (R372), rising -/
  poison : List Nat
  waves : List Wave
  teams : List Team
  grids : List Grid
  ctxs : List (Nat × Ctx)
  clusters : List (Nat × Cluster)
  dies : List (Nat × Die)
  regs : PkgRegs
  /-- what boot has established, stage by stage (R374, R378) -/
  boot : BootCfg
  /-- what the flash holds and discovery finds at the next boot (R374) -/
  flash : BootCfg := default
  /-- the least security version that a record may have, in the flash's replay-protected region (R374) -/
  flashMin : Nat := 0
  /-- unit failures that the firmware acts on (R373), oldest first -/
  repairs : List Repair := []
  remote : List Remote
  posts : List Post
  replays : List Replay
  tcbWork : List TcbWork
  hands : List Hand
  /-- MSI-X vectors raised, newest first (R360) -/
  msix : List Nat
  /-- CLKRD: clock periods since package reset (R358) -/
  clock : Nat
  /-- the wave and subgroup slot that issue now -/
  cur : Nat × Nat
  /-- the carriage or cart that issued last: 20 for each cluster, carriages first -/
  lastUnit : Nat
  /-- the rest of a chain in issue: wave and slot (R157) -/
  chain : Option (Nat × Nat)
  /-- events that move next, oldest first: where each acts, and the event -/
  agenda : List (Nat × Instr)
  /-- events whose device access waits for a fault service (R388), tried again when one ends -/
  stalled : List (Nat × Instr)
  /-- where the event in execution acts -/
  site : Nat
  /-- what is in execution, where it is no subgroup that issues -/
  doing : Option Agent := none
  /-- what the attempt in execution needs first; with any of it the attempt has no effect, and what makes it waits. Empty between steps -/
  asks : List Ask := []
  /-- the answers of peers for agents that still wait (R368) -/
  answers : List Answer := []
  /-- the contexts and granules whose walk an agent has waited for (R28) -/
  walked : List (Agent × Nat × Nat) := []
  /-- steps taken: every 64th looks at the timers and arbiters first -/
  turn : Nat
  /-- events that timers and arbiters have moved: they take turns -/
  polls : Nat
  /-- the number of the next free value (log 3) -/
  free : Nat
  /-- the next wave, team and grid number -/
  nextId : Nat
deriving DecidableEq, Repr, Inhabited

/-- Why the machine stops. -/
inductive Fault where
  /-- Raised by nothing: no rule of the specification stops the machine, and every trap is taken (R331 to R338). Safe. -/
  | machineStop
deriving DecidableEq, Repr

/-- Why an instruction is refused. -/
inductive Refusal where
  /-- Raised by exec for an instruction that has no meaning yet, by its mnemonic; now by none. Safe: the machine stops where the hardware goes on. -/
  | notModelled (mnemonic : String)
deriving DecidableEq, Repr

/-- The package after reset: every field at the value the specification gives, memory with nothing listed, and 0 where it gives none (log 2). -/
def State.reset : State where
  mem := []
  peer := []
  poison := []
  waves := []
  teams := []
  grids := []
  ctxs := []
  clusters := []
  dies := []
  regs := {}
  boot := default
  remote := []
  posts := []
  replays := []
  tcbWork := []
  hands := []
  msix := []
  clock := 0
  cur := (0, 0)
  lastUnit := 0
  chain := none
  agenda := []
  stalled := []
  site := 0
  turn := 0
  polls := 0
  free := 0
  nextId := 0

end Sys2Proof.Machine
end

