-- ==== Sys2Proof/Machine/Mem.lean ====
section
/-! DEFINITION. Memory: byte lists in canonical form, the home of each line with its directory and subscription directory, the remote-data caches,
the cluster filters and the view stores (R13, R37 to R65, R66 to R83, R387). -/

namespace Sys2Proof.Machine

/-! ### Bytes in canonical form: addresses strictly rising, no listed byte equal to 0 -/

/-- The byte at an address; an unlisted address reads 0. -/
def cellGet : List Host.Cell → Nat → Byte
  | [], _ => 0
  | (b, x) :: r, a => if b == a then x else cellGet r a

/-- A byte that is not 0, put in its place. -/
def cellPut (a : Nat) (x : Byte) : List Host.Cell → List Host.Cell
  | [] => [(a, x)]
  | (b, y) :: r => if a < b then (a, x) :: (b, y) :: r else if a = b then (a, x) :: r else (b, y) :: cellPut a x r

/-- One byte written, keeping the canonical form. -/
def cellSet (a : Nat) (x : Byte) (m : List Host.Cell) : List Host.Cell := if x = 0 then m.filter (fun c => c.1 != a) else cellPut a x m

/-- Consecutive bytes written from an address upward. -/
def cellsWrite (m : List Host.Cell) (a : Nat) : List Byte → List Host.Cell
  | [] => m
  | x :: r => cellsWrite (cellSet a x m) (a + 1) r

/-- n consecutive bytes from an address upward. -/
def cellsRead (m : List Host.Cell) (a n : Nat) : List Byte := (span a n).map (cellGet m)

/-- The canonical form holds from address lo upward. -/
def cellsFrom (lo : Nat) : List Host.Cell → Bool
  | [] => true
  | (a, x) :: r => decide (lo ≤ a) && x != 0 && cellsFrom (a + 1) r

/-- The canonical form of a byte list. -/
def Memory.wf (m : List Host.Cell) : Bool := cellsFrom 0 m

/-! ### Parts of the state by number -/

def getCluster (s : State) (c : Nat) : Cluster := aget {} s.clusters c
def setCluster (c : Nat) (x : Cluster) (s : State) : State := { s with clusters := aset c x s.clusters }
def updCluster (c : Nat) (f : Cluster → Cluster) (s : State) : State := setCluster c (f (getCluster s c)) s
def getDie (s : State) (d : Nat) : Die := aget {} s.dies d
def setDie (d : Nat) (x : Die) (s : State) : State := { s with dies := aset d x s.dies }
def updDie (d : Nat) (f : Die → Die) (s : State) : State := setDie d (f (getDie s d)) s

/-- A context by its handle. A handle that nothing has written has every register at reset (R9, log 6). -/
def getCtx (s : State) (k : Nat) : Ctx := aget {} s.ctxs k
def setCtx (k : Nat) (x : Ctx) (s : State) : State := { s with ctxs := aset k x s.ctxs }
def updCtx (k : Nat) (f : Ctx → Ctx) (s : State) : State := setCtx k (f (getCtx s k)) s

def getTeam (s : State) (t : Nat) : Option Team := s.teams.find? (fun x => x.id == t)
def updTeam (t : Nat) (f : Team → Team) (s : State) : State :=
  { s with teams := s.teams.map (fun x => if x.id == t then f x else x) }
def updWave (k : Nat) (f : Wave → Wave) (s : State) : State :=
  { s with waves := s.waves.map (fun x => if x.id == k then f x else x) }
def updGrid (g : Nat) (f : Grid → Grid) (s : State) : State :=
  { s with grids := s.grids.map (fun x => if x.id == g then f x else x) }

/-- Append an event that acts at a site to what moves next. -/
def post (site : Nat) (e : Instr) (s : State) : State := { s with agenda := s.agenda ++ [(site, e)] }

/-! ### Where a byte lives (R13, R43) -/

/-- The HBM stack, of the two of a die, that holds a byte (R43). -/
def hbmStack (pa : Nat) : Nat := (pa / 2 ^ 9 % 2) ^^^ (pa / 2 ^ 18 % 2)

/-- The channel, of the 32 of a stack, that holds a byte (R43). -/
def hbmChannel (pa : Nat) : Nat := (pa / 2 ^ 10 % 32) ^^^ (pa / 2 ^ 19 % 32)

/-- The L2 slice of an address (R42). -/
def sliceOf (pa : Nat) : Nat := (pa / 2 ^ 9 % 64) ^^^ (pa / 2 ^ 15 % 64) ^^^ (pa / 2 ^ 21 % 64)

/-- The byte lies in HBM. -/
def inHbm (pa : Nat) : Bool := pa < 2 ^ 39

/-- An offset from a port's base lies in one of its expanders: each is placed after those before it, aligned to 1 GiB (R365). -/
def inExpander (off : Nat) : Nat → List Nat → Bool
  | _, [] => false
  | base, n :: rest => decide (base ≤ off ∧ off < base + n) || inExpander off ((base + n + 2 ^ 30 - 1) / 2 ^ 30 * 2 ^ 30) rest

/-- The byte lies in populated second-tier memory (R13): in one of the at most four expanders of its die's port (R365). -/
def inTier2 (s : State) (pa : Nat) : Bool :=
  decide (2 ^ 44 ≤ pa ∧ pa < 2 ^ 45) && inExpander (pa % 2 ^ 42) 0 ((nth [] s.boot.tier2 (pa / 2 ^ 42 % 4)).take 4)

/-- HOSTSZ in bytes, at most 128 TiB (R13, R374). -/
def hostSize (s : State) : Nat := Nat.min s.boot.hostGiB (2 ^ 17) * 2 ^ 30

/-- The byte lies in the populated host range (R13); nothing is populated before boot stage 6. -/
def inHost (s : State) (pa : Nat) : Bool :=
  decide (2 ^ 47 ≤ pa ∧ pa < 2 ^ 47 + (if 6 ≤ s.regs.stage then hostSize s else 0))

/-- Home die of a local physical address (R13); host memory is reached through die 0. -/
def homeDie (pa : Nat) : Nat := if pa < 2 ^ 39 then pa / 2 ^ 37 % 4 else if pa < 2 ^ 45 then pa / 2 ^ 42 % 4 else 0

/-- The address lies in a channel or row of HBM that has failed with no spare left (R373): its capacity is lost. -/
def lostHbm (s : State) (pa : Nat) : Bool :=
  (getDie s (homeDie pa)).lost.any (fun u => match u with
    | .hbmChannel st ch => st == hbmStack pa && ch == hbmChannel pa
    | .hbmRow st ch row => st == hbmStack pa && ch == hbmChannel pa && row == Config.rowOf pa
    | _ => false)

/-- The address names memory of this package that exists: HBM whose capacity is not lost (R373), or populated second tier (R13). -/
def inPackage (s : State) (pa : Nat) : Bool := (inHbm pa && !lostHbm s pa) || inTier2 s pa

/-- The address names memory of this package or of the host that exists; one that the host completes with an error counts as unpopulated (R13). -/
def exists_ (s : State) (pa : Nat) : Bool := inPackage s pa || (inHost s pa && !Config.hostError s.turn (pa / 64))

/-- A line that an uncorrectable error has poisoned (R372). -/
def poisoned (s : State) (pa : Nat) : Bool := s.poison.contains (pa / 64)

/-! ### Directory bits -/

/-- The numbers of the set bits of a vector. -/
def ones {n : Nat} (x : BitVec n) : List Nat := if x = 0 then [] else (span 0 n).filter (fun i => bit x i)

def setBit {n : Nat} (x : BitVec n) (i : Nat) (b : Bool) : BitVec n := putFld x i 1 b.toNat

def getDir (s : State) (region : Nat) : DirEntry := aget {} (getDie s (homeDie (region * 512))).dir region

/-- The entry names no holder and no subscription (R51). -/
def dirFree (e : DirEntry) : Bool := e.cl == 0 && e.rdcp == 0 && e.rdcd == 0 && !e.host && !e.sub

/-- The directory entry of a region changed; an entry that names no one is dropped. -/
def updDir (region : Nat) (f : DirEntry → DirEntry) (s : State) : State :=
  updDie (homeDie (region * 512)) (fun d =>
    let e := f (aget {} d.dir region)
    { d with dir := if dirFree e then adel region d.dir else aset region e d.dir }) s

/-! ### The cluster filter (R54) -/

/-- The line leaves every L1 of the cluster but the storing one (5 for none). -/
def filterDrop (c line keep : Nat) (s : State) : State :=
  let f := (getCluster s c).filter
  let h := aget 0 f line
  if h = 0 then s
  else
    let k : BitVec 5 := if keep < 5 && bit h keep then BitVec.ofNat 5 (2 ^ keep) else 0
    updCluster c (fun x => { x with filter := if k = 0 then adel line x.filter else aset line k x.filter }) s

/-- The cluster holds nothing of the region: no line in its filter, and none on its way to an L1 (R54, R60). -/
def filterEmpty (s : State) (c region : Nat) : Bool :=
  (getCluster s c).filter.all (fun p => p.1 / 8 != region) &&
    (getDie s (c / 64)).fills.all (fun f => f.invalidated || f.cluster != c || 5 ≤ f.unit || f.line / 8 != region)

/-- Ways of an L1: a carriage's, or the cart L1 (R34). Each has 256 sets (log 63). -/
def l1Ways (unit : Nat) : Nat := if unit < 4 then 8 else 16

/-- An L1 of the cluster allocates a line; where its set is full, one line leaves it, in an order the manual leaves open (R34, R54). -/
def filterAdd (c line unit : Nat) (s : State) : State :=
  let mates := ((getCluster s c).filter.filter (fun p => bit p.2 unit && p.1 % 256 == line % 256 && p.1 != line)).map (·.1)
  let s1 := if mates.length < l1Ways unit then s
    else match sortBy (Config.rank s.free) mates with
      | [] => s
      | v :: _ => updCluster c (fun x =>
          let h := setBit (aget 0 x.filter v) unit false
          { x with filter := if h = 0 then adel v x.filter else aset v h x.filter }) { s with free := s.free + 1 }
  updCluster c (fun x => { x with filter := aset line (setBit (aget 0 x.filter line) unit true) x.filter }) s1

/-- The access under way may take effect only once the host has answered for a line (R52, R63). -/
def needHost (line : Nat) (s : State) : State := { s with asks := s.asks ++ [.host line] }

/-- Who makes the access under way. -/
def agentOf (s : State) : Agent := s.doing.getD (.lanes s.cur.1 s.cur.2)

/-- The probe of a cluster of the home die (R52, R54): lines named by the mask leave its L1s, and their outstanding fills are marked (R60); CL is cleared when the region is gone. -/
def probeCluster (region : Nat) (mask : BitVec 8) (keep : Nat → Nat) (c : Nat) (s : State) : State :=
  let hit (f : Fill) : Bool := !f.forRdc && f.cluster == c && f.line / 8 == region && bit mask (f.line % 8)
  let s0 := if (getDie s (c / 64)).fills.any hit
    then updDie (c / 64) (fun d => { d with fills := d.fills.map (fun f => if hit f then { f with invalidated := true } else f) }) s else s
  let s1 := (ones mask).foldl (fun s i => filterDrop c (region * 8 + i) (keep c) s) s0
  if filterEmpty s1 c region && decide (c / 64 = homeDie (region * 512))
  then updDir region (fun e => { e with cl := setBit e.cl (c % 64) false }) s1 else s1

/-! ### Remote-data caches (R45, R55, R56) -/

def rdcGet (s : State) (d line : Nat) : RdcLine := aget {} (getDie s d).rdc line

/-- A line of a remote-data cache replaced; an Invalid line is dropped. -/
def rdcSet (d line : Nat) (x : RdcLine) (s : State) : State :=
  updDie d (fun y => { y with rdc := if x.filled || x.mask != 0 then aset line x y.rdc else adel line y.rdc }) s

/-- The line's bytes that are dirty, with their addresses. -/
def dirtyBytes (s : State) (d line : Nat) : List (Nat × Byte) :=
  let x := rdcGet s d line
  (ones x.mask).map (fun i => (line * 64 + i, nth 0 x.bytes i))

/-- The home's bits for a die after a change of its lines: RDCP while the die holds something of the region (a line of its remote-data cache, one on its way
to it, or one in an L1 of its clusters), RDCD while it holds a dirty byte. -/
def rdcReport (d region : Nat) (s : State) : State :=
  let ls := (getDie s d).rdc.filter (fun p => p.1 / 8 == region)
  let held := !ls.isEmpty || (getDie s d).fills.any (fun f => f.forRdc && !f.invalidated && f.line / 8 == region) || aget 0 (getDie s d).rdcVec region != 0
  updDir region (fun e => { e with
    rdcp := if held then e.rdcp else setBit e.rdcp d false
    rdcd := if ls.all (fun p => p.2.mask == 0) then setBit e.rdcd d false else e.rdcd }) s

/-- Clusters of a die drop a remote line from their L1s (R55). -/
def rdcProbe (d line : Nat) (keep : Nat → Nat) (s : State) : State :=
  let region := line / 8
  let s1 := (ones (aget 0 (getDie s d).rdcVec region)).foldl (fun s c =>
    let s := filterDrop (d * 64 + c) line (keep (d * 64 + c)) s
    if filterEmpty s (d * 64 + c) region
    then updDie d (fun y => { y with rdcVec := aset region (setBit (aget 0 y.rdcVec region) c false) y.rdcVec }) s else s) s
  updDie d (fun y => if aget 0 y.rdcVec region = 0 then { y with rdcVec := adel region y.rdcVec } else y) s1

/-- The outstanding fills of a line for a die's remote-data cache are marked (R60). -/
def markFills (d line : Nat) (s : State) : State :=
  if (getDie s d).fills.any (fun f => f.line == line && f.forRdc)
  then updDie d (fun y => { y with fills := y.fills.map (fun f => if f.line == line && f.forRdc then { f with invalidated := true } else f) }) s else s

/-- An invalidation from the home (R56): clean bytes go, dirty bytes stay; the die's L1 copies go, but that of the L1 that stores (R54, R55); outstanding fills
of the line are marked (R60). -/
def rdcInvalidate (d line : Nat) (keep : Nat → Nat) (s : State) : State :=
  let x := rdcGet s d line
  let s1 := rdcProbe d line keep (markFills d line (rdcSet d line { x with filled := false, bytes := if x.mask = 0 then [] else x.bytes } s))
  rdcReport d (line / 8) s1

/-! ### Views and subscription messages (R66 to R71, R78 to R80, R387) -/

/-- Format of a code of R67. -/
def fmtOf (c : BitVec 3) : Fmt := if c = 0 then .fp32 else if c = 1 then .fp16 else if c = 2 then .bf16 else if c = 3 then .e4m3 else .e5m2

/-- view(x, F) of R68, as an encoding. -/
def viewOf (c : BitVec 3) (x : Nat) : Nat := (roundF (fmtOf c) .rne (unpackF .fp32 x)).1

/-- A view widened exactly to FP32 (R82). -/
def widenView (c : BitVec 3) (e : Nat) : Nat := (roundF .fp32 .rne (unpackF (fmtOf c) e)).1

def updShadows (c region : Nat) (fmt : BitVec 3) (f : Shadow → Shadow) (s : State) : State :=
  updCluster c (fun x => { x with shadows := x.shadows.map (fun h => if h.region == region && h.fmt == fmt then f h else h) }) s

/-- HOLD (R79, R387): named elements pending in update-mode shadows, invalidate-mode shadows stale. -/
def holdMsg (c region : Nat) (fmt : BitVec 3) (words : List Nat) (s : State) : State :=
  updShadows c region fmt (fun h => if h.inv then { h with stale := true }
    else { h with pending := h.pending ++ words.filter (fun w => !h.pending.contains w) }) s

/-- DATA (R79, R387): update-mode shadows take the new views. -/
def dataMsgs (c region : Nat) (fmt : BitVec 3) (words : List (Nat × W32)) (s : State) : State :=
  updShadows c region fmt (fun h => if h.inv then h
    else { h with
      views := words.foldl (fun v p => setNth p.2.toNat v p.1) h.views
      pending := h.pending.filter (fun w => !(words.any (fun p => p.1 == w))) }) s

/-- INVAL (R80): the whole shadow is stale. -/
def invalMsg (c region : Nat) (fmt : BitVec 3) (s : State) : State := updShadows c region fmt (fun h => { h with stale := true }) s

def getSub (s : State) (region : Nat) : Option SubEntry :=
  ((getDie s (homeDie (region * 512))).subs.find? (fun p => p.1 == region)).map (·.2)

/-! ### WAITA wake-up (R223, R108) -/

/-- A sleep that a write has become visible to is marked. -/
def wakeSt (p : WaitA → Bool) : LaneSt → LaneSt
  | .waiting (.waita a) => if p a then .waiting (.waita { a with woken := true }) else .waiting (.waita a)
  | x => x

/-- A sleep that such a write would mark. -/
def asleepIn (p : WaitA → Bool) : LaneSt → Bool
  | .waiting (.waita a) => !a.woken && p a
  | _ => false

/-- Sleepers on a line that a write has become visible to: the test says of a wave and a sleeper whether it is one. Each is marked, and its WAITA_WAKE
moves next; a sleeper that is in a converged handler is marked where it will go on from (R337). -/
def wakeIf (p : Wave → WaitA → Bool) (s : State) : State :=
  let hits := s.waves.filter (fun w => w.lanes.any (fun l => asleepIn (p w) l.st || asleepIn (p w) l.before))
  if hits.isEmpty then s
  else
    let s1 := { s with waves := s.waves.map (fun w => { w with lanes := w.lanes.map (fun l =>
      { l with st := wakeSt (p w) l.st, before := wakeSt (p w) l.before }) }) }
    hits.foldl (fun s w => post w.id .waitaWake s) s1

/-- A write of a line of package memory has become visible to the agents of the dies that a test selects. -/
def wakeLine (line : Nat) (sees : Nat → Bool) (s : State) : State :=
  wakeIf (fun w a => a.place == 0 && a.addr / 64 == line && sees (w.cluster / 64)) s

/-- Local memory of a team has been written at an offset. -/
def wakeLocal (team off : Nat) (s : State) : State := wakeIf (fun _ a => a.place == team + 2 && a.addr / 64 == off / 64) s

/-! ### The home (R52, R53, R58, R78) -/

/-- Who makes an update at the home: an L1 of a cluster (5 for none of them: an engine), a die's remote-data cache, the host, or someone else. -/
inductive Source where
  | cluster (c unit : Nat)
  | die (d : Nat)
  | host
  | other
deriving DecidableEq, Repr, Inhabited

/-- The 32-bit words of a line at the home. -/
def lineWords (mem : List Host.Cell) (line : Nat) : List Nat := (span 0 16).map (fun i => leNat (cellsRead mem (line * 64 + 4 * i) 4))

/-- Write bytes at their addresses. -/
def writeBytes (m : List Host.Cell) (bs : List (Nat × Byte)) : List Host.Cell := bs.foldl (fun m p => cellSet p.1 p.2 m) m

/-- The clusters of a class that take HOLD and DATA, and those that take INVAL (R78). -/
def classClusters (k : SubClass) (inv : Bool) : List Nat := (ones k.mem).filter (fun c => bit k.inv c == inv)

/-- DATA of a region that is still on its way is delivered: a home's messages reach a cluster in order (R78). -/
def flushData (region : Nat) (s : State) : State :=
  let mine (p : Nat × Instr) : Bool := match p.2 with | .dataMsg _ r _ _ => r == region | _ => false
  if s.agenda.any mine then
    (s.agenda.filter mine).foldl (fun s p => match p.2 with | .dataMsg c r f ws => dataMsgs c r f ws s | _ => s) { s with agenda := s.agenda.filter (fun p => !mine p) }
  else s

/-- One update of one line at its home, between two other requests to it: R52's probes and back-invalidation and R78's comparison, then the write, then
DATA. Bytes lie in one line. Where the host may hold the line, it has to answer first (R63): the attempt that makes the update then has no effect. The
copies of the host are its own affair in a write of its own. -/
def homeUpdate (line : Nat) (bs : List (Nat × Byte)) (src : Source) (s : State) : State :=
  let region := line / 8
  let s := flushData region s
  let h := homeDie (line * 64)
  let mem' := writeBytes s.mem bs
  let changed : List (SubClass × List (Nat × W32)) := match getSub s region with
    | none => []
    | some e =>
      let old := lineWords s.mem line
      let new := lineWords mem' line
      let cs := e.classes.map (fun k => (k, ((span 0 16).filter (fun i => viewOf k.fmt (nth 0 old i) != viewOf k.fmt (nth 0 new i))).map (fun i =>
        (line % 8 * 16 + i, BitVec.ofNat 32 (viewOf k.fmt (nth 0 new i))))))
      cs.filter (fun p => !p.2.isEmpty)
  let s1 := changed.foldl (fun s p =>
    let s := (classClusters p.1 false).foldl (fun s c => holdMsg c region p.1.fmt (p.2.map (·.1)) s) s
    (classClusters p.1 true).foldl (fun s c => invalMsg c region p.1.fmt s) s) s
  let keep : Nat → Nat := match src with
    | .cluster c u => fun x => if x = c then u else 5
    | _ => fun _ => 5
  let dir := getDir s1 region
  let s2 := (ones dir.cl).foldl (fun s c => probeCluster region (BitVec.ofNat 8 (2 ^ (line % 8))) keep (h * 64 + c) s) s1
  let s3 := ((ones dir.rdcp).filter (fun d => src != .die d)).foldl (fun s d => rdcInvalidate d line keep s) s2
  let s4 := if dir.host && src != .host then needHost line (updDir region (fun e => { e with host := false }) s3) else s3
  let s5 := { s4 with
    mem := writeBytes s4.mem bs
    poison := if bs.length = 64 then s4.poison.filter (· != line) else s4.poison }
  -- a die's own writeback makes nothing new visible to it
  let s6 := wakeLine line (fun d => src != .die d || decide (2 ^ 47 ≤ line * 64)) s5
  changed.foldl (fun s p => (classClusters p.1 false).foldl (fun s c => post c (.dataMsg c region p.1.fmt p.2) s) s) s6

/-- A writeback of a die's dirty bytes of a line (R56, R58): one update; the line is then Clean, or Invalid and gone from the die's L1s (R55). A fill of the
line that is on its way was read before this update: it is not installed (R60). -/
def writeback (d line : Nat) (s : State) : State :=
  let bs := dirtyBytes s d line
  if bs.isEmpty then s
  else
    let s1 := markFills d line (homeUpdate line bs (.die d) s)
    let x := rdcGet s1 d line
    let s2 := rdcSet d line { x with mask := 0, bytes := if x.filled then x.bytes else [] } s1
    rdcReport d (line / 8) (if x.filled then s2 else rdcProbe d line (fun _ => 5) s2)

/-- The dies that hold dirty bytes of a line, in an order the manual leaves open (R58) where there are several. -/
def dirtyDies (s : State) (line : Nat) : List Nat :=
  let ds := (ones (getDir s (line / 8)).rdcd).filter (fun d => (rdcGet s d line).mask != 0)
  if ds.length < 2 then ds else sortBy (Config.rank s.free) ds

/-- The home pulls the dirty bytes of a line from every die and merges them (R47, R52, R58). -/
def pullLine (line : Nat) (s : State) : State :=
  let ds := dirtyDies s line
  let s1 := if ds.length < 2 then s else { s with free := s.free + 1 }
  ds.foldl (fun s d => writeback d line s) s1

/-- Stores that the home holds until the host answers its back-invalidation (R63) are completed before the next request to their line (R52), once the host has
answered. Dirty bytes of remote-data caches are merged first, as R52 asks of the stores that need it and as a drain may do at any time (R46). -/
def answerHeld (line : Nat) (s : State) : State :=
  let h := homeDie (line * 64)
  let hs := (getDie s h).held
  if hs.all (fun x => x.pa / 64 != line) then s
  else
    let s1 := updDie h (fun d => { d with held := d.held.filter (fun x => x.pa / 64 != line) }) s
    (hs.filter (fun x => x.pa / 64 == line)).foldl (fun s x =>
      let t := homeUpdate line ((span 0 x.bytes.length).map (fun i => (x.pa + i, nth 0 x.bytes i))) (.cluster x.cluster x.unit)
        (pullLine line s)
      match x.dec with
      | some (ctx, die, tcb, lane) => post x.cluster (.tcbDecrement ctx die tcb (.stc lane)) t
      | none => t) s1

/-- A writeback that reaches the home behind the stores held there (R52). -/
def writebackAfter (d line : Nat) (s : State) : State := if (rdcGet s d line).mask = 0 then s else writeback d line (answerHeld line s)

/-- The host has to answer a back-invalidation before a store to the line is performed (R63). -/
def asksHost (s : State) (line : Nat) : Bool := (getDir s (line / 8)).host

/-- A writeback that a die makes of its own account (R46): where the host may hold the line, it comes after the host's answer. -/
def writebackAsk (d line : Nat) (s : State) : State :=
  if (rdcGet s d line).mask != 0 && asksHost s line then post line .backInvalidationAnswer s else writebackAfter d line s

/-! ### Room in the L2 and in the remote-data caches (R34, R39, R42, R44, R52, R55) -/

/-- The L2 set of a region: its slice, and PA[21:15] within it (R69). -/
def l2Set (region : Nat) : Nat := sliceOf (region * 512) * 128 + region * 512 / 2 ^ 15 % 128

/-- Ways of an L2 set. -/
def l2Ways : Nat := 24

/-- A region leaves the L2 (R52): the dirty bytes pulled, every copy probed, the entry freed. -/
def evictRegion (region : Nat) (s : State) : State :=
  let h := homeDie (region * 512)
  let lines := (span 0 8).map (fun i => region * 8 + i)
  let s1 := lines.foldl (fun s l => pullLine l (answerHeld l s)) (if (getDir s region).host then needHost (region * 8) s else s)
  let e := getDir s1 region
  let s2 := (ones e.cl).foldl (fun s c => probeCluster region (BitVec.allOnes 8) (fun _ => 5) (h * 64 + c) s) s1
  let s3 := (ones e.rdcp).foldl (fun s d => lines.foldl (fun s l => rdcInvalidate d l (fun _ => 5) s) s) s2
  updDir region (fun _ => {}) s3

/-- Room for a region in its L2 set: where every way holds a region with copies, one that is not subscribed goes: a streaming one first, otherwise in an order
the manual leaves open. Regions of host memory have no place in an L2 (R42). -/
def makeRoom (region : Nat) (s : State) : State :=
  let x := getDie s (homeDie (region * 512))
  if decide (2 ^ 47 ≤ region * 512) || x.dir.length < l2Ways || x.dir.any (fun p => p.1 == region) then s
  else
    let mates := x.dir.filter (fun p => l2Set p.1 == l2Set region && decide (p.1 * 512 < 2 ^ 47))
    if mates.length < l2Ways then s
    else
      let free := mates.filter (fun p => !p.2.sub)
      let low := free.filter (fun p => p.2.stream)
      match sortBy (Config.rank s.free) ((if low.isEmpty then free else low).map (·.1)) with
      | [] => s
      | v :: _ => evictRegion v { s with free := s.free + 1 }

/-- Lines of a remote-data cache (R34): 32 MiB. -/
def rdcLines : Nat := 524288

/-- A line leaves a remote-data cache (R46 item 3, R55): dirty bytes written home, the die's L1 copies probed. -/
def evictLine (d line : Nat) (s : State) : State :=
  let s1 := writebackAfter d line s
  rdcReport d (line / 8) (rdcProbe d line (fun _ => 5) (updDie d (fun y => { y with rdc := adel line y.rdc }) s1))

/-- Room for a line in a remote-data cache: where it is full one line goes, a streaming one first, otherwise in an order the manual leaves open. -/
def rdcRoom (d line : Nat) (s : State) : State :=
  let x := getDie s d
  if x.rdc.length < rdcLines || x.rdc.any (fun p => p.1 == line) then s
  else
    let low := x.rdc.filter (fun p => p.2.stream)
    match sortBy (Config.rank s.free) ((if low.isEmpty then x.rdc else low).map (·.1)) with
    | [] => s
    | v :: _ => evictLine d v { s with free := s.free + 1 }

/-- Contiguous bytes with their addresses. -/
def withAddrs (pa : Nat) (bs : List Byte) : List (Nat × Byte) := (span 0 bs.length).map (fun i => (pa + i, nth 0 bs i))

/-- A store performed at the home (R52). `pull` where dirty remote bytes must be merged first. -/
def homeStoreBytes (src : Source) (pull : Bool) (pa : Nat) (bs : List Byte) (s : State) : State :=
  let line := pa / 64
  let s1 := answerHeld line (makeRoom (line / 8) s)
  let s2 := if pull || (getDir s1 (line / 8)).sub then pullLine line s1 else s1
  homeUpdate line (withAddrs pa bs) src s2

/-! ### Stores and loads of an agent of a die (R39, R44 to R47, R53 to R57) -/

/-- The access passes the die's remote-data cache by (R44, R47, R65): MT 01, or the cache is fenced off. -/
def passesRdc (s : State) (d mt : Nat) : Bool := mt == 1 || (getDie s d).rdcFenced

/-- A store merged into the remote-data cache of a die (R45, R55, R56): the die's L1 copies but the storer's go, and the home hears of the first dirty byte
of the region. -/
def rdcMerge (d : Nat) (keep : Nat → Nat) (stream : Bool) (pa : Nat) (bs : List Byte) (s : State) : State :=
  let line := pa / 64
  let s := rdcRoom d line (makeRoom (line / 8) s)
  let x := rdcGet s d line
  let bytes := if x.bytes.isEmpty then (span 0 64).map (fun _ => (0 : Byte)) else x.bytes
  let o := pa % 64
  let bytes' := (span 0 bs.length).foldl (fun b i => setNth (nth 0 bs i) b (o + i)) bytes
  let mask' := (span 0 bs.length).foldl (fun m i => setBit m (o + i) true) x.mask
  let s1 := rdcSet d line { x with mask := mask', bytes := bytes', stream } (rdcProbe d line keep s)
  wakeLine line (· == d) (updDir (line / 8) (fun e => { e with rdcp := setBit e.rdcp d true, rdcd := setBit e.rdcd d true, stream }) s1)

/-- The store goes to the home of the line at once: the storing die is its home, or the store may not stay in the remote-data cache (R45, R47). -/
def storesHome (s : State) (d mt pa : Nat) : Bool :=
  homeDie pa == d || passesRdc s d mt || (getDie s d).rtags.contains (pa / 512)

/-- A store by an agent of cluster c (L1 `unit`, 5 for an engine) with memory type mt to local physical memory. -/
def storeBytes (c unit mt pa : Nat) (bs : List Byte) (s : State) : State :=
  let d := c / 64
  let line := pa / 64
  let keep : Nat → Nat := fun x => if x = c then unit else 5
  if 2 ^ 47 ≤ pa then
    -- host memory: written through die 0, updating a clean copy of the storing die (R45); a fill on its way is older (R60)
    let x := rdcGet s d line
    let s1 := markFills d line (homeUpdate line (withAddrs pa bs) (.die d) s)
    let s2 := rdcProbe d line keep s1
    if x.filled then rdcSet d line { x with bytes := (span 0 bs.length).foldl (fun b i => setNth (nth 0 bs i) b (pa % 64 + i)) x.bytes } s2 else s2
  else if homeDie pa = d then homeStoreBytes (.cluster c unit) (mt == 1) pa bs s
  else if storesHome s d mt pa then homeStoreBytes (.cluster c unit) true pa bs (writebackAfter d line s)
  else rdcMerge d keep (mt == 2) pa bs s

/-- A line fetched into a die's remote-data cache (R56): bytes outside the mask are filled. A copy of a host-memory line, which no L2 homes (R42), is tracked in die
0's directory as a line of its own: DESIGN CHOICE (log 67). -/
def rdcFill (d line : Nat) (stream : Bool) (home : List Byte) (s : State) : State :=
  let s := rdcRoom d line s
  let x := rdcGet s d line
  let bytes := (span 0 64).map (fun i => if bit x.mask i then nth 0 x.bytes i else nth 0 home i)
  updDir (line / 8) (fun e => { e with rdcp := setBit e.rdcp d true, stream }) (rdcSet d line { x with filled := true, bytes := bytes, stream } s)

/-- The cluster's bit of a remote region in its die's vector (R55). -/
def vecSet (c region : Nat) (s : State) : State :=
  updDie (c / 64) (fun z => { z with rdcVec := aset region (setBit (aget 0 z.rdcVec region) (c % 64) true) z.rdcVec }) s

/-- A load of this memory type may allocate in the L1 (R44). -/
def l1Takes (unit mt : Nat) : Bool := decide (unit < 5) && mt != 1 && !(mt == 2 && decide (unit < 4))

/-- A load by an agent of cluster c (L1 `unit`, 5 for an engine), memory type mt: the bytes and what the caches then hold. -/
def loadBytes (c unit mt pa n : Nat) (s : State) : State × List Byte :=
  let d := c / 64
  let line := pa / 64
  let s0 := answerHeld line (makeRoom (line / 8) s)
  let alloc : State → State := fun s => if l1Takes unit mt then filterAdd c line unit s else s
  if homeDie pa = d && decide (pa < 2 ^ 47) && mt != 1 then
    let s1 := alloc s0
    (if unit < 5 then updDir (line / 8) (fun e => { e with cl := setBit e.cl (c % 64) true, stream := mt == 2 }) s1 else s1, cellsRead s0.mem pa n)
  else if passesRdc s0 d mt then
    let s1 := pullLine line (writebackAfter d line s0)
    (s1, cellsRead s1.mem pa n)
  else
    let x := rdcGet s0 d line
    let hit := x.filled || (span 0 n).all (fun i => bit x.mask (pa % 64 + i))
    let s1 := if hit then s0 else rdcFill d line (mt == 2) (cellsRead s0.mem (line * 64) 64) s0
    let y := rdcGet s1 d line
    let s2 := if unit < 5 then vecSet c (line / 8) (alloc s1) else s1
    (s2, (span 0 n).map (fun i => nth 0 y.bytes (pa % 64 + i)))

/-- The bytes of an outstanding fill that a load of n bytes merges into (R60): its cache misses on them, and no invalidation has passed the fill. -/
def mergesInto (c unit mt pa n : Nat) (s : State) : Option (List Byte) :=
  let d := c / 64
  let line := pa / 64
  let fills := (getDie s d).fills.filter (fun f => f.line == line && !f.invalidated)
  if fills.isEmpty || mt == 1 then none
  else
    let home := homeDie pa == d && decide (pa < 2 ^ 47)
    let x := rdcGet s d line
    let hit := if home then decide (unit < 5) && bit (aget 0 (getCluster s c).filter line) unit
      else x.filled || (span 0 n).all (fun i => bit x.mask (pa % 64 + i))
    if hit then none
    else (fills.find? (fun f => if home then !f.forRdc && f.cluster == c && f.unit == unit else f.forRdc)).map (fun f =>
      (span 0 n).map (fun i => if !home && bit x.mask (pa % 64 + i) then nth 0 x.bytes (pa % 64 + i) else nth 0 f.bytes (pa % 64 + i)))

/-- The value a load by an agent of die d finds, without any effect on caches. -/
def peekBytes (d mt pa n : Nat) (s : State) : List Byte :=
  let x := rdcGet s d (pa / 64)
  (span pa n).map (fun a =>
    if mt != 1 && (homeDie pa != d || decide (2 ^ 47 ≤ pa)) && (x.filled || bit x.mask (a % 64)) then nth 0 x.bytes (a % 64) else cellGet s.mem a)

/-- An atomic at the home (R57, R61): the requesting die's dirty bytes go first, then every pull; the old value of n bytes, and the store of the new. -/
def homeAtomicOp (d pa n : Nat) (f : Nat → Nat) (s : State) : State × Nat :=
  let line := pa / 64
  let s1 := pullLine line (writebackAfter d line (answerHeld line (makeRoom (line / 8) s)))
  let old := leNat (cellsRead s1.mem pa n)
  (homeUpdate line (withAddrs pa (leBytes n (f old))) .other s1, old)

/-- Every dirty byte of a die's remote-data cache written home (R46 item 1). -/
def drainRdc (d : Nat) (s : State) : State :=
  ((getDie s d).rdc.filter (fun p => p.2.mask != 0)).foldl (fun s p => writebackAfter d p.1 s) s

/-- The dirty lines of a die whose writeback the host has to answer first. -/
def unanswered (s : State) (d : Nat) : List Nat := ((getDie s d).rdc.filter (fun p => p.2.mask != 0 && asksHost s p.1)).map (·.1)

/-- A miss of an L1 (5 for none) of cluster c, for a line that comes through its die's remote-data cache where `forRdc`: the request reaches the home, which
notes the holder and sends the line (R52, R60). -/
def openFill (c unit : Nat) (forRdc stream : Bool) (line : Nat) (s : State) : State :=
  let d := c / 64
  let s1 := answerHeld line (makeRoom (line / 8) s)
  let f : Fill := { line, forRdc, cluster := c, unit, stream, bytes := cellsRead s1.mem (line * 64) 64 }
  let s2 := updDir (line / 8) (fun e => if forRdc then { e with rdcp := setBit e.rdcp d true, stream } else { e with cl := setBit e.cl (c % 64) true, stream }) s1
  post c (.fillReturn d line) (updDie d (fun x => { x with fills := x.fills ++ [f] }) s2)

/-- An arrived fill installed, unless an invalidation has passed it (R60). -/
def installFill (d : Nat) (f : Fill) (s : State) : State :=
  if f.invalidated then s
  else if f.forRdc then
    let s1 := rdcFill d f.line f.stream f.bytes s
    if f.unit < 5 then vecSet f.cluster (f.line / 8) (filterAdd f.cluster f.line f.unit s1) else s1
  else if f.unit < 5 then filterAdd f.cluster f.line f.unit s else s

/-- The new value of an atomic operation on n bytes (R217): operation, old, operand, and the new value of a compare-and-swap. -/
def atomicNew (op n old d x : Nat) : Nat :=
  let w := 8 * n
  let lt := sgn w old < sgn w d
  match op with
  | 0 => (old + d) % 2 ^ w
  | 1 => if lt then old else d
  | 2 => if lt then d else old
  | 3 => if old < d then old else d
  | 4 => if old < d then d else old
  | 5 => old &&& d
  | 6 => old ||| d
  | 7 => old ^^^ d
  | 8 => d
  | 9 => if old = d then x else old
  | 10 => (faddE .fp32 .rne old d).1
  | 11 => (fminmaxE .fp32 false old d).1
  | _ => (fminmaxE .fp32 true old d).1

end Sys2Proof.Machine
end

