-- ==== Sys2Proof/Machine/Xlat.lean ====
section
/-! DEFINITION. Translation: the checks of R12, the heap window, the walk, the TLBs, the physical targets; fault service (R340, R341, R371); and the
accesses that the device makes for a context (R388). -/

namespace Sys2Proof.Machine

/-- Kinds of access (R12, R21). -/
inductive Acc where
  | read | write | fetch
deriving DecidableEq, Repr, Inhabited

/-- A physical target: local memory with its memory type, or a peer's (R13, R14). -/
inductive Target where
  | loc (pa mt : Nat)
  | fab (dev pa : Nat)
deriving DecidableEq, Repr, Inhabited

/-- What the checks of R12 answer: a target; a cause of R333, with MAL; PFAULT; or a miss, whose walk the access waits for (R28, R29). -/
inductive Xl where
  | ok (t : Target)
  | trap (cause : Nat) (mal : Bool)
  | pfault
  | miss
deriving DecidableEq, Repr, Inhabited

/-- A request to the translation: `engine` for traffic that may leave the load-and-store domain (R49, R228, R230); `unit` the L1 TLB it uses (0 to 3 a
carriage's, 4 to 7 a cart group's, 8 none); `now` where the walk is made within the step (log 61). -/
structure XReq where
  ctx : Nat
  cluster : Nat
  h : Bool
  acc : Acc
  va : W64
  size : Nat
  engine : Bool := false
  unit : Nat := 8
  now : Bool := false
deriving DecidableEq, Repr, Inhabited

/-! ### Cause codes of R333 -/

def cILLOP := 1
def cILLCHAIN := 2
def cILLEXEC := 3
def cUNIFORM := 4
def cMEMBER := 5
def cALIGN := 6
def cNONCANON := 7
def cPFAULT := 8
def cPROT := 9
def cREMOTE := 10
def cLEASE := 11
def cSPMETA := 12
def cQSEQ := 13
def cSHADEORDER := 14
def cCBERR := 15
def cORDSPILL := 16
def cBKPT := 17
def cSYSC := 18
def cFPE := 19

/-! ### The heap window (R17, R18) -/

/-- The window's triple as integers: base and the limit in bytes. -/
def winBase (x : Ctx) : Int := sgn 64 (x.hwinBase.toNat / 65536 * 65536)
def winLimit (x : Ctx) : Int := (x.hwinLimit.toNat / 65536 % 2 ^ 36 * 65536 : Nat)

/-- translate_window of R18. -/
def winXlat (x : Ctx) (va : W64) : Nat := (va.toNat + x.hwinOff.toNat / 65536 * 65536) % 2 ^ 48

/-- valid_triple of R18. -/
def winValid (x : Ctx) : Bool :=
  let last := BitVec.ofNat 64 (wrap 64 (winBase x + winLimit x - 1))
  let base := BitVec.ofNat 64 (wrap 64 (winBase x))
  canonical base && decide (0 < winLimit x) && canonical last && (fld last 52 12 == fld base 52 12) &&
    decide (winXlat x base + (winLimit x).toNat ≤ 2 ^ 39)

/-- Wholly inside, partly inside or outside the window (R12 check 3, R18). -/
inductive InWin where
  | inside | part | outside
deriving DecidableEq, Repr

def inWindow (x : Ctx) (va : W64) (size : Nat) : InWin :=
  let a := sgn 64 va.toNat
  if !bit x.hwinBase 0 then .outside
  else if winBase x ≤ a ∧ a + size ≤ winBase x + winLimit x then .inside
  else if a < winBase x + winLimit x ∧ winBase x < a + size then .part
  else .outside

/-! ### The walk (R19 to R25) -/

/-- How a walk ends. -/
inductive Walk where
  | leaf (level pteAddr : Nat) (pte : W64)
  | absent (level pteAddr : Nat) (pte : W64)
  | bad (mal : Bool)
deriving DecidableEq, Repr, Inhabited

/-- Bits of an entry (R21). -/
def pteV (e : W64) : Bool := bit e 0
def pteL (e : W64) : Bool := bit e 1
def pteW (e : W64) : Bool := bit e 2
def pteX (e : W64) : Bool := bit e 3
def pteP (e : W64) : Bool := bit e 4
def pteA (e : W64) : Bool := bit e 5
def pteD (e : W64) : Bool := bit e 6
def pteG (e : W64) : Bool := bit e 7
def pteMT (e : W64) : Nat := (fld e 8 2).toNat
def pteFab (e : W64) : Bool := bit e 62
def pteDev (e : W64) : Nat := (fld e 48 14).toNat

/-- The walk from a level's table; the first argument is one more than the level. It also returns the pointer entries met. -/
def walkFrom (s : State) (va : Nat) : Nat → Nat → Walk × List (Nat × Nat × W64)
  | 0, _ => (.bad true, [])
  | n + 1, table =>
    let a := table + va / 2 ^ (16 + 9 * n) % 512 * 8
    if !inPackage s table || poisoned s a then (.bad false, [])
    else
      let e : W64 := BitVec.ofNat 64 (leNat (cellsRead s.mem a 8))
      if !pteV e then (.absent n a e, [])
      else if pteL e then (if n = 3 || pteMT e = 3 then .bad true else .leaf n a e, [])
      else
        let r := walkFrom s va n (e.toNat / 4096 % 2 ^ 36 * 4096)
        if n = 0 then (.bad true, []) else (r.1, (n, a, e) :: r.2)

/-- Size of a page at a level. -/
def pageBits (level : Nat) : Nat := 16 + 9 * level

/-- The walk of an address in a context, from a cached pointer where the walk cache of the die holds one and the choice falls on it (R26, R27). -/
def walkVa (s : State) (ctx die : Nat) (va : Nat) : State × Walk × List (Nat × Nat × W64) :=
  let x := getCtx s ctx
  let fresh := walkFrom s va 4 (x.ptbase.toNat / 4096 % 2 ^ 36 * 4096)
  let hits := (getDie s die).wcache.filter (fun e => e.ctxid == x.ctxid && e.va == va / 2 ^ pageBits e.level)
  match least (hits.map (·.level)) with
  | none => (s, fresh)
  | some l =>
    match hits.find? (fun e => e.level == l) with
    | none => (s, fresh)
    | some e =>
      let cached := walkFrom s va l (e.pte.toNat / 4096 % 2 ^ 36 * 4096)
      if cached.1 = fresh.1 then (s, fresh)
      else ({ s with free := s.free + 1 }, if Config.pick s.free then cached else fresh)

/-- The physical target of a leaf for an address (R21). -/
def leafTarget (s : State) (level : Nat) (pte : W64) (va : Nat) : Target :=
  let b := pageBits level
  let pa := pte.toNat % 2 ^ 48 / 2 ^ b * 2 ^ b + va % 2 ^ b
  if pteFab pte then (if pteDev pte = s.boot.devIdx.toNat then .loc pa 1 else .fab (pteDev pte) pa)
  else .loc pa (pteMT pte)

/-- Check 6 of R12: leaf permissions. -/
def leafAllows (pte : W64) (q : XReq) : Bool :=
  (!pteP pte || q.h) && (match q.acc with | .read => true | .write => pteW pte | .fetch => pteX pte && !pteFab pte)

/-- Device indices below this one name packages of the scale-up domain; those from it on are gateway entries (R367). -/
def gatewayBase : Nat := 9216

/-- A device index names another package: one of the domain that discovery found, or a gateway entry of the configuration record (R367). -/
def devKnown (s : State) (dev : Nat) : Bool :=
  if dev < gatewayBase then s.boot.scopeTab.any (fun r => r.dev == dev) else s.boot.gateways.any (fun g => g.1 == dev - gatewayBase)

/-- The device lies in this package's load-and-store domain (R94, R367). -/
def inDomain (s : State) (dev : Nat) : Bool := decide (dev < gatewayBase) && (decide (dev = s.boot.devIdx.toNat) || devKnown s dev)

/-- DIST of R94. -/
def distOf (s : State) (dev : Nat) : Nat :=
  if dev = s.boot.devIdx.toNat then 0
  else if !devKnown s dev then 15
  else match s.boot.scopeTab.find? (fun r => r.dev == dev) with | some r => r.dist.toNat | none => 15

/-- The access under way has been refused by its peer, or not acknowledged (R368). -/
def farFailed (s : State) (dev pa : Nat) (read : Bool) : Bool :=
  s.answers.any (fun a => a.agent == agentOf s && a.dev == dev && a.pa == pa && !a.ok && (a.kind == 0) == read)

/-- Check 7 of R12; an access that its agent has made already, and that failed, ends with REMOTE (R368). -/
def reach (s : State) (q : XReq) : Target → Xl
  | .loc pa mt => if exists_ s pa then .ok (.loc pa mt) else .trap cPROT false
  | .fab dev pa => if devKnown s dev && (q.engine || inDomain s dev) && !farFailed s dev pa (q.acc == .read) then .ok (.fab dev pa) else .trap cREMOTE false

/-! ### TLBs (R26) -/

/-- The same page of the same context. -/
def samePage (x y : TlbEntry) : Bool := x.level == y.level && x.va == y.va && x.ctxid == y.ctxid

/-- An entry put into an L2 TLB of 2048 entries, 8-way (R26): the oldest of a full set goes (log 61). -/
def tlbPut (e : TlbEntry) (l : List TlbEntry) : List TlbEntry :=
  let rest := l.filter (fun x => !samePage x e)
  let keep := (rest.filter (fun x => x.va % 256 == e.va % 256)).take 7
  e :: rest.filter (fun x => x.va % 256 != e.va % 256 || keep.contains x)

/-- An entry put into an L1 TLB: 64 entries on a carriage, 32 in a cart group (R26). -/
def l1Put (unit : Nat) (e : TlbEntry) (l : List (Nat × TlbEntry)) : List (Nat × TlbEntry) :=
  if 8 ≤ unit then l
  else (unit, e) :: ((l.filter (fun p => p.1 == unit && !samePage p.2 e)).take (if unit < 4 then 63 else 31) ++ l.filter (fun p => p.1 != unit))

/-- Insert a leaf into the TLBs that a request uses, and the pointers of its walk into the die's walk cache. -/
def tlbFill (q : XReq) (level pteAddr : Nat) (pte : W64) (ptrs : List (Nat × Nat × W64)) (s : State) : State :=
  let va := q.va.toNat % 2 ^ 52
  let id := (getCtx s q.ctx).ctxid
  let e : TlbEntry := { ctxid := id, glob := pteG pte, va := va / 2 ^ pageBits level, level, pteAddr, pte }
  let s1 := updCluster q.cluster (fun c => { c with tlb := tlbPut e c.tlb, l1tlb := l1Put q.unit e c.l1tlb }) s
  ptrs.foldl (fun s p =>
    let w : TlbEntry := { ctxid := id, glob := false, va := va / 2 ^ pageBits p.1, level := p.1, pteAddr := p.2.1, pte := p.2.2 }
    updDie (q.cluster / 64) (fun d => { d with wcache := (w :: d.wcache.filter (fun x => !samePage x w)).take 1024 }) s) s1

/-- The cached leaf that a request finds: in its L1 TLB, else in the cluster's L2 TLB. -/
def tlbHit (q : XReq) (s : State) : Option TlbEntry :=
  let va := q.va.toNat % 2 ^ 52
  let id := (getCtx s q.ctx).ctxid
  let fits (e : TlbEntry) : Bool := (e.glob || e.ctxid == id) && e.va == va / 2 ^ pageBits e.level
  let c := getCluster s q.cluster
  ((c.l1tlb.find? (fun p => p.1 == q.unit && fits p.2)).map (·.2)).or (c.tlb.find? fits)

/-- A translation that was used is discarded (R27). -/
def tlbDrop (cluster : Nat) (e : TlbEntry) (s : State) : State :=
  updCluster cluster (fun c => { c with tlb := c.tlb.filter (fun x => !samePage x e), l1tlb := c.l1tlb.filter (fun p => !samePage p.2 e) }) s

/-! ### Walks (R25 to R29) -/

/-- The walk of an address from the root of its context's tables. -/
def walkRoot (s : State) (q : XReq) : Walk × List (Nat × Nat × W64) :=
  walkFrom s (q.va.toNat % 2 ^ 52) 4 ((getCtx s q.ctx).ptbase.toNat / 4096 % 2 ^ 36 * 4096)

/-- Use of a walk: permissions, then A and D by a compare-and-swap at the home (R25). A failed compare starts again from the root, and so does a walk from a
cached pointer that denies the access (R27). The first argument bounds the repeats: each failed compare has pulled a dirty line home. -/
def xlatWalk (q : XReq) : Nat → Bool → State → State × Xl
  | 0, _, s => (s, .pfault)
  | n + 1, root, s =>
    let va := q.va.toNat % 2 ^ 52
    let r := if root then (s, walkRoot s q) else walkVa s q.ctx (q.cluster / 64) va
    match r.2.1 with
    | .bad mal => (r.1, .trap cPROT mal)
    | .absent _ _ _ => (r.1, .pfault)
    | .leaf level a pte =>
      if !leafAllows pte q then
        (if !root && r.2.1 != (walkRoot r.1 q).1
         then xlatWalk q n true (updDie (q.cluster / 64) (fun d => { d with wcache := d.wcache.filter (fun e => !(e.ctxid == (getCtx s q.ctx).ctxid && e.va == va / 2 ^ pageBits e.level)) }) r.1)
         else (r.1, .trap cPROT false))
      else
        match reach r.1 q (leafTarget r.1 level pte va) with
        | .ok t =>
          let pte' : W64 := BitVec.ofNat 64 (pte.toNat ||| 32 ||| (if q.acc = .write then 64 else 0))
          if pte' = pte then (tlbFill q level a pte r.2.2 r.1, .ok t)
          else
            let u := homeAtomicOp (homeDie a) a 8 (fun old => if old = pte.toNat then pte'.toNat else old) r.1
            if u.2 = pte.toNat then (tlbFill q level a pte' r.2.2 u.1, .ok t) else xlatWalk q n true u.1
        | bad => (r.1, bad)

/-- A bound on the walks of one request: the dirty lines of the package, and two more. -/
def walkBound (s : State) : Nat := (s.dies.map (fun p => (p.2.rdc.filter (fun x => x.2.mask != 0)).length)).sum + 3

/-- A walk made within the step. -/
def walkNow (q : XReq) (s : State) : State × Xl := xlatWalk q (walkBound s) false s

/-- Those who wait for a miss, with others. -/
def joinWaits (xs : List (Nat × Agent)) (m : Miss) : Miss := { m with waits := m.waits ++ xs.filter (fun x => !m.waits.contains x) }

/-- A miss that waits for a walker (R28, R29): it joins the one of its context and granule, at the die or in its cluster; else it takes a place of the cluster's L2
miss table of 64, or is held at its unit while that is full. -/
def queueMiss (m : Miss) (s : State) : State :=
  let d := m.cluster / 64
  let same (x : Miss) : Bool := x.ctx == m.ctx && x.granule == m.granule
  let join (l : List Miss) : List Miss := l.map (fun y => if same y then joinWaits m.waits y else y)
  if (getDie s d).misses.any same then updDie d (fun x => { x with misses := join x.misses }) s
  else if (getCluster s m.cluster).missq.any same then updCluster m.cluster (fun c => { c with missq := join c.missq }) s
  else if 64 ≤ (getCluster s m.cluster).missq.length then s
  else post d .pageWalk (updCluster m.cluster (fun c => { c with missq := c.missq ++ [m] }) s)

/-- Events that wait for a walk or a fault service are tried again (R388). -/
def unstall (s : State) : State := { s with agenda := s.agenda ++ s.stalled, stalled := [] }

/-- An event that must be tried again when a fault service ends. -/
def stall (site : Nat) (e : Instr) (s : State) : State := { s with stalled := s.stalled ++ [(site, e)] }

/-- An event that looks at what there is to do, and so need not wait twice. -/
def stallOnce (site : Nat) (e : Instr) (s : State) : State := if s.stalled.contains (site, e) then s else stall site e s

/-- The kind of a miss. -/
def missKind : Acc → Nat
  | .read => 0
  | .write => 1
  | .fetch => 2

/-- A request that no TLB serves: the walk, where it is made at once or its agent has waited for it; else the request waits for it. -/
def xlatMiss (q : XReq) (s : State) : State × Xl :=
  let granule := q.va.toNat % 2 ^ 52 / 65536
  if q.now || s.walked.contains (agentOf s, q.ctx, granule) then walkNow q s
  else (queueMiss { ctx := q.ctx, granule, kind := missKind q.acc, cluster := q.cluster, h := q.h, waits := [(q.cluster, agentOf s)] } s, .miss)

/-- Outside the window: a cached translation where it serves and either equals the tables' or is chosen (R27, R32); one that denies the access, or that a write
finds with D = 0, is walked again (R25, R27). -/
def xlatTables (q : XReq) (s : State) : State × Xl :=
  let va := q.va.toNat % 2 ^ 52
  match tlbHit q s with
  | none => xlatMiss q s
  | some e =>
    if !leafAllows e.pte q then xlatMiss q (tlbDrop q.cluster e s)
    else if q.acc == .write && !pteD e.pte then xlatMiss q s
    else
      let use (s : State) : State × Xl :=
        (updCluster q.cluster (fun c => { c with l1tlb := l1Put q.unit e c.l1tlb }) s, reach s q (leafTarget s e.level e.pte va))
      if (walkRoot s q).1 == .leaf e.level e.pteAddr e.pte then use s
      else
        let s1 := { s with free := s.free + 1 }
        if Config.pick s.free then use s1 else xlatMiss q (tlbDrop q.cluster e s1)

/-- The checks of R12 in their order. -/
def xlat (q : XReq) (s : State) : State × Xl :=
  let x := getCtx s q.ctx
  if q.size != 0 && q.va.toNat % q.size != 0 then (s, .trap cALIGN false)
  else if !canonical q.va || !canonical (q.va + BitVec.ofNat 64 (q.size - 1)) then (s, .trap cNONCANON false)
  else
    match inWindow x q.va q.size with
    | .part => (s, .trap cPROT false)
    | .inside => if q.acc = .fetch then (s, .trap cPROT false) else (s, reach s q (.loc (winXlat x q.va) 0))
    | .outside => xlatTables q s

/-! ### Trace events (R376) -/

/-- A release at .sys by a service core (R46, R362): every dirty byte of its die written home. -/
def sysRelease (d : Nat) (s : State) : State := drainRdc d s

/-- One 16-byte event at the ring, if there is room: the entry, then the tail raised as a release at .sys (R362). -/
def chronoPut (d : Nat) (src kind data : Nat) (s : State) : State × Bool :=
  let r := (getDie s d).regs
  let logn := r.chrbase.toNat / 2 % 32
  if 2 ^ logn ≤ (r.chrtail - r.chrhead).toNat then (s, false)
  else
    let v := s.clock % 2 ^ 64 * 2 ^ 64 + d * 2 ^ 62 + src * 2 ^ 55 + kind * 2 ^ 48 + data % 2 ^ 48
    let a := r.chrbase.toNat / 4096 % 2 ^ 36 * 4096 + 16 * (r.chrtail.toNat % 2 ^ logn)
    let s1 := if exists_ s a then storeBytes (d * 64) 5 0 a (leBytes 16 v) s else s
    let s2 := updDie d (fun x => { x with regs := { x.regs with chrtail := x.regs.chrtail + 1 } }) (sysRelease d s1)
    (if (r.chrtail + 1 - r.chrhead).toNat = 2 ^ logn / 2 then { s2 with msix := (8 * d + 4) :: s2.msix } else s2, true)

/-- A trace event of a die: dropped and counted where the ring is full; a drop count goes before the next that finds room, where its kind is
enabled; until then the count stands. -/
def chrono (d src kind data : Nat) (s : State) : State :=
  let r := (getDie s d).regs
  if !bit r.chrbase 0 || !bit r.chrctl kind then s
  else
    let s1 := if r.chrdrop = 0 || !bit r.chrctl 8 then (s, true) else chronoPut d src 8 r.chrdrop s
    let s2 := if s1.2 && r.chrdrop != 0 && bit r.chrctl 8 then updDie d (fun x => { x with regs := { x.regs with chrdrop := 0 } }) s1.1 else s1.1
    let s3 := if s1.2 then chronoPut d src kind data s2 else (s2, false)
    if s3.2 then s3.1 else updDie d (fun x => { x with regs := { x.regs with chrdrop := x.regs.chrdrop + 1 } }) s3.1

/-! ### Fault service (R340, R341, R371) -/

/-- The 16-byte page request of R341. -/
def reqBytes (q : PageReq) : List Byte :=
  leBytes 16 (q.granule % 2 ^ 36 * 2 ^ 92 + q.ctxid.toNat / 65536 % 4096 * 2 ^ 80 + q.ctxid.toNat % 65536 * 2 ^ 64 + q.tag % 65536 * 2 ^ 48
    + q.kind * 2 ^ 46)

/-- Post the held requests of a die in order, while the queue is enabled and has room (R360): the entry, then the tail raised as a release at .sys, then the vector
(R362). -/
def postReqs (d : Nat) : List PageReq → State → State
  | [], s => s
  | q :: rest, s =>
    if q.posted then postReqs d rest s
    else
      let r := (getDie s d).regs
      let logn := r.prqbase.toNat / 2 % 32
      if !bit r.prqbase 0 || decide (2 ^ logn ≤ (r.prqtail - r.prqhead).toNat) then s
      else
        let a := r.prqbase.toNat / 4096 % 2 ^ 36 * 4096 + 16 * (r.prqtail.toNat % 2 ^ logn)
        let s1 := if exists_ s a then storeBytes (d * 64) 5 0 a (reqBytes q) s else s
        let s2 := updDie d (fun x => { x with
          regs := { x.regs with prqtail := x.regs.prqtail + 1 }
          reqs := if q.kind = 3 then x.reqs.filter (fun y => y != q) else x.reqs.map (fun y => if y == q then { y with posted := true } else y) }) (sysRelease d s1)
        postReqs d rest (chrono d 65 6 (q.granule * 65536) { s2 with msix := (8 * d) :: s2.msix })

/-- A tag of a die that no outstanding request of it carries. -/
def freshTag (d : Die) (die : Nat) : Nat → Nat → Nat
  | 0, k => die * 16384 + k % 16384
  | n + 1, k => if d.reqs.any (fun q => q.tag == die * 16384 + k % 16384 && q.kind != 3) then freshTag d die n (k + 1) else die * 16384 + k % 16384

/-- One page request per context and page (R28, R341): the tag of the one outstanding, or of a new one, posted when the queue allows. -/
def requestPage (d ctx granule kind : Nat) (s : State) : State × Nat :=
  let x := getDie s d
  match x.reqs.find? (fun q => q.ctx == ctx && q.granule == granule && q.answer.isNone && q.kind != 3) with
  | some q => (s, q.tag)
  | none =>
    let tag := freshTag x d 16384 x.nextTag
    let q : PageReq := { tag, ctxid := (getCtx s ctx).ctxid, ctx, granule, kind, posted := false }
    let s1 := updDie d (fun y => { y with reqs := y.reqs.filter (fun r => r.tag != tag || r.kind == 3) ++ [q], nextTag := (tag + 1) % 16384 }) s
    (postReqs d (getDie s1 d).reqs s1, tag)

/-- What the fault service says at once. -/
inductive Serve where
  /-- a copy is under way, or the page has just become present: wait and walk again -/
  | copying
  /-- host-assisted: the request's tag -/
  | asked (tag : Nat)
  /-- restartable PFAULT (R340) -/
  | unresolved
  /-- PROT with MAL (R340, R386) -/
  | malformed
deriving DecidableEq, Repr, Inhabited

/-- An 8-byte word of package memory read by the service core, after every pull (R47). -/
def coreRead (a : Nat) (s : State) : State × Nat :=
  let s1 := pullLine (a / 64) (answerHeld (a / 64) s)
  (s1, leNat (cellsRead s1.mem a 8))

/-- A frame of the context's pool (R371), taken by raising HEAD. -/
def takeFrame (die ctx : Nat) (s : State) : State × Option Nat :=
  let id := (getCtx s ctx).ctxid.toNat / 65536 % 4096
  let e := coreRead (s.regs.pooltab.toNat / 4096 % 2 ^ 36 * 4096 + 8 * id) s
  let ring := e.2 / 64 % 2 ^ 42 * 64
  let logn := e.2 / 2 % 32
  if e.2 % 2 = 0 then (e.1, none)
  else
    let hd := coreRead ring e.1
    let tl := coreRead (ring + 8) hd.1
    if hd.2 = tl.2 then (tl.1, none)
    else
      let f := coreRead (ring + 64 + 8 * (hd.2 % 2 ^ logn)) tl.1
      ((homeAtomicOp die ring 8 (fun old => if old = hd.2 then (old + 1) % 2 ^ 64 else old) f.1).1, some (f.2 / 65536 % 2 ^ 32 * 65536))

/-- Fault service of a granule of a context that a walk on a die found not present (R340, R341). Kind: 0 read, 1 write, 2 fetch. -/
def serve (die ctx granule kind : Nat) (s : State) : State × Serve :=
  let x := getCtx s ctx
  if bit x.ptbase 0 then
    let r := requestPage die ctx granule kind s
    (r.1, .asked r.2)
  else if (getDie s die).copies.any (fun c => c.ctx == ctx && c.granule == granule) then (s, .copying)
  else
    match (walkFrom s (granule * 65536 % 2 ^ 52) 4 (x.ptbase.toNat / 4096 % 2 ^ 36 * 4096)).1 with
    | .absent 0 a pte =>
      if !bit pte 1 then (s, .unresolved)
      else
        let spn := pte.toNat / 65536 % 2 ^ 32 * 65536
        if !(inTier2 s spn) || pteMT pte = 3 then (s, .malformed)
        else
          let f := takeFrame die ctx s
          match f.2 with
          | none => (f.1, .unresolved)
          | some frame =>
            (post die .pageCopyDone (updDie die (fun d => { d with copies := d.copies ++
              [{ ctx, granule, pteAddr := a, pte, frame }] }) f.1), .copying)
    | .bad _ => (s, .malformed)
    | .absent _ _ _ => (s, .unresolved)
    | .leaf _ _ _ => (s, .copying)

/-! ### Accesses that the device makes for a context (R388) -/

/-- How a device access ends: done, waiting for a fault service, or failed finally with a cause. -/
inductive Dev (α : Type) where
  | done (x : α)
  | wait
  | fail (cause : Nat)
deriving DecidableEq, Repr, Inhabited

/-- Translation of a device access of `cluster`, served under R388 where the page is absent. -/
def devXlat (ctx cluster : Nat) (h : Bool) (acc : Acc) (va : W64) (size : Nat) (s : State) : State × Dev Target :=
  let r := xlat { ctx, cluster, h, acc, va, size, engine := true } s
  match r.2 with
  | .ok (.loc pa mt) => if acc = .read && poisoned r.1 pa then (r.1, .fail cPROT) else (r.1, .done (.loc pa mt))
  | .ok t => (r.1, .done t)
  | .trap c _ => (r.1, .fail c)
  | .miss => (r.1, .wait)
  | .pfault =>
    let granule := va.toNat % 2 ^ 52 / 65536
    let kind := match acc with | .read => 0 | .write => 1 | .fetch => 2
    -- an answer that has come with FAIL = 1 ends every access that waited for it (R388)
    if (getDie r.1 (cluster / 64)).reqs.any (fun q => q.ctx == ctx && q.granule == granule && q.devs.contains (agentOf s) && q.answer == some true)
    then (r.1, .fail cPFAULT)
    else
      let v := serve (cluster / 64) ctx granule kind r.1
      match v.2 with
      | .copying => (v.1, .wait)
      | .asked tag => (updDie (cluster / 64) (fun d => { d with reqs := d.reqs.map (fun y =>
          if y.tag == tag && y.kind != 3 && !y.devs.contains (agentOf s) then { y with devs := agentOf s :: y.devs } else y) }) v.1, .wait)
      | .unresolved => (v.1, .fail cPFAULT)
      | .malformed => (v.1, .fail cPROT)

/-- The pieces of n bytes from an address that lie in one line each: address and length. -/
def linePieces (pa n : Nat) : List (Nat × Nat) :=
  (span 0 (n / 64 + 2)).filterMap (fun i =>
    let lo := if i = 0 then pa else (pa / 64 + i) * 64
    let hi := (pa / 64 + i + 1) * 64
    let hi := if pa + n < hi then pa + n else hi
    if lo < hi then some (lo, hi - lo) else none)

/-- A load, LDV or atomic of the target traps PROT: its line is poisoned (R372). -/
def targetPoisoned (s : State) : Target → Bool
  | .loc pa _ => poisoned s pa
  | .fab _ _ => false

/-- The lines of package memory that a store of n bytes changes at their home at once, and whose region the host may hold (R45, R63). -/
def hostLines (s : State) (cluster : Nat) (t : Target) (n : Nat) : List Nat :=
  match t with
  | .loc pa mt => ((linePieces pa n).map (fun p => p.1 / 64)).filter (fun l => decide (l * 64 < 2 ^ 47) && storesHome s (cluster / 64) mt (l * 64) && asksHost s l)
  | .fab _ _ => []

/-- The host is asked for lines. -/
def askHost (ls : List Nat) (s : State) : State := ls.foldl (fun s l => post l .backInvalidationAnswer s) s

/-- A release at .pkg that the device makes (R46): every dirty byte of the dies written back, once the host has answered for their lines (R63); whether it is done. -/
def devRelease (ds : List Nat) (s : State) : State × Bool :=
  let ls := ds.flatMap (unanswered s)
  if ls.isEmpty then (ds.foldl (fun s d => drainRdc d s) s, true) else (askHost ls s, false)

/-- An access of n bytes to a peer by what is under way: it goes out, and takes effect once the peer has acknowledged it (R49, R368). Of several, the first that has not
been acknowledged goes out. -/
def needFar (dev pa n kind : Nat) (s : State) : State :=
  if s.answers.any (fun a => a.agent == agentOf s && a.dev == dev && a.pa == pa && a.n == n && a.kind == kind && a.ok) then s
  else if s.asks.any (fun a => match a with | .far _ _ _ _ => true | .host _ => false) then s
  else { s with asks := s.asks ++ [.far dev pa n kind] }

/-- Bytes of a physical target read by an engine of a cluster. -/
def readTarget (cluster : Nat) (t : Target) (n : Nat) (s : State) : State × List Byte :=
  match t with
  | .loc pa mt => (linePieces pa n).foldl (fun r p => let q := loadBytes cluster 5 mt p.1 p.2 r.1; (q.1, r.2 ++ q.2)) (s, [])
  | .fab dev pa => (needFar dev pa n 0 s, cellsRead s.peer (dev * 2 ^ 48 + pa) n)

/-- Bytes of a physical target written by an engine of a cluster. -/
def writeTarget (cluster : Nat) (t : Target) (bs : List Byte) (s : State) : State :=
  match t with
  | .loc pa mt => (linePieces pa bs.length).foldl (fun s p => storeBytes cluster 5 mt p.1 ((bs.drop (p.1 - pa)).take p.2) s) s
  | .fab dev pa => needFar dev pa bs.length 1 { s with peer := cellsWrite s.peer (dev * 2 ^ 48 + pa) bs }

/-- Lines that a write at the home changes and whose region the host may hold (R63). -/
def askedHome (s : State) (t : Target) (n : Nat) : List Nat :=
  match t with
  | .loc pa _ => ((linePieces pa n).map (fun p => p.1 / 64)).filter (fun l => decide (l * 64 < 2 ^ 47) && asksHost s l)
  | .fab _ _ => []

/-- Bytes of a physical target written at their home at once, so that every die finds them there. -/
def writeHome (t : Target) (bs : List Byte) (s : State) : State :=
  match t with
  | .loc pa _ => (linePieces pa bs.length).foldl (fun s p =>
      let x := (bs.drop (p.1 - pa)).take p.2
      if 2 ^ 47 ≤ p.1 then homeUpdate (p.1 / 64) (withAddrs p.1 x) .other s else homeStoreBytes .other true p.1 x s) s
  | .fab dev pa => needFar dev pa bs.length 1 { s with peer := cellsWrite s.peer (dev * 2 ^ 48 + pa) bs }

/-- An atomic on a physical target of n bytes: the old value. -/
def atomTarget (cluster : Nat) (t : Target) (n : Nat) (f : Nat → Nat) (s : State) : State × Nat :=
  match t with
  | .loc pa _ => homeAtomicOp (cluster / 64) pa n f s
  | .fab dev pa =>
    let a := dev * 2 ^ 48 + pa
    let old := leNat (cellsRead s.peer a n)
    (needFar dev pa n 2 { s with peer := cellsWrite s.peer a (leBytes n (f old)) }, old)

/-- A device read of n bytes, n a power of two up to 64 that divides the address, or any n within a naturally aligned 4 KiB granule. -/
def devRead (ctx cluster : Nat) (h : Bool) (va : W64) (n : Nat) (s : State) : State × Dev (List Byte) :=
  let r := devXlat ctx cluster h .read va 1 s
  match r.2 with
  | .done t => let q := readTarget cluster t n r.1; (q.1, .done q.2)
  | .wait => (r.1, .wait)
  | .fail c => (r.1, .fail c)

/-- A device read of n pieces of k bytes each, one after another. -/
def devReads (ctx cluster : Nat) (h : Bool) (k : Nat) : Nat → W64 → State → State × Dev (List Byte)
  | 0, _, s => (s, .done [])
  | n + 1, va, s =>
    let r := devRead ctx cluster h va k s
    match r.2 with
    | .done b =>
      let q := devReads ctx cluster h k n (va + BitVec.ofNat 64 k) r.1
      match q.2 with
      | .done bs => (q.1, .done (b ++ bs))
      | e => (q.1, e)
    | e => (r.1, e)

/-- A device write. -/
def devWrite (ctx cluster : Nat) (h : Bool) (va : W64) (bs : List Byte) (s : State) : State × Dev Unit :=
  let r := devXlat ctx cluster h .write va 1 s
  match r.2 with
  | .done t =>
    let ls := hostLines r.1 cluster t bs.length
    if ls.isEmpty then (writeTarget cluster t bs r.1, .done ()) else (askHost ls r.1, .wait)
  | .wait => (r.1, .wait)
  | .fail c => (r.1, .fail c)

/-- A device write performed at the home. -/
def devWriteHome (ctx cluster : Nat) (h : Bool) (va : W64) (bs : List Byte) (s : State) : State × Dev Unit :=
  let r := devXlat ctx cluster h .write va 1 s
  match r.2 with
  | .done t => if (askedHome r.1 t bs.length).isEmpty then (writeHome t bs r.1, .done ()) else (askHost (askedHome r.1 t bs.length) r.1, .wait)
  | .wait => (r.1, .wait)
  | .fail c => (r.1, .fail c)

/-- A device atomic. -/
def devAtomic (ctx cluster : Nat) (h : Bool) (va : W64) (n : Nat) (f : Nat → Nat) (s : State) : State × Dev Nat :=
  let r := devXlat ctx cluster h .write va n s
  match r.2 with
  | .done t =>
    if targetPoisoned r.1 t then (r.1, .fail cPROT)
    else
    let ls := match t with | .loc pa _ => if asksHost r.1 (pa / 64) then [pa / 64] else [] | .fab _ _ => []
    if ls.isEmpty then (let q := atomTarget cluster t n f r.1; (q.1, .done q.2)) else (askHost ls r.1, .wait)
  | .wait => (r.1, .wait)
  | .fail c => (r.1, .fail c)

end Sys2Proof.Machine
end

