-- ==== Sys2Proof/Machine/Ops.lean ====
section
/-! DEFINITION. The named operations over lanes, waves and registers; supervisor messages; taking a trap, per lane and converged, and the return from
one (R135 to R147, R331 to R346, R355). -/

namespace Sys2Proof.Machine

/-! ### The issuing subgroup -/

/-- The wave that issues. -/
def curWave (s : State) : Wave := (s.waves.find? (fun w => w.id == s.cur.1)).getD default

/-- The lane belongs to the issuing subgroup: Ready, in the slot that issues. -/
def issuing (slot : Nat) (l : Lane) : Bool := l.st == .ready && l.slot == slot

/-- The active lanes of the issuing subgroup, ascending. -/
def active (s : State) : List Lane := (curWave s).lanes.filter (issuing s.cur.2)

/-- Bit of a mask register for a lane; m0 reads all ones (R142). -/
def mBit (w : Wave) (k lane : Nat) : Bool := k == 0 || bit (nth 0 w.m k) lane

/-- A mask register's value; m0 reads all ones. -/
def mGet (w : Wave) (k : Nat) : Mask := if k = 0 then BitVec.allOnes 128 else nth 0 w.m k

/-- The guard selects the lane (R159). -/
def selects (w : Wave) (g : BitVec 4) (n : Bool) (l : Lane) : Bool := mBit w g.toNat l.id != n

/-- The selected lanes of the issuing subgroup. -/
def selected (s : State) (g : BitVec 4) (n : Bool) : List Lane := (active s).filter (selects (curWave s) g n)

def wGet (w : Wave) (k : Nat) : W64 := nth 0 w.w k
def vGet (l : Lane) (k : Nat) : W32 := nth 0 l.v k
def mbGet (w : Wave) (k : Nat) : W64 := nth 0 w.mb k

def updCur (f : Wave → Wave) (s : State) : State := updWave s.cur.1 f s

/-! ### Attempts that have to ask first (R52, R63, R368) -/

/-- The agent still waits for what it has asked for: a lane of the subgroup is Waiting, the event is to be tried again, the lane's part of the entry is logged,
the work or the grid is there. -/
def agentWaits (s : State) : Agent → Bool
  | .lanes k slot => s.waves.any (fun w => w.id == k && w.lanes.any (fun l => l.slot == slot && (match l.st with | .waiting _ => true | _ => false)))
  | .event site e => s.agenda.contains (site, e) || s.stalled.contains (site, e)
  | .part k idx i => s.waves.any (fun w => w.id == k && w.log.any (fun e => e.1 == idx && e.2.lanes.any (fun p => p.lane == i)))
  | .work ctx die tcb => s.tcbWork.any (fun w => w.ctx == ctx && w.die == die && w.tcb == tcb)
  | .grid id => s.grids.any (fun g => g.id == id)

/-- What an agent has waited for is forgotten, once it has no use for it any more. -/
def endAgent (a : Agent) (s : State) : State :=
  if agentWaits s a then s
  else { s with
    answers := s.answers.filter (fun x => x.agent != a)
    walked := s.walked.filter (fun x => x.1 != a)
    dies := s.dies.map (fun d => (d.1, { d.2 with reqs := d.2.reqs.map (fun q => { q with devs := q.devs.filter (· != a) }) })) }

/-- One request of an attempt sent out, unless it is on its way already: a back-invalidation to the host, or an access to a peer. -/
def askOne (a : Ask) (s : State) : State :=
  match a with
  | .host line => if s.agenda.contains (line, .backInvalidationAnswer) then s else post line .backInvalidationAnswer s
  | .far dev pa n kind =>
    let me := agentOf s
    if s.remote.any (fun r => r.agent == some me && r.dev == dev && r.pa == pa && r.n == n && r.kind == kind) then s
    else
      let w := curWave s
      let who : List (Nat × Nat) := if s.doing.isSome then [] else (w.lanes.filter (issuing s.cur.2)).map (fun l => (w.id, l.id))
      { s with remote := s.remote ++ [{ ctx := if s.doing.isSome then 0 else w.ctx, who, cluster := w.cluster, log := none, dev, pa, va := 0, pc := 0, bytes := []
                                        agent := some me, n, kind }] }

/-- Every request of an attempt sent out. -/
def askAll (asks : List Ask) (s : State) : State := asks.foldl (fun s a => askOne a s) s

/-- Work that is done within a step by an agent of its own, and whether it is done: where it had to ask first, the requests alone. -/
def attemptAs (a : Agent) (f : State → State × Bool) (s : State) : State × Bool :=
  let t := f { s with doing := some a, asks := [] }
  if t.1.asks.isEmpty then (if t.2 then endAgent a { t.1 with doing := s.doing, asks := s.asks } else { t.1 with doing := s.doing, asks := s.asks }, t.2)
  else ({ askAll t.1.asks { s with doing := some a } with doing := s.doing }, false)

/-- The outcome of an event: its effect, or, where it had to ask first, the requests alone, and the event tried again: after the host's answers, or once a peer has
answered. -/
def commitEvent (site : Nat) (e : Instr) (before after : State) : State :=
  if after.asks.isEmpty then endAgent (.event site e) after
  else
    let s := askAll after.asks before
    if after.asks.all (fun a => match a with | .host _ => true | .far _ _ _ _ => false) then post site e s else stallOnce site e s

/-- Change the lanes of the issuing subgroup. -/
def mapActive (f : Lane → Lane) (s : State) : State :=
  updCur (fun w => { w with lanes := w.lanes.map (fun l => if issuing s.cur.2 l then f l else l) }) s

/-- Change the lanes of the issuing wave with one of the given numbers. -/
def mapLanes (ids : List Nat) (f : Lane → Lane) (s : State) : State :=
  updCur (fun w => { w with lanes := w.lanes.map (fun l => if ids.contains l.id then f l else l) }) s

/-- Change lanes of any wave. -/
def mapLanesOf (k : Nat) (ids : List Nat) (f : Lane → Lane) (s : State) : State :=
  updWave k (fun w => { w with lanes := w.lanes.map (fun l => if ids.contains l.id then f l else l) }) s

def setW (k : Nat) (x : W64) (s : State) : State := updCur (fun w => { w with w := setNth x w.w k }) s
def setMb (k : Nat) (x : W64) (s : State) : State := updCur (fun w => { w with mb := setNth x w.mb k }) s
def setV (k : Nat) (x : W32) (l : Lane) : Lane := { l with v := setNth x l.v k }

/-- Bits of a mask register written for some lanes; a write to m0 is ignored (R142). -/
def setM (k : Nat) (bits : List (Nat × Bool)) (s : State) : State :=
  if k = 0 then s
  else updCur (fun w => { w with m := setNth (bits.foldl (fun m p => setBit m p.1 p.2) (nth 0 w.m k)) w.m k }) s

/-- A whole mask register written by the device. -/
def putM (k : Nat) (x : Mask) (s : State) : State := updCur (fun w => { w with m := setNth x w.m k }) s

/-- The mask with the given bits. -/
def maskOf (ids : List Nat) : Mask := ids.foldl (fun m i => setBit m i true) 0

/-- The packet of a PC (R154, R155). -/
def packetOf (pc : W64) : W64 := pc - BitVec.ofNat 64 (pc.toNat % 16)

/-- The PC of the issuing subgroup: that of its lowest lane. -/
def curPc (s : State) : W64 := match active s with | l :: _ => l.pc | [] => 0

/-- The first word of the chain in issue (R157): TEPC of the traps that name the chain (R333). -/
def chainStart (s : State) : W64 := match active s with | l :: _ => l.chainPc.getD l.pc | [] => 0

/-- The issuing subgroup moves past n words (R155). -/
def advance (n : Nat) (s : State) : State := mapActive (fun l => { l with pc := l.pc + BitVec.ofNat 64 (4 * n) }) s

/-- The issuing subgroup waits at its instruction. -/
def waitHere (why : Wait) (s : State) : State := mapActive (fun l => { l with st := .waiting why }) s

/-- The outcome of what a subgroup does: its effect, or, where it had to ask first, the requests alone, and the subgroup waits at its instruction. -/
def commitIssue (before after : State) : State :=
  if after.asks.isEmpty then endAgent (agentOf before) after else waitHere .retry (askAll after.asks before)

/-- The issuing subgroup is in the middle of an operation that a pre-emption lets run to completion (R347). -/
def midOp (s : State) : State := mapActive (fun l => { l with opPc := some l.pc }) s

/-- The lane counts for the rules of its wave: it is not Exited. -/
def alive (l : Lane) : Bool := l.st != .exited

/-- The lane may run in its subgroup slot (R136, R144): Parked, Overflowed and Exited lanes do not. -/
def slotted (l : Lane) : Bool := alive l && l.st != .overflowed && l.st != .parked

/-- Subgroup slots that a lane of the wave holds: a Parked one leaves its own when its meeting merges (R143 item 2). -/
def heldSlots (w : Wave) : List Nat := (w.lanes.filter (fun l => alive l && l.st != .overflowed)).map (·.slot)

/-- The free subgroup slots, ascending. -/
def freeSlots (w : Wave) : List Nat := (span 0 16).filter (fun k => !(heldSlots w).contains k)

/-- The different values of a list, in order of first appearance. -/
def distinct (l : List W64) : List W64 := l.foldl (fun acc x => if acc.contains x then acc else acc ++ [x]) []

/-- Groups of a split, in order of their lowest lane: the first keeps the slot, the others take free slots, the rest overflow (R144 items 1 to 3). -/
def placeGroups (slot : Nat) (keep : Bool) : List W64 → List Nat → List (W64 × Option Nat)
  | [], _ => []
  | p :: r, free =>
    if keep then (p, some slot) :: placeGroups slot false r free
    else match free with
      | f :: fs => (p, some f) :: placeGroups slot false r fs
      | [] => (p, none) :: placeGroups slot false r []

/-- A number past those of a wave's Overflowed groups. -/
def freshOver (w : Wave) : Nat := w.lanes.foldl (fun n l => Nat.max n (l.ovGroup + 1)) 0

/-- The Ready lanes of a slot grouped by their PCs (R144). -/
def regroupIn (slot : Nat) (w : Wave) : Wave :=
  let pcs := distinct ((w.lanes.filter (issuing slot)).map (·.pc))
  if pcs.length < 2 then w
  else
    let place := placeGroups slot true pcs (freeSlots w)
    { w with lanes := w.lanes.map (fun l =>
      if issuing slot l then (match place.find? (fun p => p.1 == l.pc) with
        | some (_, some k) => { l with slot := k }
        | _ => { l with st := .overflowed, ovGroup := freshOver w + pcs.findIdx (· == l.pc) }) else l) }

/-- The issuing subgroup's lanes grouped by their PCs. -/
def regroup (s : State) : State := updCur (regroupIn s.cur.2) s

/-! ### Trap registers (R331 to R334) -/

/-- Lane state codes of R350. -/
def stateCode (l : Lane) : Nat :=
  match l.st with
  | .ready => if l.h then 5 else 1
  | .waiting _ => 2
  | .parked => 3
  | .overflowed => 4
  | .fpParked => 6
  | .exited => 7

/-- TCAUSE as a trap writes it (R332): PH, CONV, SSLOT and SSTATE beside the trap's own marks. -/
def tcauseWord (t : LaneTrap) (ph conv : Bool) (sslot sstate : Nat) : W64 :=
  BitVec.ofNat 64 (t.nr.toNat * 2 ^ 63 + t.eh.toNat * 2 ^ 62 + conv.toNat * 2 ^ 61 + ph.toNat * 2 ^ 60 + t.mal.toNat * 2 ^ 59
    + (match t.log with | some k => 2 ^ 58 + k % 4 * 2 ^ 56 | none => 0)
    + sslot % 16 * 2 ^ 52 + sstate % 16 * 2 ^ 48 + t.eop % 128 * 2 ^ 40 + t.efn % 16 * 2 ^ 32
    + (match t.ptag with | some g => g % 65536 * 2 ^ 16 + 2 ^ 15 | none => 0) + t.code % 256)

/-- Fields of TCAUSE. -/
def tcNR (x : W64) : Bool := bit x 63
def tcCONV (x : W64) : Bool := bit x 61
def tcPH (x : W64) : Bool := bit x 60
def tcLOGV (x : W64) : Bool := bit x 58
def tcLOG (x : W64) : Nat := (fld x 56 2).toNat
def tcSSLOT (x : W64) : Nat := (fld x 52 4).toNat
def tcSSTATE (x : W64) : Nat := (fld x 48 4).toNat
def tcPTAG (x : W64) : Nat := (fld x 16 16).toNat
def tcPTV (x : W64) : Bool := bit x 15

/-- The handler's packet address, if TVEC names one (R334). -/
def handlerPc (s : State) (ctx : Nat) : Option W64 :=
  let v := (getCtx s ctx).tvec.toNat % 2 ^ 52 / 16 * 16
  if v = 0 then none else some (canon52 v)

/-- The lane is in the middle of a chain, or of an operation that a pre-emption lets run to completion (R347). -/
def midway (l : Lane) : Bool := l.chainPc.isSome || l.opPc == some l.pc

/-- A lane takes a trap, in R331's order: the trap registers, PH, H, and the PC. -/
def enterHandler (pc : W64) (t : LaneTrap) (conv : Bool) (sslot sstate : Nat) (l : Lane) : Lane :=
  { l with
    tcause := tcauseWord t l.h conv sslot sstate
    tval := t.tval
    tepc := t.tepc
    targ := t.targ
    h := true
    pc := pc
    chainPc := none
    opPc := none
    st := .ready }

/-! ### Lanes that exit (R205) -/

/-- The instruction only reads memory, so that an exited lane's part of it is discarded (R205). -/
def onlyLoads : Instr → Bool
  | .ld _ => true
  | .ldv _ => true
  | .gather _ => true
  | .tex _ _ => true
  | .texg _ _ => true
  | .ibox _ _ => true
  | .itri _ _ => true
  | _ => false

/-- Lanes of wave k become Exited (R205): their outstanding loads are discarded, and their other logged accesses are performed as soon as they can be. -/
def exitLanes (k : Nat) (ids : List Nat) (s : State) : State :=
  let left (e : LogEntry) : List LogLane :=
    if onlyLoads e.ins then e.lanes.filter (fun x => !ids.contains x.lane)
    else e.lanes.map (fun x => if ids.contains x.lane then { x with trapped := false } else x)
  updWave k (fun w => { w with
    lanes := w.lanes.map (fun l => if ids.contains l.id then { l with st := .exited } else l)
    log := (w.log.map (fun e => (e.1, { e.2 with lanes := left e.2 }))).filter (fun e => !e.2.lanes.isEmpty) }) s

/-! ### Supervisor messages (R344, R345) -/

/-- Bits [191:0] of a message. -/
def msgBits (w : Wave) (lane : Nat) (code flags : Nat) (tval pc : W64) : Nat :=
  tval.toNat * 2 ^ 128 + flags % 32 * 2 ^ 110 + code % 256 * 2 ^ 102 + lane % 128 * 2 ^ 95
    + (w.cart.toNat * 256 + w.unit % 16 * 16 + w.slot % 16) * 2 ^ 86 + w.cluster % 256 * 2 ^ 78 + pc.toNat

/-- SUPV.EN of a context. -/
def supvOn (s : State) (ctx : Nat) : Bool := bit (getCtx s ctx).supv 0

/-- How a post ends: the address of the message; no room or a fault being served, try again; or a final failure. -/
inductive Posted where
  | at (addr : W64)
  | later
  | failed
deriving DecidableEq, Repr, Inhabited

/-- One attempt to post: room, the message, then TAIL with .rel at .pkg (R345). -/
def postMsg (ctx cluster msg : Nat) (s : State) : State × Posted :=
  let x := (getCtx s ctx).supv
  let ring : W64 := canon52 (x.toNat % 2 ^ 52 / 64 * 64)
  let logn := (fld x 2 4).toNat
  let tl := devRead ctx cluster false ring 8 s
  let hd := devRead ctx cluster false (ring + 8) 8 tl.1
  match tl.2, hd.2 with
  | .done a, .done b =>
    let tail := leNat a
    if 2 ^ logn ≤ (tail + 2 ^ 64 - leNat b) % 2 ^ 64 then (hd.1, .later)
    else
      let addr := ring + BitVec.ofNat 64 (64 + 32 * (tail % 2 ^ logn))
      let p := devWrite ctx cluster false addr (leBytes 32 msg) hd.1
      match p.2 with
      | .done _ =>
        let f := devRelease [cluster / 64] p.1
        if !f.2 then (f.1, .later)
        else
          let q := devAtomic ctx cluster false ring 8 (fun old => (old + 1) % 2 ^ 64) f.1
          match q.2 with
          | .done _ => (q.1, .at addr)
          | .wait => (q.1, .later)
          | .fail _ => (q.1, .failed)
      | .wait => (p.1, .later)
      | .fail _ => (p.1, .failed)
  | .wait, _ => (hd.1, .later)
  | _, .wait => (hd.1, .later)
  | _, _ => (hd.1, .failed)

/-- The lane that posted goes on (R334, R345, R346): it exits; or it is FP-parked with TARG the address of its ACTION word, the message's bytes 24 to 31. A
failed post leaves TARG 0: its FP_PARK_ACTION takes the trap. -/
def afterPost (p : Post) (r : Posted) (s : State) : State :=
  match p.lane, p.after with
  | some (k, i), .exit => exitLanes k [i] s
  | some (k, i), .park =>
    match r with
    | .at a => mapLanesOf k [i] (fun l => { l with targ := a + 24 }) s
    | _ => post k .fpParkAction s
  | _, _ => s

/-- Post a message, at once or as soon as there is room; the posting lane keeps its state meanwhile (R345). -/
def postOrQueue (p : Post) (s : State) : State :=
  let r := postMsg p.ctx p.cluster p.msg s
  if r.1.asks.length != s.asks.length then { s with posts := s.posts ++ [p] }
  else match r.2 with
  | .later => { r.1 with posts := r.1.posts ++ [p] }
  | _ => afterPost p r.2 r.1

/-- LANE, WAVE and CL of a message, for a lane of a wave. -/
def laneBits (w : Wave) (lane : Nat) : Nat :=
  lane % 128 * 2 ^ 95 + (w.cart.toNat * 256 + w.unit % 16 * 16 + w.slot % 16) * 2 ^ 86 + w.cluster % 256 * 2 ^ 78

/-- The message of R388 for a device access that failed finally, made on behalf of a lane; `who` is 0 where there is none. -/
def devFailFor (who ctx cluster cause : Nat) (addr : W64) (s : State) : State :=
  if supvOn s ctx
  then postOrQueue { ctx, cluster, msg := addr.toNat * 2 ^ 128 + cause % 256 * 2 ^ 102 + who } s else s

/-- The message of R388 for an access made on behalf of no lane. -/
def devFailMsg (ctx cluster cause : Nat) (addr : W64) (s : State) : State := devFailFor 0 ctx cluster cause addr s

/-! ### Taking traps (R334, R336, R337, R338) -/

/-- FLAGS of the message for a trap (R345): the raised flags of FPE. -/
def fpeFlags (t : LaneTrap) : Nat := if t.code = cFPE then t.tval.toNat else 0

/-- Trapping lanes of a wave without a handler exit, each posting its message first (R334). -/
def exitTrapped (w : Wave) (ts : List (Nat × LaneTrap)) (s : State) : State :=
  ts.foldl (fun s t =>
    if supvOn s w.ctx
    then postOrQueue { ctx := w.ctx, cluster := w.cluster, lane := some (w.id, t.1), after := .exit,
                       msg := msgBits w t.1 t.2.code (fpeFlags t.2) t.2.tval t.2.tepc }
      (mapLanesOf w.id [t.1] (fun l => { l with st := .waiting .posting }) s)
    else exitLanes w.id [t.1] s) s

/-- The trap of a lane by number. -/
def trapOf (ts : List (Nat × LaneTrap)) (i : Nat) : Option LaneTrap := (ts.find? (fun t => t.1 == i)).map (·.2)

/-- The lane joins a converged fallback (R337): Handler and FP-parked lanes do not, unless they trapped. -/
def joins (ts : List (Nat × LaneTrap)) (l : Lane) : Bool :=
  (trapOf ts l.id).isSome || (match l.st with
    | .ready => !l.h
    | .waiting _ => !l.h
    | .parked => true
    | .overflowed => true
    | _ => false)

/-- The converged fallback of wave k (R337), with the lanes that trapped; inside a converged handler it halts the wave (R338). -/
def converged (k : Nat) (ts : List (Nat × LaneTrap)) (s : State) : State :=
  match s.waves.find? (fun w => w.id == k) with
  | none => s
  | some w =>
    let low := match ts with | t :: _ => t | [] => (0, { code := 0 })
    let s0 := chrono (w.cluster / 64) (w.cluster % 64) 2 low.2.tepc.toNat s
    if w.lanes.any (fun l => alive l && tcCONV l.tcause) then
      let s1 := updWave k (fun w => { w with halted := true }) s0
      if supvOn s1 w.ctx
      then postOrQueue { ctx := w.ctx, cluster := w.cluster, msg := msgBits w low.1 low.2.code (fpeFlags low.2) (low.2.tval ||| BitVec.ofNat 64 (2 ^ 63)) low.2.tepc } s1
      else s1
    else
      let mask := maskOf (ts.map (·.1))
      match handlerPc s0 w.ctx with
      | none =>
        let s1 := updWave k (fun w => { w with m := setNth mask w.m 15 }) (exitLanes k (ts.map (·.1)) s0)
        if supvOn s1 w.ctx
        then postOrQueue { ctx := w.ctx, cluster := w.cluster, msg := msgBits w low.1 low.2.code (fpeFlags low.2) low.2.tval low.2.tepc } s1 else s1
      | some pc =>
        let held := (w.lanes.filter (fun l => slotted l && !joins ts l)).map (·.slot)
        let slot := nth 0 ((span 0 16).filter (fun i => !held.contains i)) 0
        updWave k (fun w => { w with
          m := setNth mask w.m 15
          lanes := w.lanes.map (fun l =>
            if joins ts l then
              { enterHandler pc ((trapOf ts l.id).getD { code := 0, tepc := l.pc }) true l.slot (stateCode l) l with slot := slot, before := l.st }
            else if alive l then { l with held := true } else l) }) s0

/-- Lanes of one subgroup of wave k trap, each with its own cause (R336): they form one subgroup at TVEC, in a free slot, or in their own slot if all of its
lanes trap; with no slot free the wave takes the converged fallback. -/
def takeTrapsOf (k : Nat) (ts : List (Nat × LaneTrap)) (s : State) : State :=
  if ts.isEmpty then s
  else
    match s.waves.find? (fun w => w.id == k) with
    | none => s
    | some w =>
      match handlerPc s w.ctx with
      | none => exitTrapped w ts (chrono (w.cluster / 64) (w.cluster % 64) 2 (match ts with | t :: _ => t.2.tepc.toNat | [] => 0) s)
      | some pc =>
          let ids := ts.map (·.1)
          let first := w.lanes.find? (fun l => ids.contains l.id)
          let old := match first with | some l => l.slot | none => 0
          let rest := first.any (fun l => l.st == .overflowed) ||
            w.lanes.any (fun l => slotted l && l.st != .fpParked && l.slot == old && !ids.contains l.id)
          let dest : Option Nat := if rest then (freeSlots w).head? else some old
          match dest with
          | none => converged k ts s
          | some slot =>
            let low := match ts with | t :: _ => t.2.tepc.toNat | [] => 0
            mapLanesOf k ids (fun l => match trapOf ts l.id with
              | some t => { enterHandler pc t false 0 0 l with slot := slot }
              | none => l) (chrono (w.cluster / 64) (w.cluster % 64) 2 low s)

/-- Traps of lanes of the issuing subgroup. -/
def takeTraps (ts : List (Nat × LaneTrap)) (s : State) : State := takeTrapsOf s.cur.1 ts s

/-- Traps under R337: every lane given traps in the converged fallback of the issuing wave. On a cart it is the thread's ordinary trap with CONV = 1
and m15 = 1. -/
def takeConverged (ts : List (Nat × LaneTrap)) (s : State) : State := if ts.isEmpty then s else converged s.cur.1 ts s

/-- The same trap in every selected lane, converged. -/
def convergeAll (ls : List Lane) (t : Lane → LaneTrap) (s : State) : State := takeConverged (ls.map (fun l => (l.id, t l))) s

/-! ### Enabled floating exceptions (R124, R346) -/

/-- A lane with a v or m destination raises an enabled exception: it parks and posts where SUPV.EN = 1, else it traps FPE. -/
def takeFpe (fs : List (Nat × BitVec 5)) (tepc : W64) (s : State) : State :=
  if fs.isEmpty then s
  else
    let w := curWave s
    if supvOn s w.ctx then
      fs.foldl (fun s f =>
        postOrQueue { ctx := w.ctx, cluster := w.cluster, lane := some (w.id, f.1), after := .park,
                      msg := msgBits w f.1 cFPE f.2.toNat (BitVec.ofNat 64 f.2.toNat) tepc }
          (mapLanesOf w.id [f.1] (fun l => { l with st := .fpParked, pc := tepc, targ := 0, fpe := f.2 }) s)) s
    else takeTraps (fs.map (fun f => (f.1, { code := cFPE, tval := BitVec.ofNat 64 f.2.toNat, tepc := tepc }))) s

/-! ### Return (R355) -/

/-- TCAUSE as an ordinary return leaves it (R355): PTV is 0, and LOGV where it asked for a replay, with NR = 0. -/
def tcauseBack (x : W64) : W64 := BitVec.ofNat 64 (x.toNat &&& (2 ^ 64 - 1 - (if tcNR x then 0 else 2 ^ 58) - 2 ^ 15))

/-- A lane leaves the ordinary handler (R355): its PC is all of TEPC, of which a value that is no multiple of 4 names the word that holds it: DESIGN CHOICE (log 86). -/
def returnLane (l : Lane) : Lane := { l with h := tcPH l.tcause, pc := l.tepc, tcause := tcauseBack l.tcause }

/-- The state that a lane state code names (R337), keeping the reason a lane waited for. Handler, 5, is Ready with the H that PH gives; a
code that software wrote and that names no state of a filled lane (0 and 8 to 15) gives Ready too: DESIGN CHOICE (log 80). -/
def stateOfCode (before : LaneSt) (c : Nat) : LaneSt :=
  match c with
  | 2 => match before with | .waiting .accept => .waiting .retry | .waiting w => .waiting w | _ => .waiting .retry
  | 3 => .parked
  | 4 => .overflowed
  | 6 => .fpParked
  | 7 => .exited
  | _ => .ready

/-- A lane leaves the converged handler. -/
def returnConverged (l : Lane) : Lane :=
  { l with
    st := stateOfCode l.before (tcSSTATE l.tcause)
    slot := tcSSLOT l.tcause
    h := tcPH l.tcause
    pc := l.tepc
    tcause := BitVec.ofNat 64 (l.tcause.toNat &&& (2 ^ 64 - 1 - 2 ^ 61 - 2 ^ 58 - 2 ^ 15)) }

/-! ### Completion -/

/-- A next state. -/
abbrev Out := Host.Outcome State Fault Refusal

/-- The outcome of a meaning, with what follows a step applied to a next state. -/
def andThen (f : State → State) : Host.Outcome State Fault Refusal → Host.Outcome State Fault Refusal
  | .next s => .next (f s)
  | .fault e => .fault e
  | .refused r => .refused r

end Sys2Proof.Machine
end

