-- ==== Sys2Proof/Machine/Flags.lean ====
section
/-! DEFINITION. The floating flags of a lane: raising them, and the exceptions that a lane has enabled (R123, R124, R176). -/

namespace Sys2Proof.Machine

/-- The flags raised in a lane that its FPEN enables; none in an execution under ACTION 1 (R346). -/
def enabledIn (l : Lane) (f : Flags) : Bool := !l.noFpe && f &&& l.fpen != 0

/-- The lane's FPFLAGS with further flags ORed in. -/
def raise (f : Flags) (l : Lane) : Lane := { l with fpflags := l.fpflags ||| f }

/-- The lanes of a list, each with its flags, in which an enabled exception was raised. -/
def fpeLanes (rs : List (Lane × Flags)) : List (Nat × Flags) := (rs.filter (fun r => enabledIn r.1 r.2)).map (fun r => (r.1.id, r.2))

end Sys2Proof.Machine
end

