-- ==== Sys2Proof/Machine/Operands.lean ====
section
/-! DEFINITION. Operand forms: the one record that every arithmetic form is normalised to (R164), reading sources and writing destinations (R174, R175,
R186), and element placement (R116). -/

namespace Sys2Proof.Machine

/-- An arithmetic instruction in its long form (R164): registers and classes, an immediate in place of B where there is one, and its length in words. -/
structure Rec where
  g : BitVec 4 := 0
  n : Bool := false
  d : Nat := 0
  kd : Cls := .v
  a : Nat := 0
  ka : Cls := .v
  b : Nat := 0
  kb : Cls := .v
  c : Nat := 0
  kc : Cls := .v
  imm : Option Int := none
  rm : Rm := .rne
  ty : Nat := 0
  md : Nat := 0
  words : Nat := 2
  /-- the bit that must be 0 in the layout -/
  zero : Bool := false
deriving DecidableEq, Repr, Inhabited

def recXR (o : XR) : Rec :=
  { g := o.h.g, n := o.h.n, d := o.h.d.toNat, kd := o.kd, a := o.h.a.toNat, ka := o.ka, b := o.h.b.toNat, kb := o.kb, c := o.rc.toNat, kc := o.kc,
    rm := o.rm, ty := o.ty.toNat, md := o.md.toNat, words := 2, zero := o.h.x }

def recXI (o : XI) : Rec :=
  let k : Cls := if o.k then .w else .v
  { g := o.g, n := o.n, d := o.d.toNat, kd := k, a := o.a.toNat, ka := k, imm := some (sgn 32 o.imm.toNat), words := 2 }

def recAlu : Alu → Rec
  | .xr o => recXR o
  | .xi o => recXI o

/-- The one-word RG form; `acc` for MAD and FFMA, whose C is D (R164). -/
def recRG (acc : Bool) (o : RG) : Rec :=
  { g := o.g, n := o.n, d := o.d.toNat, a := o.a.toNat, b := o.b.toNat, kb := if o.x then .w else .v, c := if acc then o.d.toNat else 0, words := 1 }

def recIM (o : IM) : Rec :=
  let k : Cls := if o.k then .w else .v
  { d := o.d.toNat, kd := k, a := o.a.toNat, ka := k, imm := some (sgn 11 o.imm.toNat), words := 1 }

def recIW (o : IW) : Rec :=
  let k : Cls := if o.k then .w else .v
  { d := o.d.toNat, kd := k, ka := k, imm := some (sgn 17 o.imm.toNat), words := 1 }

/-! ### Sources (R174) -/

/-- val(F, K, W) of R174: a v register, a v pair, a w register's low bits. -/
def srcVal (w : Wave) (l : Lane) (width : Nat) (k : Cls) (f : Nat) : Nat :=
  match k with
  | .v => if width = 64 then (vGet l (f + 1)).toNat * 2 ^ 32 + (vGet l f).toNat else (vGet l f).toNat
  | .w => (wGet w f).toNat % 2 ^ width
  | .m => (mBit w f l.id).toNat
  | .mb => (mbGet w f).toNat % 2 ^ width

def aVal (r : Rec) (w : Wave) (l : Lane) (width : Nat) : Nat := srcVal w l width r.ka r.a
def bVal (r : Rec) (w : Wave) (l : Lane) (width : Nat) : Nat :=
  match r.imm with | some i => wrap width i | none => srcVal w l width r.kb r.b
def cVal (r : Rec) (w : Wave) (l : Lane) (width : Nat) : Nat := srcVal w l width r.kc r.c

/-- W of R174, CMP aside. -/
def widthOf (r : Rec) : Nat := if r.ty = 6 || r.kd == .w then 64 else 32

/-! ### Destinations -/

/-- put(D, x, W) into v registers (R174). -/
def putV (d width x : Nat) : List (Nat × W32) :=
  if width = 64 then [(d, BitVec.ofNat 32 x), (d + 1, BitVec.ofNat 32 (x / 2 ^ 32))] else [(d, BitVec.ofNat 32 x)]

/-- A list of register writes in a lane. -/
def writeVs (ws : List (Nat × W32)) (l : Lane) : Lane := ws.foldl (fun l p => setV p.1 p.2 l) l

/-- An instruction with a v destination (R176): in each selected lane its writes and flags, and FPE in the lanes where an enabled flag is raised. -/
def vResult (g : BitVec 4) (n : Bool) (words : Nat) (f : Wave → Lane → List (Nat × W32) × Flags) (s : State) : State :=
  let w := curWave s
  let pc := curPc s
  let rs := (selected s g n).map (fun l => (l, f w l))
  let fs := fpeLanes (rs.map (fun r => (r.1, r.2.2)))
  let s1 := mapActive (fun l =>
    if selects w g n l && !(fs.any (fun p => p.1 == l.id)) then let r := f w l; raise r.2 (writeVs r.1 l) else l) s
  takeFpe fs pc (advance words s1)

/-- An instruction with a w destination (R176): once, if a lane is selected; its flags go to every selected lane; an enabled exception takes the converged
fallback and writes nothing. -/
def wResult (g : BitVec 4) (n : Bool) (words d : Nat) (f : Wave → Lane → W64 × Flags) (s : State) : State :=
  let w := curWave s
  let pc := curPc s
  match selected s g n with
  | [] => advance words s
  | l :: r =>
    let x := f w l
    let fs := fpeLanes ((l :: r).map (fun k => (k, x.2)))
    if fs.isEmpty then advance words (mapActive (fun k => if selects w g n k then raise x.2 k else k) (setW d x.1 s))
    else takeConverged (fs.map (fun p => (p.1, { code := cFPE, tval := BitVec.ofNat 64 p.2.toNat, tepc := pc }))) s

/-- An instruction with an m destination of one bit per lane (R142, R176, R183). -/
def mResult (g : BitVec 4) (n : Bool) (words d : Nat) (f : Wave → Lane → Bool × Flags) (s : State) : State :=
  let w := curWave s
  let pc := curPc s
  let rs := (selected s g n).map (fun l => (l, f w l))
  let fs := fpeLanes (rs.map (fun r => (r.1, r.2.2)))
  let ok := rs.filter (fun r => !(fs.any (fun p => p.1 == r.1.id)))
  let s1 := setM d (ok.map (fun r => (r.1.id, r.2.1))) s
  let s2 := mapActive (fun l => match ok.find? (fun r => r.1.id == l.id) with | some r => raise r.2.2 l | none => l) s1
  takeFpe fs pc (advance words s2)

/-- A result of W bits into a v register, a v pair or a w register. -/
def putResult (r : Rec) (f : Wave → Lane → Nat × Flags) (s : State) : State :=
  match r.kd with
  | .w => wResult r.g r.n r.words r.d (fun w l => let x := f w l; (BitVec.ofNat 64 x.1, x.2)) s
  | _ => vResult r.g r.n r.words (fun w l => let x := f w l; (putV r.d (widthOf r) x.1, x.2)) s

/-- The integer functions (R178 to R182): a, b and c at width W give a result, which is wrapped. -/
def intResult (r : Rec) (f : Nat → Nat → Nat → Nat → Int) (s : State) : State :=
  let width := widthOf r
  putResult r (fun w l => (wrap width (f width (aVal r w l width) (bVal r w l width) (cVal r w l width)), 0)) s

/-! ### Elements (R116, R175) -/

/-- Element j of width b of a word. -/
def elem (b j : Nat) (x : W32) : Nat := x.toNat / 2 ^ (b * j) % 2 ^ b

/-- The word whose elements of width b are given, element 0 lowest. -/
def packElems (b : Nat) (es : List Nat) : W32 := BitVec.ofNat 32 (es.reverse.foldl (fun acc e => acc * 2 ^ b + e % 2 ^ b) 0)

/-- The float type of a TY code (R163). -/
def fmtOfTy (ty : Nat) : Fmt := match ty with | 2 => .fp16 | 3 => .bf16 | 4 => .e4m3 | 5 => .e5m2 | _ => .fp32

/-- A source word of a floating or packed function: a v register, a w register's low word, or the immediate. -/
def word32 (w : Wave) (l : Lane) (k : Cls) (f : Nat) : W32 := BitVec.ofNat 32 (srcVal w l 32 k f)

def bWord (r : Rec) (w : Wave) (l : Lane) : W32 := BitVec.ofNat 32 (bVal r w l 32)

/-- An element-wise floating function of one word (R187): each element rounded once, the lane taking the union of the flags. -/
def floatResult (r : Rec) (f : Fmt → Nat → Nat → Nat → Nat × Flags) (s : State) : State :=
  let fm := fmtOfTy r.ty
  let b := fm.width
  let val : Wave → Lane → W32 × Flags := fun w l =>
    let x := word32 w l r.ka r.a
    let y := bWord r w l
    let z := word32 w l r.kc r.c
    let es := (span 0 (32 / b)).map (fun j => f fm (elem b j x) (elem b j y) (elem b j z))
    (packElems b (es.map (·.1)), es.foldl (fun fl e => fl ||| e.2) 0)
  match r.kd with
  | .w => wResult r.g r.n r.words r.d (fun w l => let x := val w l; (BitVec.ofNat 64 x.1.toNat, x.2)) s
  | _ => vResult r.g r.n r.words (fun w l => let x := val w l; ([(r.d, x.1)], x.2)) s

end Sys2Proof.Machine
end

