-- ==== Sys2Proof/Machine/Access.lean ====
section
/-! DEFINITION. How an access instruction executes (R90, R165, R208 to R219, R228, R339 to R342): addresses, checks, performing one lane's access, and
what happens to the lanes that fault, wait or trap. -/

namespace Sys2Proof.Machine

/-- What an access does at its address. -/
inductive MKind where
  | load (sx : Bool)
  | view (fmt : BitVec 3)
  | store
  | atom (op : Nat)
  | atomo
  | stc
deriving DecidableEq, Repr, Inhabited

/-- The access that a memory instruction makes. -/
def memKind : Instr → Option (MKind × MA)
  | .ld o => some (.load (bit o.opx 0), o)
  | .st o => some (.store, o)
  | .ldv o => some (.view (fld o.opx 0 3), o)
  | .gather o => some (.load (bit o.opx 0), o)
  | .scatter o => some (.store, o)
  | .ldlm o => some (.load (bit o.opx 0), o)
  | .stlm o => some (.store, o)
  | .lmbc o => some (.store, o)
  | .atom o => some (.atom o.opx.toNat, o)
  | .atomo o => some (.atomo, o)
  | .stc o => some (.stc, o)
  | _ => none

/-- The data register is a w register: X = 1 (R208). -/
def dataW (o : MA) : Bool := o.h.x

/-- Access size in bytes. -/
def accSize (o : MA) : Nat := 2 ^ o.sz.toNat

/-- The kind of check an access needs (R12). -/
def accOf : MKind → Acc
  | .load _ => .read
  | .view _ => .read
  | _ => .write

/-- The index of R165. -/
def indexOf (o : MA) (w : Wave) (l : Lane) : Int :=
  if o.nb then 0 else if o.kb then ((wGet w o.h.b.toNat).toNat : Int) else sgn 32 (vGet l o.h.b.toNat).toNat

/-- The effective address of a global access (R165). -/
def effAddr (o : MA) (w : Wave) (l : Lane) : W64 :=
  let base : Nat := if o.p64 then (vGet l (o.h.a.toNat + 1)).toNat * 2 ^ 32 + (vGet l o.h.a.toNat).toNat else (wGet w o.h.a.toNat).toNat
  BitVec.ofNat 64 (wrap 64 ((base : Int) + indexOf o w l * (2 ^ o.scl.toNat : Nat) + sgn 14 o.off.toNat))

/-- The effective address of a local-memory access (R165). -/
def localAddr (o : MA) (w : Wave) (l : Lane) : W64 :=
  let base : Nat := if o.ka then (wGet w o.h.a.toNat).toNat % 2 ^ 32 else (vGet l o.h.a.toNat).toNat
  BitVec.ofNat 64 (wrap 32 ((base : Int) + indexOf o w l * (2 ^ o.scl.toNat : Nat) + sgn 14 o.off.toNat))

/-- A data operand of the access width: register k of class v (or its pair) or w. -/
def dataReg (isW : Bool) (size k : Nat) (w : Wave) (l : Lane) : W64 :=
  if isW then wGet w k
  else if size = 8 then BitVec.ofNat 64 ((vGet l (k + 1)).toNat * 2 ^ 32 + (vGet l k).toNat)
  else BitVec.ofNat 64 (vGet l k).toNat

/-- The data operands that an access captures (R211, R217, R218, R228). -/
def dataOf (k : MKind) (o : MA) (w : Wave) (l : Lane) : List W64 :=
  let d := o.h.d.toNat
  let size := accSize o
  match k with
  | .load _ => []
  | .view _ => []
  | .store => [dataReg (dataW o) size d w l]
  | .atom _ => [dataReg (dataW o) size d w l, dataReg (dataW o) size (if dataW o then d + 1 else if size = 8 then d + 2 else d + 1) w l]
  | .atomo => [dataReg (dataW o) 4 d w l, dataReg (dataW o) 4 (d + 1) w l]
  | .stc => [dataReg (dataW o) size d w l, wGet w (o.h.a.toNat + 1)]

/-- Performed once for the wave (R90, R209): a w destination, or address and data from w registers only. -/
def isOnce (k : MKind) (o : MA) (loc : Bool) : Bool :=
  let addrW := (o.ka || (!loc && !o.p64)) && (o.nb || o.kb)
  match k with
  | .load _ => dataW o || addrW
  | .view _ => dataW o || addrW
  | .atom _ => dataW o
  | _ => addrW && dataW o

/-- What a lane's result writes: v registers of the lane, or the w register. -/
def resultVs (k : MKind) (o : MA) (x : Nat) : List (Nat × W32) :=
  let d := o.h.d.toNat
  let size := accSize o
  match k with
  | .load sx =>
    if size = 8 then putV d 64 x
    else if sx && size < 4 then putV d 32 (wrap 32 (sgn (8 * size) x)) else putV d 32 x
  | .view _ => putV d 32 x
  | .atom _ => putV d (8 * size) x
  | _ => []

def resultW (k : MKind) (o : MA) (x : Nat) : Option W64 :=
  match k with
  | .load sx => some (BitVec.ofNat 64 (if sx then wrap 64 (sgn (8 * accSize o) x) else x))
  | .view _ => some (BitVec.ofNat 64 x)
  | .atom _ => some (BitVec.ofNat 64 x)
  | _ => none

/-- The L1 an executor uses: its carriage's, or the cart L1 (R54). -/
def l1Of (w : Wave) : Nat := if w.cart then 4 else w.unit

/-! ### Ordered buffer (R218, R219) -/

/-- Contributions a context's spill area holds at most (R220). -/
def spillRoom (s : State) (ctx : Nat) : Nat :=
  let r := (getCtx s ctx).ordspill
  if bit r 0 then (fld r 4 12).toNat * 4096 else 0

/-- Contributions of a context that stand in its spill area, over all dies. -/
def spilled (s : State) (ctx : Nat) : Nat :=
  (s.dies.map (fun d => (d.2.buf.filter (fun c => c.spilled && c.ctx == ctx)).length)).sum

/-- A contribution reaches the ordered buffer of its home die: accepted there, in the spill area, or not at all (R219). -/
def acceptAtomo (ctx pa : Nat) (key value : W32) (s : State) : State × Bool :=
  let d := homeDie pa
  let x := getDie s d
  let inBuf := (x.buf.filter (fun c => !c.spilled)).length
  if inBuf < 65536 || spilled s ctx < spillRoom s ctx then
    (updDie d (fun x => { x with
      buf := x.buf ++ [{ ctx, pa, key, value, pos := x.bufPos, spilled := !(inBuf < 65536) }]
      bufPos := x.bufPos + 1 }) s, true)
  else (s, false)

/-! ### Views (R82, R80) -/

/-- The shadow of a region at a format that a cluster holds in a context. -/
def shadowOf (s : State) (cluster ctx region : Nat) (fmt : BitVec 3) : Option Shadow :=
  (getCluster s cluster).shadows.find? (fun h => h.ctx == ctx && h.region == region && h.fmt == fmt)

/-- The views of a region's words as its home holds them. -/
def regionViews (s : State) (region : Nat) (fmt : BitVec 3) : List Nat :=
  (span 0 128).map (fun i => viewOf fmt (leNat (cellsRead s.mem (region * 512 + 4 * i) 4)))

/-- The first LDV to a stale shadow refetches it (R80): each line read at its home, after the stores that the home holds (R52). -/
def refetch (cluster ctx region : Nat) (fmt : BitVec 3) (s : State) : State :=
  let s := (span 0 8).foldl (fun s i => answerHeld (region * 8 + i) s) s
  let vs := regionViews s region fmt
  updCluster cluster (fun c => { c with shadows := c.shadows.map (fun h =>
    if h.ctx == ctx && h.region == region && h.fmt == fmt then { h with stale := false, views := vs } else h) }) s

/-! ### One lane's access, once its target is known -/

/-- The shadow that an LDV at a place is answered from, if its cluster holds one (R82). -/
def shadowKind (k : MKind) (w : Wave) (pa : Nat) (s : State) : Option Shadow :=
  match k with
  | .view f => shadowOf s w.cluster w.ctx (pa / 512) f
  | _ => none

/-- How it ends: a value read (0 for a store), or a cause. -/
inductive Perf where
  | val (x : Nat)
  | fail (cause : Nat)
deriving DecidableEq, Repr, Inhabited

/-- The L1 TLB an executor uses: its carriage's, or its cart group's (R26). -/
def tlbUnit (w : Wave) : Nat := if w.cart then 4 + w.unit / 4 % 4 else w.unit % 4

/-- LANE, WAVE and CL of a message on behalf of the lowest of the lanes that an access counts for (R368, R388). -/
def whoBits (s : State) (who : List (Nat × Nat)) : Nat :=
  match who with
  | [] => 0
  | (k, l) :: _ => match s.waves.find? (fun w => w.id == k) with | some w => laneBits w l | none => 0

/-- The access of the instruction at a PC performed at its target (R47, R57, R61, R82, R217, R218, R372), for lanes of waves. A store to a line that the host may hold is held at the home
until the host answers (R63). -/
def perform (k : MKind) (size cluster unit ctx : Nat) (pc : W64) (who : List (Nat × Nat)) (t : Target) (data : List W64) (s : State) : State × Perf :=
  let x := (nth 0 data 0).toNat
  let y := (nth 0 data 1).toNat
  let dec : Option (Nat × Nat × W64 × Nat) := if k = .stc then some (ctx, cluster / 64, nth 0 data 1, whoBits s who + pc.toNat) else none
  let after (s : State) : State := match dec with
    | some (c, d, tcb, lane) => post cluster (.tcbDecrement c d tcb (.stc lane)) s
    | none => s
  let write (s : State) : State := match t with
    | .loc pa mt =>
      if (hostLines s cluster t size).isEmpty then after (storeBytes cluster unit mt pa (leBytes size x) s)
      else post (pa / 64) .backInvalidationAnswer (updDie (homeDie pa) (fun d => { d with held := d.held ++ [{ cluster, unit, pa, bytes := leBytes size x, who, dec }] }) s)
    | .fab dev pa => after { s with peer := cellsWrite s.peer (dev * 2 ^ 48 + pa) (leBytes size x) }
  let dead := match t with | .loc pa _ => poisoned s pa | .fab _ _ => false
  match k with
  | .load _ =>
    if dead then (s, .fail cPROT)
    else match t with
      | .loc pa mt => let r := loadBytes cluster unit mt pa size s; (r.1, .val (leNat r.2))
      | .fab dev pa => (s, .val (leNat (cellsRead s.peer (dev * 2 ^ 48 + pa) size)))
  | .view f =>
    if dead then (s, .fail cPROT)
    else match t with
      | .fab dev pa => (s, .val (widenView f (viewOf f (leNat (cellsRead s.peer (dev * 2 ^ 48 + pa) 4)))))
      | .loc pa mt =>
        match shadowOf s cluster ctx (pa / 512) f with
        | some h =>
          let s1 := if h.stale then refetch cluster ctx (pa / 512) f s else s
          let h1 := (shadowOf s1 cluster ctx (pa / 512) f).getD h
          (s1, .val (widenView f (nth 0 h1.views (pa % 512 / 4))))
        | none => let r := loadBytes cluster unit mt pa 4 s; (r.1, .val (widenView f (viewOf f (leNat r.2))))
  | .store => (write s, .val 0)
  | .stc => (write s, .val 0)
  | .atom op =>
    if dead then (s, .fail cPROT)
    else
      let n := 8 * size
      let r := atomTarget cluster t size (fun old => atomicNew op size old (x % 2 ^ n) (y % 2 ^ n)) s
      (r.1, .val r.2)
  | .atomo =>
    match t with
    | .loc pa _ =>
      if inHbm pa || inTier2 s pa then
        let r := acceptAtomo ctx pa (BitVec.ofNat 32 y) (BitVec.ofNat 32 x) (writebackAfter (cluster / 64) (pa / 64) s)
        (r.1, if r.2 then .val 0 else .fail cORDSPILL)
      else (s, .fail cPROT)
    | .fab _ _ => (s, .fail cPROT)

/-! ### Orderings (R98 to R100, R114) -/

/-- The lanes of the issuing subgroup, as agents (R89). -/
def issuers (s : State) : List (Nat × Nat) := (active s).map (fun l => (s.cur.1, l.id))

/-- An access of one of the agents. -/
def ofAgents (who : List (Nat × Nat)) (as : List (Nat × Nat)) : Bool := who.any (fun p => as.contains p)

/-- The scope covers memory of a package at a distance (R91, R95). -/
def scopeCovers (scope dist : Nat) : Bool := decide (scope = 7) || (decide (3 ≤ scope) && decide (dist ≤ scope - 2))

/-- A release at a scope by the issuing subgroup may complete: no earlier access of its lanes waits in the log, but for those of peers and for those that the lanes
perform at their ERET (R341, log 64); no remote access of theirs
that the scope covers is outstanding; no store of theirs is held at a home; and the host has answered for every line that the release writes back (R46, R63,
R95, R100, R114). -/
def releaseReady (scope : Nat) (s : State) : Bool :=
  let as := issuers s
  let w := curWave s
  w.log.all (fun e => e.2.lanes.all (fun p => p.trapped || p.wait == .peer || !as.contains (w.id, p.lane))) &&
    s.remote.all (fun r => !ofAgents r.who as || !scopeCovers scope (distOf s r.dev)) &&
    s.dies.all (fun d => d.2.held.all (fun h => !ofAgents h.who as)) &&
    (decide (scope < 2) || (unanswered s (w.cluster / 64)).isEmpty)

/-- What a release that may not complete asks for meanwhile: the host's answers (R63). -/
def releaseAsk (scope : Nat) (s : State) : State := if scope < 2 then s else askHost (unanswered s ((curWave s).cluster / 64)) s

/-- The issuing subgroup waits for its release. -/
def releaseWait (scope : Nat) (s : State) : State := waitHere .retry (releaseAsk scope s)

/-- What a release at .pkg or broader writes back first: every dirty byte of the die (R46, R100). -/
def releaseDrain (scope : Nat) (s : State) : State := if scope < 2 then s else drainRdc ((curWave s).cluster / 64) s

def ordRel (o : Ord) : Bool := o == .rel || o == .ar
def ordAcq (o : Ord) : Bool := o == .acq || o == .ar

/-- A logged access of a lane that its later accesses must wait for (R97, R98, R114), and that is not performed in its handler only (R339): an .acq, one to the
same bytes, or one that has read more than its entry names (a sample, a ray test). -/
def logHolds (w : Wave) (lane : Nat) (va : W64) (size : Nat) : Bool :=
  w.log.any (fun e => e.2.lanes.any (fun x => x.lane == lane && !x.trapped && (match memKind e.2.ins with
    | some (_, o) => ordAcq o.ord || (decide (va.toNat < x.addr.toNat + accSize o) && decide (x.addr.toNat < va.toNat + size))
    | none => true)))

/-- A logged .acq access of one of the lanes holds every later access of that lane (R98, R114). -/
def acqHolds (w : Wave) (ls : List Lane) : Bool :=
  w.log.any (fun e => (match memKind e.2.ins with | some (_, o) => ordAcq o.ord | none => false) && e.2.lanes.any (fun x => !x.trapped && ls.any (fun l => l.id == x.lane)))

/-! ### The access instruction (R209) -/

/-- How one lane's access stands after its checks. -/
inductive LaneRes where
  /-- performed, with the value read -/
  | done (x : Nat)
  | trap (t : LaneTrap)
  /-- goes to the operand log; with the service's answer for a page fault, and the faulting address -/
  | log (wait : LogWait) (v : Option Serve) (at_ : W64)
  /-- merged into an outstanding fill: the value that comes with it (R60) -/
  | merged (x : W64)
  /-- goes to a peer, whose answer the entry waits for (R49) -/
  | far (dev pa : Nat)
deriving DecidableEq, Repr, Inhabited

/-- The request of a lane's access to the translation. -/
def laneReq (k : MKind) (o : MA) (w : Wave) (l : Lane) : XReq :=
  { ctx := w.ctx, cluster := w.cluster, h := l.h, acc := accOf k, va := effAddr o w l, size := accSize o, engine := k == .stc, unit := tlbUnit w }

/-- The request for the task control block of an STC (R228). -/
def tcbReq (k : MKind) (o : MA) (w : Wave) (l : Lane) : XReq := { laneReq k o w l with acc := .write, va := wGet w (o.h.a.toNat + 1), size := 8 }

/-- The checks and the performing of one lane's global access. `late` leaves a load's data on its way (R146, R210); `all` are the lanes it counts for. -/
def laneAccess (k : MKind) (o : MA) (w : Wave) (all : List Nat) (l : Lane) (late : Bool) (s : State) : State × LaneRes :=
  let va := effAddr o w l
  let size := accSize o
  let pc := curPc s
  let who := all.map (fun i => (w.id, i))
  let bad (c : Nat) (a : W64) (mal : Bool) : LaneRes := .trap { code := c, tval := a, tepc := pc, mal }
  let faulted (a : W64) (acc : Acc) (s : State) : State × LaneRes :=
    let v := serve (w.cluster / 64) w.ctx (a.toNat % 2 ^ 52 / 65536) (if acc = .read then 0 else 1) s
    match v.2 with
    | .malformed => (v.1, .trap { code := cPROT, tval := a, tepc := pc, mal := true, nr := true })
    | .asked tag => (v.1, .log (.page (some tag)) (some v.2) a)
    | _ => (v.1, .log (.page none) (some v.2) a)
  let r := xlat { laneReq k o w l with now := true } s
  match r.2 with
  | .trap c mal => (r.1, bad c va mal)
  | .pfault => faulted va (accOf k) r.1
  | .miss => (r.1, .log .data none va)
  | .ok t =>
    let tcb := wGet w (o.h.a.toNat + 1)
    let r2 := if k = .stc then xlat { tcbReq k o w l with now := true } r.1 else (r.1, .ok t)
    match r2.2 with
    | .trap c mal => (r2.1, bad c tcb mal)
    | .pfault => faulted tcb .write r2.1
    | .miss => (r2.1, .log .data none va)
    | .ok _ =>
      let isLoad := match k with | .load _ => true | .view _ => true | _ => false
      match t with
      | .fab dev pa =>
        if k = .atomo then (r2.1, bad cPROT va false)
        else if k = .store || k = .stc then
          let rem : Remote := { ctx := w.ctx, who, cluster := w.cluster, log := none, dev, pa, va, pc, bytes := leBytes size (nth 0 (dataOf k o w l) 0).toNat
                                tcb := if k = .stc then some (w.ctx, tcb) else none, origin := whoBits r2.1 who + pc.toNat }
          ({ r2.1 with remote := r2.1.remote ++ [rem] }, .done 0)
        else (r2.1, .far dev pa)
      | .loc pa mt =>
        let hostMiss := isLoad && decide (2 ^ 47 ≤ pa) && !(rdcGet r2.1 (w.cluster / 64) (pa / 64)).filled
        let atomic := match k with | .atom _ => true | _ => false
        if atomic && asksHost r2.1 (pa / 64) then (post (pa / 64) .backInvalidationAnswer r2.1, .log .data none va)
        else
          match if isLoad && !poisoned r2.1 pa && (shadowKind k w pa r2.1).isNone then mergesInto w.cluster (l1Of w) mt pa size r2.1 else none with
          | some bs => (r2.1, .merged (BitVec.ofNat 64 (leNat bs)))
          | none =>
            if isLoad && (late || hostMiss) && !poisoned r2.1 pa then (r2.1, .log .data none va)
            else
            let p := perform k size w.cluster (l1Of w) w.ctx pc who t (dataOf k o w l) r2.1
            match p.2 with
            | .val x => (p.1, .done x)
            | .fail c => (p.1, bad c va false)

/-- Every lane's address looked up: the misses are queued in ascending lane order, and the instruction waits for their walks (R29). -/
def lanesMiss (k : MKind) (o : MA) (w : Wave) (ls : List Lane) (s : State) : State × Bool :=
  let ask (q : XReq) (r : State × Bool) : State × Bool := let x := xlat q r.1; (x.1, r.2 || x.2 == .miss)
  ls.foldl (fun r l => let a := ask (laneReq k o w l) r; if k = .stc then ask (tcbReq k o w l) a else a) (s, false)

/-- The lanes' accesses, one after another. -/
def laneAccesses (k : MKind) (o : MA) (w : Wave) (all : Lane → List Nat) (late : Lane → Bool) : List Lane → State → State × List (Lane × LaneRes)
  | [], s => (s, [])
  | l :: r, s =>
    let a := laneAccess k o w (all l) l (late l) s
    let b := laneAccesses k o w all late r a.1
    (b.1, (l, a.2) :: b.2)

/-- Two accesses of the list overlap in a byte. -/
def overlapping (size : Nat) : List Nat → Bool
  | [] => false
  | a :: r => r.any (fun b => decide (a < b + size) && decide (b < a + size)) || overlapping size r

/-- The order in which the lanes of one instruction perform: ascending, but where stores or atomics overlap an order the manual leaves open (R90, R211,
R217); a SCATTER ascends (R212), and so do the contributions of an ATOMO (R218). -/
def laneOrder (k : MKind) (scatter : Bool) (size : Nat) (addr : Lane → W64) (ls : List Lane) (s : State) : State × List Lane :=
  let free := match k with | .load _ => false | .view _ => false | .atomo => false | _ => !scatter
  if free && overlapping size (ls.map (fun l => (addr l).toNat))
  then ({ s with free := s.free + 1 }, sortBy (fun l => Config.rank s.free l.id) ls)
  else (s, ls)

/-- An access of the lane to a peer would go before an earlier one that waits for a page, and may be to the same peer (R112). -/
def peerHeld (k : MKind) (o : MA) (w : Wave) (l : Lane) (s : State) : Bool :=
  w.log.any (fun e => e.2.lanes.any (fun x => x.lane == l.id && !x.trapped && (match x.wait with | .page _ => true | _ => false)))
    && (match (xlat { laneReq k o w l with now := true } s).2 with | .ok (.fab _ _) => true | _ => false)

/-- The stores of a SCATTER that a list of remote accesses has gained since it had n are performed in their order (R212). -/
def orderScatter (n : Nat) (s : State) : State :=
  { s with remote := s.remote.take n ++ (s.remote.drop n).map (fun r => { r with scatter := some s.turn }) }

/-- The instruction is a gather with .split (R146). -/
def isSplit : Instr → Bool
  | .gather o => bit o.opx 1
  | _ => false

/-- A free operand-log index. -/
def freeLog (w : Wave) : Option Nat := (span 0 4).find? (fun k => !(w.log.any (fun e => e.1 == k)))

/-- Results written into v registers, lane by lane. -/
def writeResults (k : MKind) (o : MA) (rs : List (Lane × LaneRes)) (s : State) : State :=
  updCur (fun w => { w with lanes := w.lanes.map (fun l => match rs.find? (fun r => r.1.id == l.id) with
    | some (_, .done x) => writeVs (resultVs k o x) l
    | _ => l) }) s

/-- The write of an access made once for the wave: the w register, or the value in every selected lane. -/
def writeOnce (k : MKind) (o : MA) (sel : List Lane) (x : Nat) (s : State) : State :=
  if dataW o then (match resultW k o x with | some y => setW o.h.d.toNat y s | none => s)
  else mapLanes (sel.map (·.id)) (writeVs (resultVs k o x)) s

/-- The trap that a lane with a logged page fault takes at once, if it takes one (R340, R341). -/
def logTrap (idx : Nat) (pc va : W64) : Option Serve → Option LaneTrap
  | some .unresolved => some { code := cPFAULT, tval := va, tepc := pc, log := some idx }
  | some (.asked _) => some { code := cPFAULT, tval := va, tepc := pc, log := some idx }
  | _ => none

/-- After the lanes' accesses: results written, the log entry opened, the PC advanced, traps taken. `sel` are the selected lanes; with `once` the one access
counts for all of them. -/
def settleAccess (i : Instr) (k : MKind) (o : MA) (once : Bool) (sel : List Lane) (addr : Lane → W64) (rs : List (Lane × LaneRes)) (s : State) : State :=
  let w := curWave s
  let pc := curPc s
  let nextPc := pc + 8
  let idx := (freeLog w).getD 0
  let logged : List (Lane × LogWait × Option Serve × W64 × List W64) := rs.filterMap (fun r => match r.2 with
    | .log wt v a => some (r.1, wt, v, a, dataOf k o w r.1)
    | .merged x => some (r.1, .data, none, addr r.1, [x])
    | .far _ _ => some (r.1, .peer, none, addr r.1, dataOf k o w r.1)
    | _ => none)
  let parts : List LogLane := logged.flatMap (fun p =>
    let tr := (logTrap idx nextPc p.2.2.2.1 p.2.2.1).isSome
    (if once then sel else [p.1]).map (fun l => { lane := l.id, addr := addr p.1, data := p.2.2.2.2, wait := p.2.1, trapped := tr }))
  let h := match sel with | l :: _ => l.h | [] => false
  let s1 := match once, rs with
    | true, (_, .done x) :: _ => writeOnce k o sel x s
    | true, _ => s
    | false, _ => writeResults k o rs s
  let s2 := if parts.isEmpty then s1
    else updCur (fun w => { w with log := w.log ++ [(idx, { ins := i, pc, lanes := parts, once, h, sel := if isSplit i then sel.map (·.id) else [] })] }) s1
  let s3 := rs.foldl (fun s p => match p.2 with
    | .far dev pa =>
      let ls := if once then sel else [p.1]
      { s with remote := s.remote ++ [{ ctx := w.ctx, who := ls.map (fun l => (w.id, l.id)), cluster := w.cluster, log := some idx, dev, pa, va := addr p.1, pc, bytes := [] }] }
    | _ => s) s2
  let s4 := if logged.any (fun p => p.2.1 == .data) then post w.id .loadReturn s3 else s3
  let s5 := advance 2 s4
  let traps : List (Nat × LaneTrap) := rs.filterMap (fun r => match r.2 with
    | .trap t => some (r.1.id, t)
    | .log _ v a => (logTrap idx nextPc a v).map (fun t => (r.1.id, t))
    | _ => none)
  if once then (match traps with | (_, t) :: _ => takeConverged (sel.map (fun l => (l.id, t))) s5 | [] => s5)
  else takeTraps traps s5

/-- A global access instruction (R209): LD, ST, LDV, SCATTER, ATOM, ATOMO, STC, and GATHER without .split. -/
def access (i : Instr) (k : MKind) (o : MA) (scatter : Bool) (late : Lane → Bool) (s : State) : State :=
  let w := curWave s
  let sel := selected s o.h.g o.h.n
  let size := accSize o
  match sel with
  | [] => advance 2 s
  | low :: _ =>
    if 4 ≤ w.log.length then waitHere .retry s
    else if ordRel o.ord && !releaseReady o.scope.toNat s then releaseWait o.scope.toNat s
    else if sel.any (fun l => logHolds w l.id (effAddr o w l) size) then waitHere .retry s
    else
      let once := isOnce k o false
      let m := lanesMiss k o w (if once then [low] else sel) s
      if m.2 || sel.any (fun l => peerHeld k o w l m.1) then waitHere .retry m.1
      else
      let s0 := if ordRel o.ord then releaseDrain o.scope.toNat m.1 else m.1
      let ord := laneOrder k scatter size (effAddr o w) (if once then [low] else sel) s0
      let r := laneAccesses k o w (fun l => if once then sel.map (·.id) else [l.id]) late ord.2 ord.1
      settleAccess i k o once sel (effAddr o w) (sortBy (fun p => p.1.id) r.2) (if scatter then orderScatter ord.1.remote.length r.1 else r.1)

/-- LD (R211). -/
def execLd (o : MA) (s : State) : Out := .next (access (.ld o) (.load (bit o.opx 0)) o false (fun _ => false) s)

/-- ST (R211). -/
def execSt (o : MA) (s : State) : Out := .next (access (.st o) .store o false (fun _ => false) s)

/-- An element that an LDV reads is pending under HOLD (R79): its translation is looked up without effect. -/
def viewPending (o : MA) (s : State) : Bool :=
  let w := curWave s
  let f := fld o.opx 0 3
  (selected s o.h.g o.h.n).any (fun l =>
    match (xlat { ctx := w.ctx, cluster := w.cluster, h := l.h, acc := .read, va := effAddr o w l, size := 4, unit := tlbUnit w, now := true } s).2 with
    | .ok (.loc pa _) => (match shadowOf s w.cluster w.ctx (pa / 512) f with | some h => h.pending.contains (pa % 512 / 4) | none => false)
    | _ => false)

/-- LDV (R82, R213): waits for a pending element. -/
def execLdv (o : MA) (s : State) : Out :=
  .next (if viewPending o s then waitHere .retry s else access (.ldv o) (.view (fld o.opx 0 3)) o false (fun _ => false) s)

/-! ### The split of a gather (R146) -/

/-- A lane's data of a split gather is still to come. -/
def lateIn (w : Wave) (idx : Nat) (l : Lane) : Bool := w.log.any (fun e => e.1 == idx && e.2.lanes.any (fun p => p.lane == l.id && !p.trapped))

/-- The lanes selected at the issue of a split gather. -/
def splitSel (w : Wave) (idx : Nat) : List Nat := match w.log.find? (fun e => e.1 == idx) with | some (_, e) => e.sel | none => []

/-- The subgroup in a slot, of which the gather of an entry has selected lanes and which waits for their first data, at the split point (R146): where some of it is
there and some not, the lanes still without theirs take a free slot and wait for the last of it, and the others, those that the guard excluded among them
(DEDUCED, log 87), go on; with no slot free the subgroup waits whole for the last. -/
def splitSlot (idx slot : Nat) (w : Wave) : Wave :=
  let here (l : Lane) : Bool := l.slot == slot && l.st == .waiting (.first idx)
  let late (l : Lane) : Bool := here l && lateIn w idx l
  let there := w.lanes.any (fun l => here l && (splitSel w idx).contains l.id && !late l)
  let set (f : Lane → Lane) : Wave := { w with lanes := w.lanes.map (fun l => if here l then f l else l) }
  if !w.lanes.any late then set (fun l => { l with st := .ready })
  else if !there then w
  else match (freeSlots w).head? with
    | some k => set (fun l => if late l then { l with slot := k, st := .waiting (.data idx) } else { l with st := .ready })
    | none => set (fun l => { l with st := .waiting (.data idx) })

/-- The subgroups of a wave that wait for the first data of a split gather, looked at in turn. -/
def splitPoints (w : Wave) : Wave :=
  if w.lanes.any (fun l => match l.st with | .waiting (.first _) => true | _ => false)
  then (span 0 16).foldl (fun w k => (span 0 4).foldl (fun w idx => splitSlot idx k w) w) w else w

/-- GATHER (R212): as LD; with .split on a carriage some lanes' data may arrive before the others' (R146), which lanes the manual leaves open. The subgroup splits
once the chain of the gather has executed. -/
def execGather (o : MA) (s : State) : Out :=
  let w := curWave s
  let sel := selected s o.h.g o.h.n
  if bit o.opx 1 && !w.cart && decide (2 ≤ sel.length) then
    .next (access (.gather o) (.load (bit o.opx 0)) o false (fun l => !Config.early s.free l.id) { s with free := s.free + 1 })
  else .next (access (.gather o) (.load (bit o.opx 0)) o false (fun _ => false) s)

/-- SCATTER (R212). -/
def execScatter (o : MA) (s : State) : Out := .next (access (.scatter o) .store o true (fun _ => false) s)

/-- ATOM (R217). -/
def execAtom (o : MA) (s : State) : Out := .next (access (.atom o) (.atom o.opx.toNat) o false (fun _ => false) s)

/-- ATOMO (R218, R219). -/
def execAtomo (o : MA) (s : State) : Out := .next (access (.atomo o) .atomo o false (fun _ => false) s)

/-- STC (R228). -/
def execStc (o : MA) (s : State) : Out := .next (access (.stc o) .stc o false (fun _ => false) s)

/-! ### Local memory (R15, R16, R36 to R38, R214, R215) -/

/-- The team that a wave belongs to. -/
def teamOf (s : State) (w : Wave) : Team := (getTeam s w.team).getD { id := w.team, ctx := w.ctx, cluster := w.cluster, cart := w.cart, size := 0, lm := 0 }

/-- The gang members of a team: the team itself outside a gang. -/
def gangTeams (s : State) (t : Team) : List Team :=
  match t.gang with
  | none => [t]
  | some g => s.teams.filter (fun x => x.gang == some g)

/-- Ranks of a team's gang (R16): 1 outside a gang. -/
def gangCount (t : Team) : Nat := if t.gang.isSome then t.gw * t.gh else 1

/-- The team and offset of a local-memory address of n bytes, or none where it traps PROT (R15, R16). -/
def localTarget (s : State) (t : Team) (a n : Nat) : Option (Nat × Nat) :=
  let rank := a / 2 ^ 21 % 16
  let off := a % 2 ^ 21
  if a / 2 ^ 25 != 0 || decide (t.lm < off + n) then none
  else if rank = 15 then some (t.id, off)
  else if t.gang.isNone || decide (gangCount t ≤ rank) || decide (12 ≤ rank) then none
  else if rank = t.rank then some (t.id, off)
  else match (gangTeams s t).find? (fun x => x.rank == rank) with
    | some x => some (x.id, off)
    | none => none

/-- Bytes of a team's local memory. -/
def lmRead (s : State) (team off n : Nat) : List Byte := match getTeam s team with | some t => cellsRead t.mem off n | none => (span 0 n).map (fun _ => 0)

/-- Bytes written into a team's local memory; sleepers on the line wake (R223). -/
def lmWrite (team off : Nat) (bs : List Byte) (s : State) : State :=
  wakeLocal team off (updTeam team (fun t => { t with mem := cellsWrite t.mem off bs }) s)

/-- One lane's local access (R214): ALIGN, then R16, then the access. -/
def laneLocal (k : MKind) (o : MA) (bcast : Bool) (w : Wave) (l : Lane) (s : State) : State × LaneRes :=
  let a := localAddr o w l
  let n := accSize o
  let pc := curPc s
  let t := teamOf s w
  if a.toNat % n != 0 then (s, .trap { code := cALIGN, tval := a, tepc := pc })
  else if bcast && a.toNat / 2 ^ 21 % 16 != 15 then (s, .trap { code := cPROT, tval := a, tepc := pc })
  else
    match localTarget s t a.toNat n with
    | none => (s, .trap { code := cPROT, tval := a, tepc := pc })
    | some (team, off) =>
      match k with
      | .load _ => (s, .done (leNat (lmRead s team off n)))
      | _ =>
        let bs := leBytes n (nth 0 (dataOf k o w l) 0).toNat
        if bcast then ((gangTeams s t).foldl (fun s x => lmWrite x.id off bs s) s, .done 0) else (lmWrite team off bs s, .done 0)

def laneLocals (k : MKind) (o : MA) (bcast : Bool) (w : Wave) : List Lane → State → State × List (Lane × LaneRes)
  | [], s => (s, [])
  | l :: r, s =>
    let a := laneLocal k o bcast w l s
    let b := laneLocals k o bcast w r a.1
    (b.1, (l, a.2) :: b.2)

/-- A local-memory instruction. -/
def localAccess (i : Instr) (k : MKind) (o : MA) (bcast : Bool) (s : State) : State :=
  let w := curWave s
  let sel := selected s o.h.g o.h.n
  match sel with
  | [] => advance 2 s
  | low :: _ =>
    if ordRel o.ord && !releaseReady o.scope.toNat s then releaseWait o.scope.toNat s
    else if acqHolds w sel then waitHere .retry s
    else
      let once := isOnce k o true
      let s0 := if ordRel o.ord then releaseDrain o.scope.toNat s else s
      let ord := laneOrder k false (accSize o) (localAddr o w) (if once then [low] else sel) s0
      let r := laneLocals k o bcast w ord.2 ord.1
      settleAccess i k o once sel (localAddr o w) (sortBy (fun p => p.1.id) r.2) r.1

/-- LDLM (R214). -/
def execLdlm (o : MA) (s : State) : Out := .next (localAccess (.ldlm o) (.load (bit o.opx 0)) o false s)

/-- STLM (R214). -/
def execStlm (o : MA) (s : State) : Out := .next (localAccess (.stlm o) .store o false s)

/-- LMBC (R215). -/
def execLmbc (o : MA) (s : State) : Out := .next (localAccess (.lmbc o) .store o true s)

/-! ### Prefetch (R216) -/

/-- A prefetched line on its way: for its L1 (5 for none) and the levels below it; a line that is there already, or on its way, is not asked for again. -/
def fetchLine (w : Wave) (unit mt line : Nat) (s : State) : State :=
  let c := w.cluster
  let d := c / 64
  let home := homeDie (line * 64) == d && decide (line * 64 < 2 ^ 47)
  let there := decide (unit < 5) && bit (aget 0 (getCluster s c).filter line) unit
  if there || (getDie s d).fills.any (fun f => f.line == line && !f.invalidated && f.forRdc == !home && (f.forRdc || (f.cluster == c && f.unit == unit))) then s
  else if home then (if unit < 5 then openFill c unit false (mt == 2) line s else s)
  else if (getDie s d).rdcFenced then s
  else if (rdcGet s d line).filled then (if unit < 5 then vecSet c (line / 8) (filterAdd c line unit s) else s)
  else openFill c unit true (mt == 2) line s

/-- One lane's prefetch: a walk alone, or the line requested from below, into the issuer's L1 where its memory type allows (R44); a lane whose address would fault
has no effect. -/
def lanePrefetch (o : MA) (w : Wave) (l : Lane) (s : State) : State :=
  let va := effAddr o w l
  if o.opx.toNat % 4 = 2 then
    if canonical va && inWindow (getCtx s w.ctx) va 1 == .outside
    then queueMiss { ctx := w.ctx, granule := va.toNat % 2 ^ 52 / 65536, kind := 3, cluster := w.cluster, h := l.h } s else s
  else
    let r := xlat { ctx := w.ctx, cluster := w.cluster, h := l.h, acc := .read, va, size := 1, unit := tlbUnit w, now := true } s
    match r.2 with
    | .ok (.loc pa mt) =>
      if mt = 1 then r.1
      else fetchLine w (if o.opx.toNat % 4 = 0 && l1Takes (l1Of w) mt then l1Of w else 5) mt (pa / 64) r.1
    | _ => s

/-- PREFETCH (R216). -/
def execPrefetch (o : MA) (s : State) : Out :=
  let w := curWave s
  .next (advance 2 ((selected s o.h.g o.h.n).foldl (fun s l => lanePrefetch o w l s) s))

end Sys2Proof.Machine
end

