-- ==== Sys2Proof/Machine/Held.lean ====
section
/-! DEFINITION. The reads and writes that an instruction makes at its issue and that the operand log does not cover (R388, R389), and how such an
instruction ends: done, held while a fault is served, or trapped. -/

namespace Sys2Proof.Machine

/-- How the reads at issue end: a value, a wait at the instruction, or a trap. -/
inductive Got (α : Type) where
  | done (x : α)
  | wait
  | trap (t : LaneTrap)
deriving DecidableEq, Repr, Inhabited

/-- Who makes an access at issue: its context, cluster, mode H and the instruction's PC. -/
structure Issuer where
  ctx : Nat
  cluster : Nat
  h : Bool
  pc : W64
  /-- the wave, its lanes that make the access, and the L1 TLB they use -/
  wave : Nat := 0
  lanes : List Nat := []
  unit : Nat := 8
deriving DecidableEq, Repr, Inhabited

/-- The issuing subgroup, in the mode of its lowest lane. -/
def issuer (s : State) : Issuer :=
  let w := curWave s
  { ctx := w.ctx, cluster := w.cluster, h := (match active s with | l :: _ => l.h | [] => false), pc := curPc s
    wave := w.id, lanes := (active s).map (·.id), unit := tlbUnit w }

/-- The trap of an address. -/
def addrTrap (i : Issuer) (code : Nat) (va : W64) (mal : Bool) : LaneTrap := { code, tval := va, tepc := i.pc, mal }

/-- An earlier access of the issuer's lanes to the same bytes is still logged (R97, R114). -/
def loggedBefore (i : Issuer) (va : W64) (n : Nat) (s : State) : Bool :=
  match s.waves.find? (fun w => w.id == i.wave) with
  | none => false
  | some w => i.lanes.any (fun l => logHolds w l va n)

/-- An earlier access of the issuer's lanes to a peer is outstanding: accesses to one peer are performed in program order (R112). -/
def remoteBefore (i : Issuer) (dev : Nat) (s : State) : Bool := s.remote.any (fun r => r.dev == dev && ofAgents r.who (i.lanes.map (fun l => (i.wave, l))))

/-- An earlier access of the issuer's lanes waits for a page, and may be to any peer (R112). -/
def pageBefore (i : Issuer) (s : State) : Bool :=
  s.waves.any (fun w => w.id == i.wave && w.log.any (fun e => e.2.lanes.any (fun x => i.lanes.contains x.lane && !x.trapped && (match x.wait with | .page _ => true | _ => false))))

/-- The translation of an access of n bytes at issue (R12), served under R389 where its page is absent. It comes after the issuer's earlier accesses to the same
bytes, and to the same peer. `far` where the access may leave the load-and-store domain. -/
def heldXlatN (i : Issuer) (acc : Acc) (va : W64) (size n : Nat) (far : Bool) (s : State) : State × Got Target :=
  if loggedBefore i va n s then (s, .wait)
  else
  let r := xlat { ctx := i.ctx, cluster := i.cluster, h := i.h, acc, va, size, engine := far, unit := i.unit } s
  match r.2 with
  | .ok (.loc pa mt) =>
    if acc = .read && poisoned r.1 pa then (r.1, .trap (addrTrap i cPROT va false))
    else
      let ls := if acc = .write then hostLines r.1 i.cluster (.loc pa mt) n else []
      if ls.isEmpty then (r.1, .done (.loc pa mt)) else (askHost ls r.1, .wait)
  | .ok (.fab dev pa) => (r.1, if remoteBefore i dev r.1 || pageBefore i r.1 then .wait else .done (.fab dev pa))
  | .trap c mal => (r.1, .trap (addrTrap i c va mal))
  | .miss => (r.1, .wait)
  | .pfault =>
    let v := serve (i.cluster / 64) i.ctx (va.toNat % 2 ^ 52 / 65536) (if acc = .read then 0 else 1) r.1
    match v.2 with
    | .copying => (v.1, .wait)
    | .asked tag => (v.1, .trap { addrTrap i cPFAULT va false with ptag := some tag })
    | .unresolved => (v.1, .trap (addrTrap i cPFAULT va false))
    | .malformed => (v.1, .trap (addrTrap i cPROT va true))

/-- The translation of an access at issue whose size is its alignment. -/
def heldXlat (i : Issuer) (acc : Acc) (va : W64) (size : Nat) (far : Bool) (s : State) : State × Got Target := heldXlatN i acc va size size far s

/-- n bytes read at issue from an address aligned to `size` (1: no alignment asked); they lie in one 64 KiB granule. -/
def heldRead (i : Issuer) (va : W64) (size n : Nat) (s : State) : State × Got (List Byte) :=
  let r := heldXlatN i .read va size n true s
  match r.2 with
  | .done t => let q := readTarget i.cluster t n r.1; (q.1, .done q.2)
  | .wait => (r.1, .wait)
  | .trap t => (r.1, .trap t)

/-- k pieces of n bytes read at issue, one after another. -/
def heldReads (i : Issuer) (n : Nat) : Nat → W64 → State → State × Got (List Byte)
  | 0, _, s => (s, .done [])
  | k + 1, va, s =>
    let r := heldRead i va 1 n s
    match r.2 with
    | .done b =>
      let q := heldReads i n k (va + BitVec.ofNat 64 n) r.1
      match q.2 with
      | .done bs => (q.1, .done (b ++ bs))
      | e => (q.1, e)
    | e => (r.1, e)

/-- An atomic at issue on n bytes; `far` where it may leave the load-and-store domain. -/
def heldAtomicIn (i : Issuer) (va : W64) (n : Nat) (far : Bool) (f : Nat → Nat) (s : State) : State × Got Nat :=
  let r := heldXlat i .write va n far s
  match r.2 with
  | .done t =>
    if targetPoisoned r.1 t then (r.1, .trap (addrTrap i cPROT va false))
    else
    let ls := match t with | .loc pa _ => if asksHost r.1 (pa / 64) then [pa / 64] else [] | .fab _ _ => []
    if ls.isEmpty then (let q := atomTarget i.cluster t n f r.1; (q.1, .done q.2)) else (askHost ls r.1, .wait)
  | .wait => (r.1, .wait)
  | .trap t => (r.1, .trap t)

/-- An atomic at issue on n bytes, which may leave the load-and-store domain. -/
def heldAtomic (i : Issuer) (va : W64) (n : Nat) (f : Nat → Nat) (s : State) : State × Got Nat := heldAtomicIn i va n true f s

/-- The instruction goes on with what it read; or waits; or its lanes trap in the converged fallback (R337). -/
def heldThen {α : Type} (ls : List Lane) (r : State × Got α) (k : α → State → State) : State :=
  match r.2 with
  | .done x => k x r.1
  | .wait => waitHere .retry r.1
  | .trap t => convergeAll ls (fun _ => t) r.1

/-- As heldThen, the lanes trapping for themselves (R336). -/
def heldLanes {α : Type} (ls : List Lane) (r : State × Got α) (k : α → State → State) : State :=
  match r.2 with
  | .done x => k x r.1
  | .wait => waitHere .retry r.1
  | .trap t => takeTraps (ls.map (fun l => (l.id, t))) r.1

/-- The mask of the selected lanes traps with a cause and TVAL of the instruction itself. -/
def instrTrap (ls : List Lane) (code : Nat) (tval : W64) (s : State) : State :=
  let pc := curPc s
  convergeAll ls (fun _ => { code, tval, tepc := pc }) s

/-- TVAL of ILLOP, ILLCHAIN and ILLEXEC (R333): the word and its index in the packet. -/
def illTval (word : W32) (pc : W64) : W64 := BitVec.ofNat 64 (pc.toNat / 4 % 4 * 2 ^ 32 + word.toNat)

/-- The first word of an instruction. -/
def firstWord (i : Instr) : W32 := match encode i with | some (w, _) => w | none => 0

/-- An instruction whose operands or descriptor are illegal: ILLOP in its lanes, converged (R86), with TEPC at its chain (R158, R333). -/
def illOperands (i : Instr) (ls : List Lane) (s : State) : State :=
  let t : LaneTrap := { code := cILLOP, tval := illTval (firstWord i) (curPc s), tepc := chainStart s }
  convergeAll ls (fun _ => t) s

/-- A local-memory address checked under R209 and R16 for n bytes of alignment: the team and offset, or the trap. -/
def heldLocal (i : Issuer) (t : Team) (a : W64) (n : Nat) (s : State) : Got (Nat × Nat) :=
  if a.toNat % n != 0 then .trap (addrTrap i cALIGN a false)
  else match localTarget s t (a.toNat % 2 ^ 32) n with
    | none => .trap (addrTrap i cPROT a false)
    | some x => .done x

/-! ### Lanes that read memory by themselves (R291, R295) -/

/-- How one lane's reads end: its results; a trap; a wait at the instruction; or a page fault at an address, with the data operands of its log entry and the
service's answer. -/
inductive LaneOut where
  | vals (ws : List (Nat × W32))
  | trap (t : LaneTrap)
  | wait
  /-- a read of a peer, whose answer the lane's log entry waits for (R49, R368) -/
  | far (va : W64) (dev pa : Nat) (data : List W64)
  | fault (va : W64) (data : List W64) (v : Serve)
deriving DecidableEq, Repr, Inhabited

/-- One aligned read of a lane: the bytes, a cause, or a page fault. -/
inductive LaneRd where
  | ok (bs : List Byte)
  | bad (cause : Nat) (mal : Bool)
  | absent
  | miss
  | far (dev pa : Nat)
deriving DecidableEq, Repr, Inhabited

/-- A plain load of n bytes, n a power of two, in the mode of the lane; `from_` reads the bytes at a local target. In a replay, `again` is the part of the log entry: the
walk is made within the step. Every read of a peer is outstanding until that peer has answered it (R49, R368). -/
def laneRead (w : Wave) (h : Bool) (again : Option Agent) (va : W64) (n : Nat) (from_ : Target → State → State × List Byte) (s : State) : State × LaneRd :=
  let r := xlat { ctx := w.ctx, cluster := w.cluster, h, acc := .read, va, size := n, unit := tlbUnit w, now := again.isSome } s
  match r.2 with
  | .trap c mal => (r.1, .bad c mal)
  | .pfault => (r.1, .absent)
  | .miss => (r.1, .miss)
  | .ok (.fab dev pa) =>
    if r.1.answers.any (fun a => some a.agent == again && a.dev == dev && a.pa == pa)
    then (r.1, .ok (cellsRead r.1.peer (dev * 2 ^ 48 + pa) n)) else (r.1, .far dev pa)
  | .ok (.loc pa mt) => if poisoned r.1 pa then (r.1, .bad cPROT false) else let q := from_ (.loc pa mt) r.1; (q.1, .ok q.2)

/-- A lane's failed read: its trap, or its page fault served (R340, R341). -/
def laneFault (w : Wave) (pc va : W64) (data : List W64) (r : LaneRd) (s : State) : State × LaneOut :=
  match r with
  | .ok _ => (s, .vals [])
  | .bad c mal => (s, .trap { code := c, tval := va, tepc := pc, mal })
  | .miss => (s, .wait)
  | .far dev pa => (s, .far va dev pa data)
  | .absent =>
    let v := serve (w.cluster / 64) w.ctx (va.toNat % 2 ^ 52 / 65536) 0 s
    match v.2 with
    | .malformed => (v.1, .trap { code := cPROT, tval := va, tepc := pc, mal := true, nr := true })
    | x => (v.1, .fault va data x)

/-- An earlier access of one of the lanes is still to be performed, in the log and not after its handler, at a peer, or at a home (R284, R291, R295, R309). -/
def lanesPending (s : State) (w : Wave) (ls : List Lane) : Bool :=
  let as := ls.map (fun l => (w.id, l.id))
  w.log.any (fun e => e.2.lanes.any (fun x => !x.trapped && ls.any (fun l => l.id == x.lane)))
    || s.remote.any (fun r => ofAgents r.who as) || s.dies.any (fun d => d.2.held.any (fun h => ofAgents h.who as))

/-- After the lanes' reads: results written, the log entry opened, the PC moved past two words, traps taken; or, where a walk is awaited, a wait at the
instruction (R29). `bind` is what a sample captures (R285). -/
def settleOuts (i : Instr) (wop : W64) (bind : Option (Nat × W32 × List Byte)) (rs : List (Lane × LaneOut)) (s : State) : State :=
  if rs.any (fun r => r.2 == .wait) then waitHere .retry s
  else
  let w := curWave s
  let pc := curPc s
  let nextPc := pc + 8
  let idx := (freeLog w).getD 0
  let parts : List LogLane := rs.filterMap (fun r => match r.2 with
    | .fault va data v => some
        { lane := r.1.id, addr := va, data, wait := .page (match v with | .asked tag => some tag | _ => none)
          trapped := (logTrap idx nextPc va (some v)).isSome }
    | .far va _ _ data => some { lane := r.1.id, addr := va, data, wait := .peer, tex := bind }
    | _ => none)
  let far : List Remote := rs.filterMap (fun r => match r.2 with
    | .far va dev pa _ => some { ctx := w.ctx, who := [(w.id, r.1.id)], cluster := w.cluster, log := some idx, dev, pa, va, pc, bytes := []
                                 agent := some (.part w.id idx r.1.id) }
    | _ => none)
  let h := match rs with | r :: _ => r.1.h | [] => false
  let s1 := updCur (fun w => { w with
    lanes := w.lanes.map (fun l => match rs.find? (fun r => r.1.id == l.id) with
      | some (_, .vals ws) => writeVs ws l
      | _ => l)
    log := if parts.isEmpty then w.log else w.log ++ [(idx, { ins := i, pc, lanes := parts, h, wop })] })
    (if far.isEmpty then s else { s with remote := s.remote ++ far })
  takeTraps (rs.filterMap (fun r => match r.2 with
    | .trap t => some (r.1.id, t)
    | .fault va _ v => (logTrap idx nextPc va (some v)).map (fun t => (r.1.id, t))
    | _ => none)) (advance 2 s1)

end Sys2Proof.Machine
end

