-- ==== Sys2Proof/Machine/Records.lean ====
section
/-! DEFINITION. Launch records and how threads start (R306, R307, R310, R317, R325): reading and checking a record and its register image, and the waves
that lanes and threads become. -/

namespace Sys2Proof.Machine

/-! ### On whose behalf (R388, R389) -/

/-- An access at the issue of an instruction; or one that the device makes later by itself, in ordinary mode. -/
inductive Who where
  | issue (i : Issuer)
  | device (ctx cluster : Nat)
deriving DecidableEq, Repr, Inhabited

/-- What a device access answers, as an access at issue answers it. -/
def gotOfDev {α : Type} (va : W64) (r : State × Dev α) : State × Got α :=
  match r.2 with
  | .done x => (r.1, .done x)
  | .wait => (r.1, .wait)
  | .fail c => (r.1, .trap { code := c, tval := va })

/-- n bytes read at an address with an alignment. -/
def whoRead (a : Who) (va : W64) (al n : Nat) (s : State) : State × Got (List Byte) :=
  match a with
  | .issue i => heldRead i va al n s
  | .device ctx cluster =>
    if va.toNat % al != 0 then (s, .trap { code := cALIGN, tval := va }) else gotOfDev va (devRead ctx cluster false va n s)

/-- Bytes written that lie in one 64 KiB granule. -/
def whoWrite (a : Who) (va : W64) (bs : List Byte) (s : State) : State × Got Unit :=
  match a with
  | .issue i =>
    let r := heldXlat i .write va 1 true s
    match r.2 with
    | .done t => (writeTarget i.cluster t bs r.1, .done ())
    | .wait => (r.1, .wait)
    | .trap t => (r.1, .trap t)
  | .device ctx cluster => gotOfDev va (devWrite ctx cluster false va bs s)

/-- Bytes written at their home that lie in one 64 KiB granule. -/
def whoWriteHome (a : Who) (va : W64) (bs : List Byte) (s : State) : State × Got Unit :=
  match a with
  | .issue i =>
    let r := heldXlat i .write va 1 true s
    match r.2 with
    | .done t => if (askedHome r.1 t bs.length).isEmpty then (writeHome t bs r.1, .done ()) else (askHost (askedHome r.1 t bs.length) r.1, .wait)
    | .wait => (r.1, .wait)
    | .trap t => (r.1, .trap t)
  | .device ctx cluster => gotOfDev va (devWriteHome ctx cluster false va bs s)

/-- An atomic on n bytes: the old value. -/
def whoAtomic (a : Who) (va : W64) (n : Nat) (f : Nat → Nat) (s : State) : State × Got Nat :=
  match a with
  | .issue i => heldAtomic i va n f s
  | .device ctx cluster => gotOfDev va (devAtomic ctx cluster false va n f s)

/-- k reads of n bytes, one after another. -/
def readMany (a : Who) (n : Nat) : Nat → W64 → State → State × Got (List Byte)
  | 0, _, s => (s, .done [])
  | k + 1, va, s =>
    let r := whoRead a va n n s
    match r.2 with
    | .done b =>
      let q := readMany a n k (va + BitVec.ofNat 64 n) r.1
      match q.2 with
      | .done bs => (q.1, .done (b ++ bs))
      | e => (q.1, e)
    | e => (r.1, e)

/-- LANE, WAVE and CL of the message of an access that failed (R388). -/
def whoLane (s : State) : Who → Nat
  | .issue i => whoBits s (i.lanes.map (fun l => (i.wave, l)))
  | .device _ _ => 0

/-- The access is made by the device itself. -/
def Who.isDevice : Who → Bool | .issue _ => false | .device _ _ => true

/-- Context and cluster of the accesses. -/
def Who.ctx : Who → Nat | .issue i => i.ctx | .device c _ => c
def Who.cluster : Who → Nat | .issue i => i.cluster | .device _ c => c

/-- What follows a read that was done. -/
def gotThen {α β : Type} (r : State × Got α) (k : α → State → State × Got β) : State × Got β :=
  match r.2 with
  | .done x => k x r.1
  | .wait => (r.1, .wait)
  | .trap t => (r.1, .trap t)

/-! ### The launch record (R306, R307) -/

/-- Bits [lo + len - 1 : lo] of a record. -/
def recBits (x lo len : Nat) : Nat := x / 2 ^ lo % 2 ^ len

/-- The record whose bits are given, and the address of its register image; none where it breaks a rule of R306. -/
def launchOf (addr : W64) (x : Nat) : Option (LaunchRec × W64) :=
  let f := recBits x
  let cart := f 133 1 == 1
  let regs := f 134 4
  let gw := f 146 4
  let gh := f 142 4
  let nteam := f 176 16
  let teamsz := f 168 8
  if f 448 4 != 0 || f 384 64 % 8 != 0 || f 256 64 % 8 != 0 || nteam = 0 || teamsz = 0 || decide ((if cart then 128 else 16) < teamsz)
    || decide (64 < f 160 8) || decide (512 < f 150 10) || gw = 0 || decide (8 < gw) || gh = 0 || decide (8 < gh) || decide (12 < gw * gh)
    || (if cart then regs != 0 else regs = 0 || decide (8 < regs)) || f 0 130 != 0 then none
  else some ({ addr, entry := BitVec.ofNat 64 (f 448 64), done := BitVec.ofNat 64 (f 256 64), qtab := BitVec.ofNat 64 (f 192 64), nteam, teamsz
               nq := f 160 8, lm := f 150 10 * 4096, gw, gh, dies := f 138 4, regs := if cart then 64 else 8 * regs, cart, prio := f 130 3
               w := (span 0 64).map (fun k => if k = 62 then BitVec.ofNat 64 (f 320 64) else if k = 63 then addr else 0) },
             BitVec.ofNat 64 (f 384 64))

/-- Consecutive 8-byte words. -/
def wordsOf : Nat → List Byte → List W64
  | 0, _ => []
  | n + 1, bs => BitVec.ofNat 64 (leNat (bs.take 8)) :: wordsOf n (bs.drop 8)

/-- A launch record and its image read and checked: none where the record breaks R306. -/
def readLaunch (a : Who) (addr : W64) (s : State) : State × Got (Option LaunchRec) :=
  gotThen (whoRead a addr 64 64 s) (fun bs s =>
    match launchOf addr (leNat bs) with
    | none => (s, .done none)
    | some (lr, img) =>
      if img = 0 then (s, .done (some lr))
      else gotThen (readMany a 8 64 img s) (fun ws s => (s, .done (some { lr with w := wordsOf 64 ws }))))

/-! ### Waves that start (R136, R137, R142, R317) -/

/-- 64 registers from those given. -/
def padV (v : List W32) : List W32 := (span 0 64).map (nth 0 v)

/-- A lane in its starting state. -/
def startLane (id : Nat) (x : Start) : Lane :=
  { id, pc := x.pc, v := padV x.v, fpflags := x.fpflags, fpen := x.fpen, queue := x.queue, tcb := x.tcb }

/-- Where a wave or thread is admitted. -/
structure Seat where
  cart : Bool
  cluster : Nat
  unit : Nat
  slot : Nat
deriving DecidableEq, Repr, Inhabited

/-- A wave in its starting state: lanes at the positions given, w registers and allocation from the record. -/
def startWave (id : Nat) (at_ : Seat) (team : Nat) (member : Option Nat) (ctx : Nat) (lr : LaunchRec) (ls : List (Nat × Start)) : Wave :=
  { id, cart := at_.cart, cluster := at_.cluster, unit := at_.unit, slot := at_.slot, team, member, ctx, regs := if at_.cart then 64 else lr.regs
    w := lr.w
    m := (span 0 16).map (fun k => maskOf ((ls.filter (fun p => k != 0 && nth false p.2.m k)).map (·.1)))
    mb := if at_.cart then [0, 0, 0, 0, 0, 0, 0, 0] else []
    lanes := ls.map (fun p => startLane p.1 p.2) }

/-- The agents of a list, a lane that moved under its new wave and number (R89). -/
def movedWho (id : Nat) (ls : List (Nat × Start)) (who : List (Nat × Nat)) : List (Nat × Nat) :=
  who.map (fun a => match ls.find? (fun p => p.2.mover == some a) with | some p => (id, p.1) | none => a)

/-- Outstanding remote accesses and stores held at a home stay accesses of the threads that moved (R89, R95, R112). -/
def renameMovers (id : Nat) (ls : List (Nat × Start)) (s : State) : State :=
  if ls.all (fun p => p.2.mover.isNone) then s
  else { s with
    remote := s.remote.map (fun r => { r with who := movedWho id ls r.who })
    dies := s.dies.map (fun d => (d.1, { d.2 with held := d.2.held.map (fun h => { h with who := movedWho id ls h.who }) })) }

/-- The wave joins the machine. -/
def addWave (at_ : Seat) (team : Nat) (member : Option Nat) (ctx : Nat) (lr : LaunchRec) (ls : List (Nat × Start)) (s : State) : State :=
  let s1 := if (getCluster s at_.cluster).stopped then updCluster at_.cluster (fun c => { c with stopped := false }) s else s
  renameMovers s.nextId ls { s1 with waves := s1.waves ++ [startWave s.nextId at_ team member ctx lr ls], nextId := s.nextId + 1 }

/-! ### Free places (R35, R137) -/

/-- The waves of a carriage, or threads of a cart, that hold a slot. -/
def residents (s : State) (cart : Bool) (c u : Nat) : List Wave :=
  s.waves.filter (fun w => w.cart == cart && w.cluster == c && w.unit == u && w.lanes.any alive)

/-- Free wave slots of a carriage. -/
def waveSlots (s : State) (c u : Nat) : List Nat := (span 0 16).filter (fun k => !((residents s false c u).any (fun w => w.slot == k)))

/-- v registers that a carriage's waves have allocated. -/
def regsUsed (s : State) (c u : Nat) : Nat := ((residents s false c u).map (·.regs)).sum

/-- Free hardware threads of a cluster, carts ascending, threads ascending (R153). -/
def freeThreads (s : State) (c : Nat) : List (Nat × Nat) :=
  (span 0 128).filterMap (fun k => if (getCluster s c).lostCarts.contains (k / 8) || (residents s true c (k / 8)).any (fun w => w.slot == k % 8) then none else some (k / 8, k % 8))

/-- A list in an order that the manual leaves open. -/
def freeOrder (l : List Nat) (s : State) : State × List Nat :=
  if l.length < 2 then (s, l) else ({ s with free := s.free + 1 }, sortBy (Config.rank s.free) l)

/-- The cluster works; a stopped clock starts again for the work it is given (R377). -/
def clusterUp (s : State) (c : Nat) : Bool := !(getCluster s c).failed

end Sys2Proof.Machine
end

