-- ==== Sys2Proof/Machine/Boot.lean ====
section
/-! DEFINITION. A program placed from outside the machine: what a boot, a page table and a launch leave behind (R19 to R21, R137, R307, R378), in one state. -/

namespace Sys2Proof.Machine

/-- The context, and the physical and virtual address of the instruction. -/
def placeCtx : Nat := 1
def placeAt : Nat := 0x10000

/-- The page table: a root at 0x1000 whose entry 0 points to 0x2000, whose entry 0 is a 16 GiB leaf that maps address a to a, writable, executable, A and D
set (R19, R21). -/
def placeTables (m : List Host.Cell) : List Host.Cell := cellsWrite (cellsWrite m 0x1000 (leBytes 8 0x2001)) 0x2000 (leBytes 8 0x6f)

/-- The instruction's two words at `placeAt`. -/
def placeCode (x : Nat) (m : List Host.Cell) : List Host.Cell := cellsWrite m placeAt (leBytes 8 x)

/-- The leaf that maps them, as a fetch before the instruction would have left it in the cluster's TLB (R26). -/
def placeLeaf : TlbEntry := { ctxid := BitVec.ofNat 64 (placeCtx * 65536), glob := false, va := 0, level := 2, pteAddr := 0x2000, pte := 0x6f }

/-- The wave: carriage 0 of cluster 0, slot 0, one lane, 64 v registers, every register 0. -/
def placeWave (id team : Nat) : Wave :=
  startWave id { cart := false, cluster := 0, unit := 0, slot := 0 } team (some 0) placeCtx { (default : LaunchRec) with regs := 64, w := (span 0 64).map (fun _ => 0) }
    [(0, { pc := BitVec.ofNat 64 placeAt, v := [], m := [] })]

/-- Its team: a member, 4 KiB of local memory. -/
def placeTeam (id : Nat) : Team := { id, ctx := placeCtx, cluster := 0, cart := false, size := 1, lm := 4096 }

/-- Boot done, a context with a page table, and one wave whose PC is at the instruction; its chain lock makes it issue next. Cached packets of cluster 0 are
dropped, and its TLB holds the instruction's page alone. -/
def placeWord (x : Nat) (s : State) : State :=
  let s1 := setCtx placeCtx { ctxid := BitVec.ofNat 64 (placeCtx * 65536), ptbase := 0x1000 }
    { s with mem := placeCode x (placeTables s.mem), poison := s.poison.filter (fun l => l != 0x40 && l != 0x80 && l != placeAt / 64)
             regs := { s.regs with stage := 7 } }
  let s2 := updDie 0 (fun d => { d with wcache := [], rdc := d.rdc.filter (fun p => p.1 != 0x40 && p.1 != 0x80 && p.1 != placeAt / 64) })
    (updCluster 0 (fun c => { c with tlb := [placeLeaf], l1tlb := [], missq := [], icache := [], stopped := false, failed := false }) s1)
  { s2 with waves := s2.waves ++ [placeWave s.nextId (s.nextId + 1)], teams := s2.teams ++ [placeTeam (s.nextId + 1)], nextId := s.nextId + 2
            chain := some (s.nextId, 0), walked := s.walked.filter (fun x => x.1 != .lanes s.nextId 0) }

end Sys2Proof.Machine
end

