-- ==== Sys2Proof/Machine/Lanes.lean ====
section
/-! DEFINITION. The lane instructions (R147, R195 to R199) and the mask instructions (R200): gathering of the effective mask, and one meaning per
constructor. -/

namespace Sys2Proof.Machine

/-- The half of a mask that TVAL holds in a lane (R333). -/
def maskHalf (m : Mask) (lane : Nat) : W64 := if lane < 64 then fld m 0 64 else fld m 64 64

/-- A lane has reached the wave-wide instruction at a PC: it issues it, or waits in it. -/
def arrived (slot : Nat) (pc : W64) (l : Lane) : Bool :=
  l.pc == pc && (issuing slot l || (match l.st with | .waiting (.wide _) => true | _ => false))

/-- An absent lane that cannot come: Parked, or waiting in a wave-wide instruction elsewhere, a barrier among them (R147 item 3). -/
def stuckLane (l : Lane) : Bool :=
  match l.st with
  | .parked => true
  | .waiting (.wide _) => true
  | .waiting (.bar _) => true
  | .waiting .barAgain => true
  | _ => false

/-- The lanes of a wave-wide instruction at a PC that have not come, for member mask m. -/
def absentLanes (w : Wave) (m : Mask) (come : Lane → Bool) : List Lane := w.lanes.filter (fun l => alive l && bit m l.id && !come l)

/-- A lane waits at the wave-wide instruction at a PC. -/
def gatheredAt (pc : W64) (l : Lane) : Bool := l.pc == pc && (match l.st with | .waiting (.wide _) => true | _ => false)

/-- The wait of a lane at a wave-wide instruction is over: every lane of the effective mask waits there with it, or those that do not cannot come. One subgroup, the
one in the lowest slot, then executes for all. -/
def gatherOver (w : Wave) (l : Lane) : Bool :=
  match l.st with
  | .waiting (.wide m) => (absentLanes w m (gatheredAt l.pc)).all stuckLane && w.lanes.all (fun x => !gatheredAt l.pc x || l.slot ≤ x.slot)
  | _ => false

/-- R147 for member mask m: the instruction runs once with the lanes of the effective mask when all have reached it, in one subgroup; until then they wait; a
lane outside the mask, or a gathering that cannot complete, takes the converged fallback with cause MEMBER. -/
def gather (m : Mask) (run : List Lane → State → State) (s : State) : State :=
  let w := curWave s
  let pc := curPc s
  let act := active s
  let omitted := act.filter (fun l => !bit m l.id)
  if !omitted.isEmpty then takeConverged (omitted.map (fun l => (l.id, { code := cMEMBER, tepc := pc }))) s
  else
    let absent := absentLanes w m (arrived s.cur.2 pc)
    let here := w.lanes.filter (fun l => alive l && bit m l.id && arrived s.cur.2 pc l)
    if absent.isEmpty then
      let slot := (least (here.map (·.slot))).getD s.cur.2
      let ids := here.map (·.id)
      let s1 := updCur (fun w => { w with lanes := w.lanes.map (fun l => if ids.contains l.id then { l with st := .ready, slot := slot } else l) }) s
      let s2 := { s1 with cur := (s1.cur.1, slot) }
      run ((curWave s2).lanes.filter (fun l => ids.contains l.id)) s2
    else if absent.all stuckLane then
      takeConverged (here.map (fun l => (l.id, { code := cMEMBER, tval := maskHalf (maskOf (absent.map (·.id))) l.id, tepc := pc }))) s
    else waitHere (.wide m) s

/-- The lanes of a subgroup move past n words. -/
def advanceIds (ids : List Nat) (n : Nat) (s : State) : State :=
  mapLanes ids (fun l => { l with pc := l.pc + BitVec.ofNat 64 (4 * n) }) s

/-- What a wave-wide function writes. -/
inductive WideOut where
  /-- v registers of the lanes of E, with the flags each lane raises -/
  | v (f : Lane → List (Nat × W32) × Flags)
  /-- one w register, with flags for every lane of E -/
  | w (x : W64) (f : Flags)
  /-- bits of an m register -/
  | m (bits : List (Nat × Bool))
  /-- a MEMBER trap of the lanes of E (R196) -/
  | member (mask : Mask)
deriving Inhabited

/-- A lane-family function (R195): gathered, executed once for E, the effective mask after guard selection. -/
def wideResult (r : Rec) (f : Wave → List Lane → WideOut) (s : State) : State :=
  let m := if r.kc == .m then mGet (curWave s) r.c else BitVec.allOnes 128
  gather m (fun here s =>
    let w := curWave s
    let pc := curPc s
    let ids := here.map (·.id)
    let e := here.filter (selects w r.g r.n)
    if e.isEmpty then advanceIds ids r.words s
    else
      let fpe (fl : Lane → Flags) : List (Nat × Flags) := fpeLanes (e.map (fun l => (l, fl l)))
      let trapF (fs : List (Nat × Flags)) : State :=
        takeConverged (fs.map (fun p => (p.1, { code := cFPE, tval := BitVec.ofNat 64 p.2.toNat, tepc := pc }))) s
      match f w e with
      | .v g =>
        let fs := fpe (fun l => (g l).2)
        if !fs.isEmpty then trapF fs
        else advanceIds ids r.words (mapLanes (e.map (·.id)) (fun l => let x := g l; raise x.2 (writeVs x.1 l)) s)
      | .w x fl =>
        let fs := fpe (fun _ => fl)
        if !fs.isEmpty then trapF fs
        else advanceIds ids r.words (mapLanes (e.map (·.id)) (raise fl) (setW r.d x s))
      | .m bits => advanceIds ids r.words (setM r.d bits s)
      | .member mask => takeConverged (e.map (fun l => (l.id, { code := cMEMBER, tval := maskHalf mask l.id, tepc := pc }))) s) s

/-- The lane of E with a number. -/
def laneIn (e : List Lane) (i : Nat) : Option Lane := e.find? (fun l => l.id == i)

/-- SHFL (R196). -/
def shflOut (r : Rec) (w : Wave) (e : List Lane) : WideOut :=
  match r.md % 8 with
  | 4 =>
    let k := (wGet w r.b).toNat % 128
    match laneIn e k with
    | some l => .w (BitVec.ofNat 64 (vGet l r.a).toNat) 0
    | none => .member (maskOf [k])
  | mode => .v (fun l =>
      let b := srcVal w l 32 r.kb r.b
      let src : Option Nat := match mode with
        | 0 => some (b % 128)
        | 1 => if b ≤ l.id then some (l.id - b) else none
        | 2 => some (l.id + b)
        | _ => some (l.id ^^^ b % 128)
      let x := match src with
        | some k => (match laneIn e k with | some q => vGet q r.a | none => vGet l r.a)
        | none => vGet l r.a
      ([(r.d, x)], 0))

/-- VOTE (R197). -/
def voteOut (r : Rec) (w : Wave) (e : List Lane) : WideOut :=
  let set := e.filter (fun l => mBit w r.a l.id)
  let one : Bool := match r.md % 4 with
    | 0 => set.length == e.length
    | 1 => !set.isEmpty
    | _ => set.isEmpty || set.length == e.length
  if r.md % 4 = 3 then
    match r.kd with
    | .w => .w (fld (maskOf (set.map (·.id))) (if r.md / 4 % 2 = 1 then 64 else 0) 64) 0
    | _ => .m (e.map (fun l => (l.id, mBit w r.a l.id)))
  else
    match r.kd with
    | .w => .w (BitVec.ofNat 64 one.toNat) 0
    | _ => .m (e.map (fun l => (l.id, one)))

/-- A lane's value as an exact integer (R198). -/
def exactVal (ty : Nat) (r : Rec) (w : Wave) (l : Lane) : Int :=
  match ty with
  | 6 => sgn 64 (srcVal w l 64 r.ka r.a)
  | 1 => (srcVal w l 32 r.ka r.a : Nat)
  | _ => sgn 32 (srcVal w l 32 r.ka r.a)

/-- Two's-complement bitwise operations on exact integers that fit 64 bits. -/
def bitwise (f : Nat → Nat → Nat) (x y : Int) : Int := sgn 64 (f (wrap 64 x) (wrap 64 y))

/-- An integer combination of R198; minu and maxu compare encodings of the operand's width. -/
def combine (op ty : Nat) (x y : Int) : Int :=
  let n := if ty = 6 then 64 else 32
  match op with
  | 0 => x + y
  | 1 => if y < x then y else x
  | 2 => if x < y then y else x
  | 3 => if wrap n y < wrap n x then y else x
  | 4 => if wrap n x < wrap n y then y else x
  | 5 => bitwise (· &&& ·) x y
  | 6 => bitwise (· ||| ·) x y
  | _ => bitwise (· ^^^ ·) x y

/-- Identities of the exclusive scan (R198). -/
def identity (op ty : Nat) : Int :=
  match op with
  | 1 => match ty with | 6 => (2 ^ 63 : Nat) - 1 | 1 => (2 ^ 32 : Nat) - 1 | _ => (2 ^ 31 : Nat) - 1
  | 2 => match ty with | 6 => -(2 ^ 63 : Nat) | 1 => 0 | _ => -(2 ^ 31 : Nat)
  | 3 => -1
  | 5 => -1
  | _ => 0

/-- The floating combinations of R198. -/
def combineF (op : Nat) (rm : Rm) (x y : Nat) : Nat × Flags :=
  match op with
  | 8 => faddE .fp32 rm x y
  | 9 => fminmaxE .fp32 false x y
  | _ => fminmaxE .fp32 true x y

def identityF (op : Nat) : Nat :=
  match op with
  | 8 => 0
  | 9 => 0x7F800000
  | _ => 0xFF800000

/-- REDUX (R128, R198). -/
def reduxOut (r : Rec) (w : Wave) (e : List Lane) : WideOut :=
  let op := r.md % 16
  if op ≤ 7 then
    let x : Int := match e with
      | [] => 0
      | l :: rest => rest.foldl (fun acc k => combine op r.ty acc (exactVal r.ty r w k)) (exactVal r.ty r w l)
    match r.kd with
    | .w => .w (BitVec.ofNat 64 (wrap 64 x)) 0
    | _ => .v (fun _ => (putV r.d (if r.ty = 6 then 64 else 32) (wrap 64 x), 0))
  else
    let leaves := (span 0 128).map (fun i => (laneIn e i).map (fun l => srcVal w l 32 r.ka r.a))
    let t := treeLevels (combineF op r.rm) 7 leaves 0
    let x := match t.1 with | some x :: _ => x | _ => 0
    match r.kd with
    | .w => .w (BitVec.ofNat 64 x) t.2
    | _ => .v (fun _ => ([(r.d, BitVec.ofNat 32 x)], t.2))

/-- Running combinations in ascending lane order: lane, value before it, value with it, flags of forming it (R128). -/
def scanList {α : Type} (op : α → α → α × Flags) : Option α → List (Nat × α) → List (Nat × Option α × α × Flags)
  | _, [] => []
  | p, (i, x) :: r =>
    let q := match p with | none => (x, (0 : Flags)) | some y => op y x
    (i, p, q.1, q.2) :: scanList op (some q.1) r

/-- SCAN (R128, R198). -/
def scanOut (r : Rec) (w : Wave) (e : List Lane) : WideOut :=
  let op := r.md % 16
  let ex := r.md / 16 % 2 = 1
  let width := if r.ty = 6 then 64 else 32
  if op ≤ 7 then
    let xs := scanList (fun x y => (combine op r.ty x y, 0)) none (e.map (fun l => (l.id, exactVal r.ty r w l)))
    .v (fun l => match xs.find? (fun p => p.1 == l.id) with
      | some (_, before, x, _) => (putV r.d width (wrap 64 (if ex then before.getD (identity op r.ty) else x)), 0)
      | none => ([], 0))
  else
    let xs := scanList (combineF op r.rm) none (e.map (fun l => (l.id, srcVal w l 32 r.ka r.a)))
    .v (fun l => match xs.find? (fun p => p.1 == l.id) with
      | some (_, before, x, fl) => (putV r.d 32 (if ex then before.getD (identityF op) else x), fl)
      | none => ([], 0))

/-- MATCH (R199). -/
def matchOut (r : Rec) (w : Wave) (e : List Lane) : WideOut :=
  let width := if r.ty = 6 then 64 else 32
  .v (fun l => ([(r.d, BitVec.ofNat 32 (match e.find? (fun k => srcVal w k width r.ka r.a == srcVal w l width r.ka r.a) with
    | some k => k.id | none => l.id))], 0))

/-- ELECT (R199). -/
def electOut (r : Rec) (_w : Wave) (e : List Lane) : WideOut :=
  let low := match e with | l :: _ => l.id | [] => 0
  match r.kd with
  | .w => .w (BitVec.ofNat 64 low) 0
  | _ => .m (e.map (fun l => (l.id, l.id == low)))

/-- MPOPC (R199). -/
def mpopcOut (r : Rec) (w : Wave) (e : List Lane) : WideOut :=
  let set := e.filter (fun l => mBit w r.a l.id)
  if r.md % 2 = 1 then .v (fun l => ([(r.d, BitVec.ofNat 32 (set.filter (fun k => k.id < l.id)).length)], 0))
  else match r.kd with
    | .w => .w (BitVec.ofNat 64 set.length) 0
    | _ => .v (fun _ => ([(r.d, BitVec.ofNat 32 set.length)], 0))

/-- SHFL (R196). -/
def execShfl (o : XR) (s : State) : Out := .next (wideResult (recXR o) (shflOut (recXR o)) s)

/-- SHFL, short form (R164, R196). -/
def execShflRg (o : RG) (s : State) : Out := .next (wideResult (recRG false o) (shflOut (recRG false o)) s)

/-- VOTE (R197). -/
def execVote (o : XR) (s : State) : Out := .next (wideResult (recXR o) (voteOut (recXR o)) s)

/-- REDUX (R198). -/
def execRedux (o : XR) (s : State) : Out := .next (wideResult (recXR o) (reduxOut (recXR o)) s)

/-- SCAN (R198). -/
def execScan (o : XR) (s : State) : Out := .next (wideResult (recXR o) (scanOut (recXR o)) s)

/-- MATCH (R199). -/
def execMatchv (o : XR) (s : State) : Out := .next (wideResult (recXR o) (matchOut (recXR o)) s)

/-- ELECT (R199). -/
def execElect (o : XR) (s : State) : Out := .next (wideResult (recXR o) (electOut (recXR o)) s)

/-- MPOPC (R199). -/
def execMpopc (o : XR) (s : State) : Out := .next (wideResult (recXR o) (mpopcOut (recXR o)) s)

/-! ### Masks (R200) -/

/-- A mask instruction: the selected lanes' bits of D. -/
def maskResult (o : RG) (f : Bool → Bool → Bool) (s : State) : State :=
  mResult o.g o.n 1 o.d.toNat (fun w l => (f (mBit w o.a.toNat l.id) (mBit w o.b.toNat l.id), 0)) s

/-- MAND (R200). -/
def execMand (o : RG) (s : State) : Out := .next (maskResult o (fun a b => a && b) s)

/-- MOR (R200). -/
def execMor (o : RG) (s : State) : Out := .next (maskResult o (fun a b => a || b) s)

/-- MXOR (R200). -/
def execMxor (o : RG) (s : State) : Out := .next (maskResult o (fun a b => a != b) s)

/-- MNOT (R200). -/
def execMnot (o : RG) (s : State) : Out := .next (maskResult o (fun a _ => !a) s)

/-- MMOV (R200). -/
def execMmov (o : RG) (s : State) : Out := .next (maskResult o (fun a _ => a) s)

end Sys2Proof.Machine
end

