-- ==== Sys2Proof/Machine/Sync.lean ====
section
/-! DEFINITION. Fences, the drain of ordered adds, team and gang barriers, waiting on an address, completion barriers (R99, R100, R110, R221 to R226). -/

namespace Sys2Proof.Machine

/-! ### Fences and drain -/

/-- The logged instruction is a store, and no load or atomic. -/
def onlyStores (i : Instr) : Bool :=
  match memKind i with
  | some (.load _, _) => false
  | some (.view _, _) => false
  | some (.atom _, _) => false
  | some _ => true
  | none => false

/-- Every earlier load and atomic of the issuing subgroup's lanes has completed (R99, R222), but for those that the lanes perform at their ERET (log 64). -/
def acquireReady (s : State) : Bool :=
  (curWave s).log.all (fun e => onlyStores e.2.ins || e.2.lanes.all (fun p => p.trapped || !(active s).any (fun l => l.id == p.lane)))

/-- A FENCE.full at a scope may complete (R99): as a release and as an acquire. -/
def fullReady (scope : Nat) (s : State) : Bool := releaseReady scope s && acquireReady s

/-- FENCE (R99, R222). -/
def execFence (o : SY) (s : State) : Out :=
  .next (if o.ord == .acq then (if acquireReady s then advance 1 s else waitHere .retry s)
    else if releaseReady o.scope.toNat s && (o.ord == .rel || acquireReady s) then advance 1 (releaseDrain o.scope.toNat s)
    else releaseWait o.scope.toNat s)

/-- Contributions before another in one word: by key, then by position (R221). -/
def contribKey (c : Contribution) : Nat := c.key.toNat * 2 ^ 64 + c.pos

/-- The new bytes of a line with its contributions applied in order. -/
def applyLine (cs : List Contribution) (line : Nat) (s : State) : State :=
  let s1 := pullLine line (answerHeld line (makeRoom (line / 8) s))
  let sorted := sortBy contribKey cs
  let words : List Nat := sorted.foldl (fun ws c =>
    let k := c.pa % 64 / 4
    setNth (faddE .fp32 .rne (nth 0 ws k) c.value.toNat).1 ws k) (lineWords s1.mem line)
  let touched := (span 0 16).filter (fun k => cs.any (fun c => c.pa % 64 / 4 == k))
  let bs : List (Nat × Byte) := touched.foldl (fun acc k => acc ++ withAddrs (line * 64 + 4 * k) (leBytes 4 (nth 0 words k))) []
  homeUpdate line bs .other s1

/-- The different lines that contributions name, ascending. -/
def linesOf (cs : List Contribution) : List Nat :=
  sortBy id (cs.foldl (fun acc c => if acc.contains (c.pa / 64) then acc else acc ++ [c.pa / 64]) [])

/-- Every contribution of a context that one die's buffer holds is applied and removed (R221). -/
def drainBuffer (ctx d : Nat) (s : State) : State :=
  let cs := (getDie s d).buf.filter (fun c => c.ctx == ctx)
  let s1 := updDie d (fun x => { x with buf := x.buf.filter (fun c => c.ctx != ctx) }) s
  (linesOf cs).foldl (fun s line => applyLine (cs.filter (fun c => c.pa / 64 == line)) line s) s1

/-- The lines of a context's contributions that the host may hold (R63). -/
def drainAsks (ctx : Nat) (s : State) : List Nat :=
  (span 0 4).flatMap (fun d => (linesOf ((getDie s d).buf.filter (fun c => c.ctx == ctx))).filter (asksHost s))

/-- DRAIN (R110, R221). -/
def execDrain (_ : SY) (s : State) : Out :=
  let ctx := (curWave s).ctx
  .next (if !releaseReady 1 s then releaseWait 1 (midOp s)
    else if !(drainAsks ctx s).isEmpty then waitHere .retry (askHost (drainAsks ctx s) (midOp s))
    else advance 1 ((span 0 4).foldl (fun s d => drainBuffer ctx d s) s))

/-! ### Team and gang barriers (R226) -/

/-- The members of a team that still take part: waves and threads admitted with it that are not Done (R137). -/
def openMembers (s : State) (t : Team) : List Nat :=
  (s.waves.filter (fun w => w.team == t.id && w.lanes.any alive)).filterMap (·.member)

/-- Every member of the team has arrived. -/
def arrivedAll (s : State) (gang : Bool) (t : Team) : Bool :=
  (openMembers s t).all (fun m => (if gang then t.gbar else t.bar).contains m)

/-- A lane that waits at the barrier goes on; one that arrived again tries once more. -/
def leaveBar (gang : Bool) (l : Lane) : Lane :=
  match l.st with
  | .waiting (.bar g) => if g == gang then { l with st := .ready } else l
  | .waiting .barAgain => { l with st := .ready }
  | _ => l

/-- The barrier of the teams has completed: their participants go on, and the counts start again. -/
def releaseBar (gang : Bool) (ts : List Nat) (s : State) : State :=
  let leave : Wave → Wave := fun w => { w with lanes := w.lanes.map (leaveBar gang) }
  let clear : Team → Team := fun t => if gang then { t with gbar := [] } else { t with bar := [] }
  { s with
    waves := s.waves.map (fun w => if ts.contains w.team then leave w else w)
    teams := s.teams.map (fun t => if ts.contains t.id then clear t else t) }

/-- Barriers of a team, or of its gang, that are complete release their participants. -/
def completeBar (gang : Bool) (t : Team) (s : State) : State :=
  let ts := if gang then gangTeams s t else [t]
  if ts.any (fun x => !(if gang then x.gbar else x.bar).isEmpty) && ts.all (arrivedAll s gang) then releaseBar gang (ts.map (·.id)) s else s

/-- Every barrier of the package looked at. -/
def completeBars (s : State) : State :=
  s.teams.foldl (fun s t => match getTeam s t.id with
    | some t => completeBar true t (completeBar false t s)
    | none => s) s

/-- BAR and GBAR once the lanes of the member mask have gathered (R147). -/
def arriveBar (gang : Bool) (o : SY) (here : List Lane) (s : State) : State :=
  let w := curWave s
  let ids := here.map (·.id)
  if !releaseReady o.scope.toNat s then mapLanes ids (fun l => { l with st := .waiting .retry }) (releaseAsk o.scope.toNat s)
  else
    let s1 := releaseDrain o.scope.toNat s
    let t := teamOf s1 w
    match w.member with
    | none => advanceIds ids 1 s1
    | some m =>
      let g := gang && t.gang.isSome
      if (if g then t.gbar else t.bar).contains m then mapLanes ids (fun l => { l with st := .waiting .barAgain }) s1
      else
        let s2 := updTeam t.id (fun t => if g then { t with gbar := m :: t.gbar } else { t with bar := m :: t.bar }) s1
        let s3 := mapLanes ids (fun l => { l with st := .waiting (.bar g) }) (advanceIds ids 1 s2)
        completeBar g (teamOf s3 w) s3

/-- BAR (R226). -/
def execBar (o : SY) (s : State) : Out := .next (gather (mGet (curWave s) o.a.toNat) (arriveBar false o) s)

/-- GBAR (R226). -/
def execGbar (o : SY) (s : State) : Out := .next (gather (mGet (curWave s) o.a.toNat) (arriveBar true o) s)

/-! ### Waiting on an address (R223) -/

/-- The word a sleeper watches, read now. -/
def waitaRead (cluster : Nat) (w : WaitA) (s : State) : State × Nat :=
  match w.place with
  | 0 => let r := loadBytes cluster 5 w.mt w.addr w.size s; (r.1, leNat r.2)
  | 1 => (s, leNat (cellsRead s.peer w.addr w.size))
  | t + 2 => (s, leNat (lmRead s t w.addr w.size))

/-- Where a WAITA looks: its target found and checked at issue. -/
def waitaTarget (o : SY) (s : State) : State × Got (Nat × Nat × Nat) :=
  let w := curWave s
  let i := issuer s
  let a := wGet w o.a.toNat
  let size := if o.x then 8 else 4
  if acqHolds w (active s) then (s, .wait)
  else if bit (wGet w o.b.toNat) 32 then
    match heldLocal i (teamOf s w) a size s with
    | .done (t, off) => (s, .done (t + 2, off, 0))
    | .wait => (s, .wait)
    | .trap t => (s, .trap t)
  else
    let r := heldXlat i .read a size false s
    match r.2 with
    | .done (.loc pa mt) => (r.1, .done (0, pa, mt))
    | .done (.fab dev pa) => (r.1, .done (1, dev * 2 ^ 48 + pa, 0))
    | .wait => (r.1, .wait)
    | .trap t => (r.1, .trap t)

/-- WAITA (R223): a value that differs completes it at once, else the subgroup sleeps. -/
def execWaita (o : SY) (s : State) : Out :=
  let size := if o.x then 8 else 4
  let d := o.d.toNat
  .next (heldThen (active s) (waitaTarget o s) (fun p s =>
    let w := curWave s
    let a : WaitA := { d, size, place := p.1, addr := p.2.1, mt := p.2.2, since := s.clock, timeout := (wGet w o.b.toNat).toNat % 2 ^ 32, va := wGet w o.a.toNat, h := (issuer s).h }
    let r := waitaRead w.cluster a s
    if r.2 != (wGet w d).toNat % 2 ^ (8 * size) then advance 1 (setW d (BitVec.ofNat 64 r.2) r.1)
    else waitHere (.waita a) r.1))

/-! ### Completion barriers (R224, R225) -/

/-- The check of R224 after an expectation or an arrival. -/
def cbCheck (x : Nat) : Nat :=
  let arr := x % 2 ^ 30
  let exp := x / 2 ^ 32 % 2 ^ 30
  if arr = exp && exp != 0 then x / 2 ^ 30 % 4 * 2 ^ 30 + x / 2 ^ 62 % 2 * 2 ^ 62 + (1 - x / 2 ^ 63) * 2 ^ 63 else x

/-- EXP raised by n, or none past 2^30 - 1. -/
def cbExpected (n x : Nat) : Option Nat :=
  if x / 2 ^ 32 % 2 ^ 30 + n < 2 ^ 30 then some (cbCheck (x + n * 2 ^ 32)) else none

/-- ARR raised by n, or none past 2^30 - 1. -/
def cbArrived (n x : Nat) : Option Nat := if x % 2 ^ 30 + n < 2 ^ 30 then some (cbCheck (x + n)) else none

/-- An abandoned command: ERR set and the phase completed (R224). -/
def cbAbandoned (x : Nat) : Nat := x / 2 ^ 30 % 4 * 2 ^ 30 + 2 ^ 62 + (1 - x / 2 ^ 63) * 2 ^ 63

/-- The barrier word of a team at an offset. -/
def cbWord (s : State) (p : Nat × Nat) : Nat := leNat (lmRead s p.1 p.2 8)

def cbPut (p : Nat × Nat) (x : Nat) (s : State) : State := lmWrite p.1 p.2 (leBytes 8 x) s

/-- A barrier instruction: its address checked, then its step (R225), after a logged .acq access of its lanes (R98). -/
def cbInstr (o : SY) (k : Nat × Nat → State → State) (s : State) : State :=
  let w := curWave s
  heldThen (active s) (s, if acqHolds w (active s) then .wait else heldLocal (issuer s) (teamOf s w) (wGet w o.a.toNat) 8 s) k

/-- CBERR in the thread (R224, R333). -/
def cbErr (o : SY) (s : State) : State := instrTrap (active s) cCBERR (wGet (curWave s) o.a.toNat) s

/-- A count of B[63:30] that is not 0 traps CBERR; else the step, which may refuse to pass 2^30 - 1. -/
def cbCount (o : SY) (f : Nat → Nat → Option Nat) (p : Nat × Nat) (s : State) : State :=
  let b := (wGet (curWave s) o.b.toNat).toNat
  if 2 ^ 30 ≤ b then cbErr o s
  else match f b (cbWord s p) with
    | some x => advance 1 (cbPut p x s)
    | none => cbErr o s

/-- CBINIT (R225). -/
def execCbinit (o : SY) (s : State) : Out := .next (cbInstr o (cbCount o (fun b _ => some (b * 2 ^ 32))) s)

/-- CBEXPECT (R225). -/
def execCbexpect (o : SY) (s : State) : Out := .next (cbInstr o (cbCount o cbExpected) s)

/-- CBARRIVE (R225): a release at SCOPE first. -/
def execCbarrive (o : SY) (s : State) : Out :=
  .next (cbInstr o (fun p s => if !releaseReady o.scope.toNat s then releaseWait o.scope.toNat s
    else cbCount o cbArrived p (releaseDrain o.scope.toNat s)) s)

/-- PH differs from X. -/
def cbFlipped (o : SY) (p : Nat × Nat) (s : State) : Bool := (cbWord s p / 2 ^ 63 == 1) != o.x

/-- CBWAIT (R225). -/
def execCbwait (o : SY) (s : State) : Out :=
  .next (cbInstr o (fun p s => if cbFlipped o p s then advance 1 s else waitHere .retry s) s)

/-- CBTEST (R225). -/
def execCbtest (o : SY) (s : State) : Out :=
  .next (cbInstr o (fun p s => advance 1 (setW o.d.toNat (BitVec.ofNat 64 (cbFlipped o p s).toNat) s)) s)

end Sys2Proof.Machine
end

