-- ==== Sys2Proof/Machine/Array.lean ====
section
/-! DEFINITION. The tensor array of a cluster: whose state it holds, the image layout and the exchange pool, requester positions and leases
(R235 to R241, R353). -/

namespace Sys2Proof.Machine

def updTensor (c : Nat) (f : Tensor → Tensor) (s : State) : State := updCluster c (fun x => { x with tensor := f x.tensor }) s
def getTensor (s : State) (c : Nat) : Tensor := (getCluster s c).tensor

/-- The array state of a team: in its cluster's array, or beside it (R236). -/
def arrOf (s : State) (c team : Nat) : ArrayState :=
  if (getTensor s c).team = some team then (getTensor s c).arr else match getTeam s team with | some t => t.arr | none => {}

def updArr (c team : Nat) (f : ArrayState → ArrayState) (s : State) : State :=
  if (getTensor s c).team = some team then updTensor c (fun x => { x with arr := f x.arr }) s
  else updTeam team (fun t => { t with arr := f t.arr }) s

/-! ### The image (R353) -/

/-- Major opcode and FN of a command, as TCAUSE and records name it. -/
def cmdCode (i : Instr) : Nat × Nat :=
  match encode i with
  | some (w, some p) => (majorOf w, p.toNat / 2 ^ 28)
  | some (w, none) => (majorOf w, 0)
  | none => (0, 0)

/-- The words of a command, as one number. -/
def cmdWords (i : Instr) : Nat :=
  match encode i with
  | some (w, some p) => p.toNat * 2 ^ 32 + w.toNat
  | some (w, none) => w.toNat
  | none => 0

/-- Requester position of a wave or thread (R239). -/
def posOf (w : Wave) : Nat := if w.cart then 64 + 8 * w.unit + w.slot else 16 * w.unit + w.slot

def posOfId (s : State) (k : Nat) : Nat := match s.waves.find? (fun w => w.id == k) with | some w => posOf w | none => 0

/-- The operands of a command as the image holds them: the captured shape word first, where the command has one. -/
def keptOps (c : EngCmd) : List W64 :=
  match c.ins, c.ops with
  | .tcon _ _, l => l
  | _, a :: sh :: r => sh :: a :: r
  | _, l => l

/-- The 64 bytes of a kept command: its words, then its captured shape word and operands. -/
def keptBytes (c : EngCmd) : List Byte :=
  (leBytes 8 (cmdWords c.ins) ++ ((keptOps c).take 7).foldl (fun acc x => acc ++ leBytes 8 x.toNat) [] ++ leBytes 56 0).take 64

/-- Byte of the image at an offset. -/
def imageByte (pos : Nat) (a : ArrayState) (o : Nat) : Byte :=
  let word (x : W32) (k : Nat) : Byte := BitVec.ofNat 8 (x.toNat / 2 ^ (8 * k))
  if o < 0x80000 then word (aget 0 a.acc (o / 4)) (o % 4)
  else if o < 0x90000 then
    let l := if o < 0x88000 then a.bl0 else a.bl1
    word (nth 0 (nth [] l.cols (o % 0x8000 / 256)) (o % 256 / 4)) (o % 4)
  else if o < 0x91000 then word (aget 0 a.scale (o % 0x1000 / 4)) (o % 4)
  else if o < 0x91080 then
    BitVec.ofNat 8 ((span 0 8).map (fun b => if a.scale.any (fun p => p.1 == (o - 0x91000) * 8 + b) then 2 ^ b else 0)).sum
  else if o < 0x91084 then word (BitVec.ofNat 32 (a.bl0.ty + a.bl0.nw * 2 ^ 8 + a.bl1.ty * 2 ^ 16 + a.bl1.nw * 2 ^ 24)) (o % 4)
  else if o < 0x91088 then word (BitVec.ofNat 32 a.ring) (o % 4)
  else if o < 0x91094 then
    match a.tcon with
    | none => 0
    | some t => if o < 0x91090 then BitVec.ofNat 8 ((nth 0 t.cmd.ops 0).toNat / 2 ^ (8 * (o - 0x91088))) else BitVec.ofNat 8 (t.next / 2 ^ (8 * (o - 0x91090)))
  else if o = 0x91094 then BitVec.ofNat 8 pos
  else if o = 0x91095 then BitVec.ofNat 8 (a.tcon.isSome.toNat + 2 * a.kept.isSome.toNat)
  else if 0x910C0 ≤ o && o < 0x91100 then (match a.kept with | some c => nth 0 (keptBytes c) (o - 0x910C0) | none => 0)
  else 0

/-- The image of a team's array state: 598,016 bytes. -/
def imageBytes (a : ArrayState) : List Byte :=
  let pos := match a.tcon with | some t => t.cmd.pos | none => 0
  (span 0 598016).map (imageByte pos a)

/-! ### The exchange pool (R236, R237) -/

def poolOn (x : Ctx) : Bool := bit x.txpool 0
def poolCount (x : Ctx) : Nat := (fld x.txpool 1 11).toNat
def poolBase (x : Ctx) : Nat := (fld x.txpool 12 36).toNat * 4096

/-- The lowest free slot of a context's pool. -/
def freePool (s : State) (ctx : Nat) : Option Nat :=
  let x := getCtx s ctx
  if poolOn x then (span 0 (poolCount x)).find? (fun k => !(s.teams.any (fun t => t.ctx == ctx && t.pool == some k))) else none

/-- The team whose state the array holds and which has not retired. -/
def arrayTeam (s : State) (c : Nat) : Option Team := ((getTensor s c).team.bind (getTeam s)).filter (fun t => !t.retired)

/-- The array can take a team's state. -/
def canExchange (s : State) (c team : Nat) : Bool :=
  match arrayTeam s c with
  | none => true
  | some t => t.id == team || (freePool s t.ctx).isSome

/-- The team's state is brought into the array: the outgoing image goes to a slot of its context's pool, physically, and the incoming one returns from
its own, or is the initial image. -/
def exchange (c team : Nat) (s : State) : State :=
  if (arrayTeam s c).any (fun t => t.id == team) then s
  else
    let s1 := match arrayTeam s c with
      | none => s
      | some t =>
        match freePool s t.ctx with
        | none => s
        | some k =>
          let a := (getTensor s c).arr
          let s' := writeTarget c (.loc (poolBase (getCtx s t.ctx) + 598016 * k) 0) (imageBytes a) s
          updTeam t.id (fun t => { t with arr := a, pool := some k }) s'
    let a := match getTeam s1 team with | some t => t.arr | none => {}
    updTeam team (fun t => { t with pool := none, arr := {} }) (updTensor c (fun x => { x with team := some team, arr := a }) s1)

/-! ### Leases (R239 to R241) -/

/-- The sequencer executes a command that has not completed: a TCON that runs, or a TRING that waits. -/
def seqBusy (x : Tensor) : Bool := x.ringCmd.isSome || (match x.arr.tcon with | some t => !t.suspended | none => false)

/-- A request joins the others; one for the commands of the same wave gives way to it. -/
def putReq (c : Nat) (r : ArrReq) (s : State) : State :=
  let s1 := updTensor c (fun x => { x with reqs := x.reqs.filter (fun q => q.wave != r.wave || (q.kind == .scale) != (r.kind == .scale)) ++ [r] }) s
  if (getTensor s1 c).holder.isNone then post c .leaseGrant s1 else s1

/-- The event is a step of the sequencer of a cluster. -/
def arrayEvent (c : Nat) (e : Nat × Instr) : Bool := e.1 == c && (e.2 == .tensorCommandDone || e.2 == .tconStep)

/-- A wave asks for the array. -/
def requestLease (k n : Nat) (s : State) : State :=
  match s.waves.find? (fun w => w.id == k) with
  | none => s
  | some w => putReq w.cluster { wave := k, team := w.team, pos := posOf w, kind := .lease } (updWave k (fun w => { w with lease := .requesting, leaseN := n }) s)

/-- The contraction that the array's team has not completed is the wave's. -/
def tconBy (a : ArrayState) (k : Nat) : Bool := match a.tcon with | some t => t.cmd.wave == k | none => false

/-- The lease of the holder ends: a Holding wave becomes Lapsed, and the array is granted again. -/
def endLease (c : Nat) (s : State) : State :=
  match (getTensor s c).holder with
  | none => s
  | some k =>
    let s1 := updWave k (fun w => if w.lease = .holding then { w with lease := .lapsed } else w) s
    post c .leaseGrant (updTensor c (fun x => { x with holder := none, left := 0, ending := false, lastPos := posOfId s k }) s1)

/-- The lease ends once nothing accepted under it is left, if its commands are used up or it has been given up (R241, R242). -/
def leaseCheck (c : Nat) (s : State) : State :=
  let x := getTensor s c
  let gone := match x.holder with
    | some k => !(s.waves.any (fun w => w.id == k && w.lanes.any alive))
    | none => false
  if x.holder.isSome && x.running = 0 && (x.left = 0 || x.ending || gone) then endLease c s else s

/-- A wave gives up its lease, or its request, and passes to None (R242); a contraction of its own that is suspended goes on being asked for. -/
def giveUpLease (k : Nat) (s : State) : State :=
  match s.waves.find? (fun w => w.id == k) with
  | none => s
  | some w =>
    let s1 := updWave k (fun w => { w with
      lease := .none
      lanes := w.lanes.map (fun l => if l.st == .waiting .lease then { l with st := .waiting .retry } else l) }) s
    let holds := (getTensor s w.cluster).holder == some k
    let own := tconBy (arrOf s w.cluster w.team) k
    let s2 := updTensor w.cluster (fun x => { x with
      reqs := (x.reqs.filter (fun r => r.wave != k || r.kind != .lease || own)).map (fun r => if r.wave == k && r.kind == .lease then { r with kind := .tcon } else r)
      ending := x.ending || holds }) s1
    leaseCheck w.cluster s2

/-- Distance of a requester position after the last holder's, ascending with wrap. -/
def afterLast (s : State) (c pos : Nat) : Nat := (pos + 191 - (getTensor s c).lastPos) % 192

/-- The request that is granted next: the first position for which the array can be had (R236, R239). -/
def nextGrant (s : State) (c : Nat) : Option ArrReq :=
  (sortBy (fun r => afterLast s c r.pos) (getTensor s c).reqs).find? (fun r => canExchange s c r.team)

/-- Lanes that waited in TLEASE go on. -/
def leaveLease (l : Lane) : Lane :=
  match l.st with
  | .waiting .lease => { l with st := .ready, pc := l.pc + 4 }
  | _ => if l.before == .waiting .lease && tcCONV l.tcause then { l with before := .ready, tepc := l.tepc + 4 } else l

/-- Every member of the gang of a team has a TRING to start (R254). -/
def ringReady (s : State) (t : Team) : Bool :=
  (gangTeams s t).all (fun m => (getTensor s m.cluster).team == some m.id && (getTensor s m.cluster).ringCmd.isSome)

/-- LEASE_EXPIRY (R241, R262): after 8192 cycles the lease lapses; a TCON of the holder that executes stops at its step boundary, and a request is queued in its
issuer's name; any other command runs to its end. -/
def execLeaseExpiry (s : State) : Out :=
  let c := s.site
  let x := getTensor s c
  .next (match x.holder with
    | none => s
    | some k =>
      if s.clock < x.since + 8192 then s
      else if tconBy x.arr k && (match x.arr.tcon with | some t => !t.suspended | none => false) then
        let s1 := updTensor c (fun x => { x with
          running := x.running - 1, ending := true, ringCmd := none, arr := { x.arr with tcon := x.arr.tcon.map (fun t => { t with suspended := true }) } }) s
        leaseCheck c (match s1.waves.find? (fun w => w.id == k) with
          | none => s1
          | some w =>
            if w.lease = .holding || w.lease = .requesting then requestLease k w.leaseN s1
            else putReq c { wave := k, team := w.team, pos := posOf w, kind := .tcon } s1)
      else
        leaseCheck c (updTensor c (fun x => { x with ending := true }) (updWave k (fun w => if w.lease = .holding then { w with lease := .lapsed } else w) s)))

end Sys2Proof.Machine
end

