-- ==== Sys2Proof/Machine/Control.lean ====
section
/-! DEFINITION. Control transfer (R201 to R207): branches and their splitting or uniformity assertion, calls, exit, yield, traps and breakpoints. -/

namespace Sys2Proof.Machine

/-- The target of a BR instruction: its packet's address + 16 * OFF18 (R160, R202). -/
def brTarget (o : BR) (pc : W64) : W64 := packetOf pc + BitVec.ofNat 64 (wrap 64 (sgn 18 o.off.toNat * 16))

/-- Bits [51:4] of an address, as MEET and LINK hold them (R143, R203). -/
def packetBits (a : W64) : W64 := BitVec.ofNat 64 (a.toNat % 2 ^ 52 / 16 * 16)

/-- The traps of a failed uniformity assertion (R145): the active lanes whose next PC differs from that of the lowest lane. -/
def uniformTraps (next : Lane → W64) (pc : W64) (act : List Lane) : List (Nat × LaneTrap) :=
  match act with
  | [] => []
  | l :: r => (r.filter (fun k => next k != next l)).map (fun k => (k.id, { code := cUNIFORM, tepc := pc }))

/-- A control transfer of the issuing subgroup (R144, R145, R202): selected lanes take their targets, the others the next word; with U the lanes must
agree, without it the subgroup splits. `eff` is what a taken lane records. -/
def branch (g : BitVec 4) (n u : Bool) (target : Lane → W64) (eff : Lane → Lane) (s : State) : State :=
  let w := curWave s
  let pc := curPc s
  let next : Lane → W64 := fun l => if selects w g n l then target l else l.pc + 4
  let ts := if u && !w.cart then uniformTraps next pc (active s) else []
  if !ts.isEmpty then takeConverged ts s
  else regroup (mapActive (fun l => if selects w g n l then { eff l with pc := target l } else { l with pc := l.pc + 4 }) s)

/-- BRA (R202). -/
def execBra (o : BR) (s : State) : Out := .next (branch o.g o.n o.u (fun l => brTarget o l.pc) id s)

/-- CALL (R202, R203). -/
def execCall (o : BR) (s : State) : Out :=
  .next (branch o.g o.n o.u (fun l => brTarget o l.pc) (fun l => { l with link := packetBits (packetOf l.pc + 16) }) s)

/-- SETMEET (R143, R202). -/
def execSetmeet (o : BR) (s : State) : Out :=
  let w := curWave s
  .next (advance 1 (mapActive (fun l => if selects w o.g o.n l then { l with meet := packetBits (brTarget o l.pc) } else l) s))

/-- The trap of a register target (R204). -/
def targetTrap (t pc : W64) : Option LaneTrap :=
  if t.toNat % 16 != 0 then some { code := cALIGN, tval := t, tepc := pc }
  else if !canonical t then some { code := cNONCANON, tval := t, tepc := pc }
  else none

/-- A transfer through a register (R204): lanes with a bad target trap, the others branch. The subgroup that traps takes a free slot before the groups that branch
(R144, R336): DESIGN CHOICE (log 89). -/
def branchReg (g : BitVec 4) (n u : Bool) (target : Wave → Lane → W64) (s : State) : State :=
  let w := curWave s
  let pc := curPc s
  let next : Lane → W64 := fun l => if selects w g n l then target w l else l.pc + 4
  let ts := if u && !w.cart then uniformTraps next pc (active s) else []
  if !ts.isEmpty then takeConverged ts s
  else
    let bad : List (Nat × LaneTrap) := (selected s g n).filterMap (fun l => (targetTrap (target w l) pc).map (fun t => (l.id, t)))
    regroup (takeTraps bad (mapActive (fun l =>
      if bad.any (fun b => b.1 == l.id) then l
      else if selects w g n l then { l with pc := target w l } else { l with pc := l.pc + 4 }) s))

/-- BRX (R204). -/
def execBrx (o : RG) (s : State) : Out :=
  .next (branchReg o.g o.n (bit o.b 0) (fun w l => BitVec.ofNat 64 (srcVal w l 64 (if o.x then .w else .v) o.a.toNat)) s)

/-- RET (R204). -/
def execRet (o : RG) (s : State) : Out :=
  .next (branchReg o.g o.n (bit o.b 0) (fun _ l => canon52 (l.link.toNat % 2 ^ 52 / 16 * 16)) s)

/-- EXIT (R205). -/
def execExit (o : Z) (s : State) : Out :=
  let ids := (selected s o.g o.n).map (·.id)
  .next (exitLanes s.cur.1 ids (advance 1 s))

/-- Slots of the wave's other Ready subgroups. -/
def otherSlots (s : State) : List Nat :=
  ((curWave s).lanes.filter (fun l => l.st == .ready && l.slot != s.cur.2)).map (·.slot)

/-- The other waves of the carriage, or threads of the cart, with a Ready lane. -/
def otherWaves (s : State) : List Nat :=
  let w := curWave s
  (s.waves.filter (fun x => x.id != w.id && x.cart == w.cart && x.cluster == w.cluster && x.unit == w.unit && !x.halted &&
    x.lanes.any (fun l => l.st == .ready))).map (·.id)

/-- YIELD (R206). -/
def execYieldv (_ : Z) (s : State) : Out :=
  let a := otherSlots s
  let b := otherWaves s
  let s1 := advance 1 s
  .next (if a.isEmpty && b.isEmpty then s1 else waitHere (.yield a b) s1)

/-- NOP (R206). -/
def execNop (_ : Z) (s : State) : Out := .next (advance 1 s)

/-- A trap that every selected lane raises (R207, R356). -/
def softTrap (g : BitVec 4) (n : Bool) (t : W64 → LaneTrap) (s : State) : State :=
  let pc := curPc s
  let ids := (selected s g n).map (·.id)
  takeTraps (ids.map (fun i => (i, t pc))) (advance 1 s)

/-- TRAP (R207). -/
def execTrap (o : Z) (s : State) : Out :=
  .next (softTrap o.g o.n (fun pc => { code := cBKPT, tval := BitVec.ofNat 64 (2 ^ 16 + o.code.toNat), tepc := pc + 4 }) s)

/-- BKPT (R207). -/
def execBkpt (o : Z) (s : State) : Out :=
  .next (softTrap o.g o.n (fun pc => { code := cBKPT, tval := BitVec.ofNat 64 o.code.toNat, tepc := pc }) s)

/-- SYSC (R356). -/
def execSysc (o : Z) (s : State) : Out :=
  .next (softTrap o.g o.n (fun pc => { code := cSYSC, tval := BitVec.ofNat 64 o.code.toNat, tepc := pc + 4 }) s)

end Sys2Proof.Machine
end

