-- ==== Sys2Proof/Machine/Coupler.lean ====
section
/-! DEFINITION. The coupler, the release queue and the cart dispatch queue of a cluster; MBPOST, REORDER, MIGRATE and CPLFLUSH (R148 to R153, R308 to R312). -/

namespace Sys2Proof.Machine

/-! ### Open waves (R149, R150, R152) -/

/-- The open wave has this key. -/
def hasKey (team ctx : Nat) (key : CplKey) (x : OpenWave) : Bool := x.team == team && x.ctx == ctx && x.key == key

/-- The due wave that became due first. -/
def firstDue (c : Cluster) : Option OpenWave :=
  let ds := c.opens.filter (fun x => x.due.isSome)
  match least (ds.filterMap (·.due)) with
  | none => none
  | some k => ds.find? (fun x => x.due == some k)

/-- Due waves released in order while the release queue of 16 has room. -/
def releaseDue : Nat → Cluster → Cluster
  | 0, c => c
  | n + 1, c =>
    if 16 ≤ c.releaseQ.length then c
    else match firstDue c with
      | none => c
      | some x => releaseDue n { c with opens := c.opens.filter (fun y => y.due != x.due), releaseQ := c.releaseQ ++ [x] }

/-- Open waves that meet a condition become due: those that met it earlier, by `when_`, before the others, and in order of their opening where there is no
difference (R150). -/
def makeDue (p : OpenWave → Bool) (when_ : OpenWave → Nat) (c : Cluster) : Cluster :=
  let new := sortBy (fun q => when_ q.1) (c.opens.zipIdx.filter (fun q => p q.1 && q.1.due.isNone))
  { c with
    opens := c.opens.zipIdx.map (fun q => if p q.1 && q.1.due.isNone then { q.1 with due := some (c.dueCount + new.findIdx (·.2 == q.2)) } else q.1)
    dueCount := c.dueCount + new.length }

/-- Waves made due are released as far as there is room; admission moves next. -/
def releaseBy (c : Nat) (p : OpenWave → Bool) (when_ : OpenWave → Nat) (s : State) : State :=
  let s1 := updCluster c (fun x => releaseDue 9 (makeDue p when_ x)) s
  if (getCluster s1 c).releaseQ.isEmpty then s1 else post c .waveAdmit s1

/-- Waves made due together. -/
def releaseWhere (c : Nat) (p : OpenWave → Bool) (s : State) : State := releaseBy c p (fun _ => 0) s

/-- The oldest open wave by its first lane's arrival: the first in order of opening. -/
def oldestOpen (c : Cluster) : Option OpenWave := c.opens.head?

/-- The coupler takes a lane with a key (R149, R150, R152), or refuses it. -/
def couplerTake (c team ctx : Nat) (key : CplKey) (lr : LaunchRec) (x : Start) (s : State) : Option State :=
  let k := getCluster s c
  match k.opens.find? (hasKey team ctx key) with
  | some o =>
    if 128 ≤ o.lanes.length then none
    else
      let s1 := updCluster c (fun k => { k with opens := k.opens.map (fun y => if hasKey team ctx key y then { y with lanes := y.lanes ++ [x] } else y) }) s
      some (releaseWhere c (fun y => hasKey team ctx key y && decide (128 ≤ y.lanes.length)) s1)
  | none =>
    if 16 ≤ k.releaseQ.length then none
    else
      let s1 := if k.opens.length < 8 then s else releaseWhere c (fun y => oldestOpen k == some y) s
      let o : OpenWave := { team, ctx, key, lr, lanes := [x], timeout := k.cplTimeout.toNat, since := s.clock }
      some (updCluster c (fun k => { k with opens := k.opens ++ [o] }) s1)

/-! ### Sources and acceptance (R149, R152, R153, R311) -/

/-- Position of a source in the coupler's order: carts by cart, then thread; waves by carriage, then slot. -/
def srcOf (w : Wave) : Nat := if w.cart then 8 * w.unit + w.slot else 128 + 16 * w.unit + w.slot

/-- The lane of an offer still waits for it. -/
def offerLive (s : State) (o : Offer) : Bool :=
  s.waves.any (fun w => w.id == o.wave && w.lanes.any (fun l => l.id == o.lane && l.st == .waiting .accept))

/-- The offer's lane has been accepted: Exited, or past its instruction. -/
def offerDone (o : Offer) (s : State) : State :=
  if o.exits then exitLanes o.wave [o.lane] s else mapLanesOf o.wave [o.lane] (fun l => { l with st := .ready, pc := l.pc + 8 }) s

/-- An offer accepted by the coupler or the cart dispatch queue, if it can be. -/
def takeOffer (c : Nat) (o : Offer) (s : State) : Option State :=
  match o.key with
  | some key => couplerTake c o.team o.ctx key o.lr o.start s
  | none =>
    if 64 ≤ (getCluster s c).dispatchQ.length then none
    else some (post c .cartDispatch
      (updCluster c (fun k => { k with dispatchQ := k.dispatchQ ++ [{ team := o.team, ctx := o.ctx, lr := o.lr, start := o.start }] }) s))

def dropOffer (c : Nat) (o : Offer) (s : State) : State := updCluster c (fun k => { k with offers := k.offers.filter (· != o) }) s

/-- A source of the coupler: a lane offered, or the queue manager's decision in flight (none), which comes after the waves (R149). -/
def srcPos (o : Option Offer) : Nat := match o with | some o => o.src | none => 192

/-- The first source of a list whose lane is accepted; `qm` is the queue manager's turn: the state after it, and whether a record was taken. -/
def takeFirst (c : Nat) (qm : State → State × Bool) : List (Option Offer) → State → State × Option (Option Offer)
  | [], s => (s, none)
  | none :: r, s => let q := qm s; if q.2 then (q.1, some none) else takeFirst c qm r q.1
  | some o :: r, s => match takeOffer c o s with | some t => (t, some (some o)) | none => takeFirst c qm r s

/-- Lanes accepted by the coupler one after another, round-robin over their sources, at most n; whether there was one. -/
def acceptLanes (c : Nat) (qm : State → State × Bool) : Nat → State → State × Bool
  | 0, s => (s, false)
  | n + 1, s =>
    let k := getCluster s c
    let live := (k.offers.filter (fun o => o.key.isSome)).map some ++ (if k.qmQ.isEmpty then [] else [none])
    let r := takeFirst c qm (sortBy (fun o => (srcPos o + 192 - k.cplLast) % 193) live) s
    match r.2 with
    | none => (r.1, false)
    | some x =>
      let t := updCluster c (fun k => { k with cplLast := srcPos x }) r.1
      ((acceptLanes c qm n (match x with | some o => offerDone o (dropOffer c o t) | none => t)).1, true)

/-- Lanes for the carts accepted by the dispatch queue, in the order they came, while it has room. -/
def acceptCarts (c : Nat) : List Offer → State → State
  | [], s => s
  | o :: r, s => match takeOffer c o s with | some t => acceptCarts c r (offerDone o (dropOffer c o t)) | none => s

/-- Offers whose lanes no longer wait for them are forgotten. -/
def pruneOffers (c : Nat) (s : State) : State := updCluster c (fun k => { k with offers := k.offers.filter (offerLive s) }) s

/-- Lanes or records wait for the coupler. -/
def couplerWork (k : Cluster) : Bool := k.offers.any (fun o => o.key.isSome) || !k.qmQ.isEmpty

/-- COUPLER_TIMEOUT (R150): open waves whose timeout has passed become due, in the order of their deadlines. -/
def execCouplerTimeout (s : State) : Out :=
  .next (releaseBy s.site (fun x => decide (x.since + x.timeout ≤ s.clock)) (fun x => x.since + x.timeout) s)

/-- WAVE_ADMIT (R152): the oldest released wave takes a slot of a carriage with room; which carriage and slot the manual leaves open. -/
def execWaveAdmit (s : State) : Out :=
  let c := s.site
  .next (match (getCluster s c).releaseQ with
    | [] => s
    | o :: rest =>
      let fit := (span 0 4).filter (fun u => !(waveSlots s c u).isEmpty && decide (regsUsed s c u + o.lr.regs ≤ 512))
      if fit.isEmpty || !clusterUp s c then s
      else
        let a := freeOrder fit s
        let u := nth 0 a.2 0
        let b := freeOrder (waveSlots s c u) a.1
        let s1 := addWave { cart := false, cluster := c, unit := u, slot := nth 0 b.2 0 } o.team none o.ctx o.lr
          ((span 0 o.lanes.length).map (fun i => (i, nth default o.lanes i))) b.1
        let s2 := releaseWhere c (fun _ => false) (updCluster c (fun k => { k with releaseQ := rest }) s1)
        if couplerWork (getCluster s2 c) then post c .couplerAccept s2 else s2)

/-- CART_DISPATCH (R153): the head of the dispatch queue starts on the first free hardware thread; lanes that wait for room then enter. -/
def execCartDispatch (s : State) : Out :=
  let c := s.site
  let s1 := match (getCluster s c).dispatchQ, freeThreads s c with
    | x :: rest, (u, t) :: _ =>
      if clusterUp s c then
        let s' := addWave { cart := true, cluster := c, unit := u, slot := t } x.team none x.ctx x.lr [(0, x.start)]
          (updCluster c (fun k => { k with dispatchQ := rest }) s)
        if rest.isEmpty then s' else post c .cartDispatch s'
      else s
    | _, _ => s
  let s2 := pruneOffers c s1
  .next (acceptCarts c ((getCluster s2 c).offers.filter (fun o => o.key.isNone)) s2)

/-! ### The instructions (R308 to R311) -/

/-- The launch record of a coupler instruction, read at issue after the issuer's earlier accesses, and checked (R309). -/
def withRecord (i : Instr) (ls : List Lane) (va : W64) (ok : LaunchRec → Bool) (k : LaunchRec → State → State) (s : State) : State :=
  if lanesPending s (curWave s) ls then waitHere .retry s
  else heldThen ls (readLaunch (.issue (issuer s)) va s) (fun r s =>
    match r with
    | some lr => if ok lr then k lr s else illOperands i ls s
    | none => illOperands i ls s)

/-- Lanes handed over; they wait until they are accepted. -/
def handOver (c : Nat) (os : List Offer) (s : State) : State :=
  let s1 := updCluster c (fun k => { k with offers := k.offers ++ os }) s
  let s2 := mapLanes (os.map (·.lane)) (fun l => { l with st := .waiting .accept }) s1
  if os.any (fun o => o.key.isSome) then post c .couplerAccept s2 else post c .cartDispatch s2

/-- Another source may compete for the coupler in this cycle. -/
def contended (c : Nat) (s : State) : Bool :=
  !(getCluster s c).offers.isEmpty || s.waves.any (fun w => w.id != s.cur.1 && w.cluster == c && w.lanes.any alive)
    || !(getCluster s c).qmQ.isEmpty || (getDie s (c / 64)).slots.any (fun p => p.2.head != p.2.tail)

/-- Lanes offered for this cycle only (.nb): the coupler takes at most 4, fewer where other sources compete; the accepted lanes. -/
def offerNow (c : Nat) : Nat → List Offer → State → State × List Nat
  | _, [], s => (s, [])
  | 0, _, s => (s, [])
  | n + 1, o :: r, s =>
    let busy := o.key.isSome && contended c s
    let s1 := if busy then { s with free := s.free + 1 } else s
    if busy && Config.pick s.free then offerNow c n r s1
    else match takeOffer c o s1 with
      | some t => let q := offerNow c n r t; (q.1, o.lane :: q.2)
      | none => offerNow c n r s1

/-- Where a posted lane starts (R310). -/
def postStart (w : Wave) (n : Nat) (lr : LaunchRec) : Start :=
  { pc := lr.entry, m := [], v := (span 0 (2 * n)).map (fun i => if i % 2 = 0 then fld (mbGet w (i / 2)) 0 32 else fld (mbGet w (i / 2)) 32 32) }

/-- Where a reordered or migrated lane starts (R148, R310). SCOPETAB.IDX is 0 in it: R310 gives 0 to every register that its table does not name. -/
def moveStart (w : Wave) (l : Lane) (lr : LaunchRec) : Start :=
  { pc := lr.entry, v := (span 0 32).map (vGet l), m := (span 0 8).map (fun k => mBit w k l.id), fpflags := l.fpflags, fpen := l.fpen
    mover := some (w.id, l.id) }

/-- The offer of a lane of the issuing wave. -/
def offerOf (w : Wave) (l : Lane) (key : Option CplKey) (lr : LaunchRec) (x : Start) (exits : Bool) : Offer :=
  { wave := w.id, lane := l.id, src := srcOf w, ctx := w.ctx, team := w.team, key, lr, start := x, exits }

/-- MBPOST (R308 to R311). -/
def execMbpost (h : RG) (p : MbpostP) (s : State) : Out :=
  let w := curWave s
  let n := p.n.toNat + 1
  .next (match selected s h.g h.n with
    | [] => advance 2 s
    | ls => withRecord (.mbpost h p) ls (wGet w h.a.toNat) (fun lr => !lr.cart && decide (2 * n ≤ lr.regs)) (fun lr s =>
        let os := ls.map (fun l => offerOf w l (some (.entry lr.entry)) lr (postStart w n lr) false)
        if h.x then let r := offerNow w.cluster 4 os s; advance 2 (setW h.d.toNat (if r.2.isEmpty then 1 else 0) r.1)
        else handOver w.cluster os s) s)

/-- REORDER (R308 to R311): a FENCE.full at .cl, then every selected lane goes to the coupler; the others continue. -/
def execReorder (h : RG) (p : NoP) (s : State) : Out :=
  let w := curWave s
  .next (match selected s h.g h.n with
    | [] => advance 2 s
    | ls =>
      if !fullReady 0 s then releaseWait 0 s
      else withRecord (.reorder h p) ls (wGet w h.b.toNat) (fun lr => !lr.cart && decide (32 ≤ lr.regs)) (fun lr s =>
        let os := ls.map (fun l => offerOf w l (some (.reorder (vGet l h.a.toNat))) lr (moveStart w l lr) true)
        let s1 := mapActive (fun l => if selects w h.g h.n l then l else { l with pc := l.pc + 8 }) s
        handOver w.cluster os s1) s)

/-- MIGRATE (R148, R308 to R311). -/
def execMigrate (h : RG) (p : NoP) (s : State) : Out :=
  let w := curWave s
  .next (match selected s h.g h.n with
    | [] => advance 2 s
    | ls =>
      if !fullReady 0 s then releaseWait 0 s
      else withRecord (.migrate h p) ls (wGet w h.a.toNat) (fun lr => if w.cart then !lr.cart && decide (32 ≤ lr.regs) else lr.cart) (fun lr s =>
        let key := if w.cart then some (CplKey.entry lr.entry) else none
        let os := ls.map (fun l => offerOf w l key lr (moveStart w l lr) true)
        if h.x then
          let r := offerNow w.cluster (if w.cart then 4 else 64) os s
          let s1 := exitLanes w.id r.2 r.1
          advance 2 (mapLanes ((ls.filter (fun l => !r.2.contains l.id)).map (·.id)) (setV h.d.toNat 1) s1)
        else
          let s1 := mapActive (fun l => if selects w h.g h.n l then l else { l with pc := l.pc + 8 }) s
          handOver w.cluster os s1) s)

/-! ### CPLFLUSH (R312) -/

/-- The open waves of the issuer's team and context that a CPLFLUSH names become due. -/
def flushOpens (p : CplKey → Bool) (s : State) : State :=
  let w := curWave s
  advance 1 (releaseWhere w.cluster (fun x => x.team == w.team && x.ctx == w.ctx && p x.key) s)

/-- CPLFLUSH (R312). -/
def execCplflush (_ : RG) (s : State) : Out := .next (flushOpens (fun _ => true) s)

/-- CPLFLUSH.pc (R312). -/
def execCplflushPc (o : RG) (s : State) : Out := .next (flushOpens (· == .entry (wGet (curWave s) o.a.toNat)) s)

/-- CPLFLUSH.key (R312). -/
def execCplflushKey (o : RG) (s : State) : Out := .next (flushOpens (· == .reorder (fld (wGet (curWave s) o.a.toNat) 0 32)) s)

end Sys2Proof.Machine
end

