-- ==== Sys2Proof/Machine/Engines.lean ====
section
/-! DEFINITION. The asynchronous engines: how a command is accepted, arrives at its completion barrier and is handed back; copies, publishes and
collectives; cache maintenance (R84 to R87, R109, R224, R229 to R234, R343). -/

namespace Sys2Proof.Machine

/-! ### Hand-back (R343) -/

/-- The team of a command that its barrier belongs to has not retired. -/
def cmdTeam (s : State) (c : EngCmd) : Option Team := (getTeam s c.team).filter (fun t => !t.retired)

/-- The barrier word of a command, if its address still names one. -/
def cmdBarrier (s : State) (c : EngCmd) (cb : W64) : Option (Nat × Nat) := (cmdTeam s c).bind (fun t => localTarget s t (cb.toNat % 2 ^ 32) 8)

/-- A command has ended: the answers of peers that were for it are of no more use (R368). -/
def forget (s : State) : State := { s with answers := s.answers.filter (fun a => a.agent != agentOf s) }

/-- A command that cannot go on is handed back; ENGINE_HANDBACK delivers it. -/
def handBack (c : EngCmd) (cause : Nat) (tval : W64) (offset : Nat) (cb : Option W64) (s : State) : State :=
  let t : LaneTrap := { code := cause, tval, targ := BitVec.ofNat 64 offset, eh := true, eop := (cmdCode c.ins).1, efn := (cmdCode c.ins).2 }
  let s := forget s
  post s.nextId .engineHandback { s with nextId := s.nextId + 1, hands := s.hands ++ [{ id := s.nextId, trap := t, cmd := c, cb }] }

/-- The lane stands at an instruction boundary: nothing of an instruction that it has begun is still to come. A Parked or Overflowed lane does, and takes a due
hand-back there (R143, R343): DEDUCED (log 94). -/
def atBoundary (l : Lane) : Bool :=
  match l.st with
  | .ready => true
  | .parked => true
  | .overflowed => true
  | .waiting .retry => true
  | .waiting (.wide _) => true
  | .waiting (.data _) => true
  | .waiting (.first _) => true
  | _ => false

/-- The wave a command came from, if it is resident, and the lowest of the command's lanes that has not exited. -/
def handLane (s : State) (h : Hand) : Option (Wave × Lane) :=
  match s.waves.find? (fun w => w.id == h.cmd.wave) with
  | none => none
  | some w => (w.lanes.find? (fun l => alive l && h.cmd.lanes.contains l.id)).map (fun l => (w, l))

/-- The context is saved, or on its way out: what it left behind waits. -/
def ctxAway (s : State) (ctx : Nat) : Bool :=
  match (getCtx s ctx).stat with
  | .live => false
  | .resuming => false
  | _ => true

/-- A lane of the command is saved, and is still to be placed on a cluster (R348). -/
def handSaved (s : State) (h : Hand) : Bool :=
  (getCtx s h.cmd.ctx).saved.waves.any (fun w => w.id == h.cmd.wave && w.lanes.any (fun l => alive l && h.cmd.lanes.contains l.id))

/-- A hand-back can be delivered now, or abandoned. -/
def handReady (s : State) (h : Hand) : Bool :=
  !ctxAway s h.cmd.ctx && (match handLane s h with | some (w, l) => !w.halted && atBoundary l && !l.h | none => !handSaved s h)

/-- The remainder of a command whose lanes have all exited is abandoned (R343): its barrier marked and its phase completed, and a message posted, whose LANE, WAVE,
CL and PC are 0: DESIGN CHOICE (log 95). -/
def abandon (h : Hand) (s : State) : State :=
  let s1 := match h.cb.bind (cmdBarrier s h.cmd) with
    | some p => cbPut p (cbAbandoned (cbWord s p)) s
    | none => s
  if supvOn s1 h.cmd.ctx
  then postOrQueue { ctx := h.cmd.ctx, cluster := h.cmd.cluster, msg := h.trap.tval.toNat * 2 ^ 128 + h.trap.code % 256 * 2 ^ 102 } s1 else s1

/-- ENGINE_HANDBACK (R343), for the hand-back whose number is the site: the lowest lane that has not exited traps at its next boundary with H = 0. -/
def execEngineHandback (s : State) : Out :=
  .next (match s.hands.find? (fun h => h.id == s.site) with
    | none => s
    | some h =>
      if !handReady s h then s
      else
        let s1 := { s with hands := s.hands.filter (fun x => x.id != h.id) }
        match handLane s1 h with
        | some (w, l) => takeTrapsOf w.id [(l.id, { h.trap with tepc := l.pc })] s1
        | none => abandon h s1)

/-- The arrival of a command at its barrier (R109, R224): a release at its scope, then the count; past 2^30 - 1 the command is handed back. -/
def engArrive (c : EngCmd) (cb : W64) (count scope length : Nat) (s : State) : State :=
  let s1 := forget (if 2 ≤ scope then drainRdc (c.cluster / 64) s else s)
  match cmdBarrier s1 c cb with
  | none => s1
  | some p =>
    match cbArrived count (cbWord s1 p) with
    | some x => cbPut p x s1
    | none => handBack c cCBERR cb length (some cb) s1

/-! ### Acceptance -/

/-- The command as accepted. -/
def newCmd (i : Instr) (ls : List Lane) (ops : List W64) (s : State) : EngCmd :=
  let w := curWave s
  { ins := i, ctx := w.ctx, cluster := w.cluster, team := w.team, wave := w.id, lanes := ls.map (·.id), h := (issuer s).h, ops, pos := posOf w, seq := s.turn }

/-- A command whose barrier address is checked first (R230). It then waits for the earlier accesses of its lanes, which its engine may not pass where they are to
the same bytes (R97, R109), and as its REL asks. -/
def engIssue (h : RG) (cb : W64) (rel : Bool) (scope : Nat) (k : List Lane → State → State) (s : State) : State :=
  let w := curWave s
  match selected s h.g h.n with
  | [] => advance 2 s
  | ls =>
    heldThen ls (s, heldLocal (issuer s) (teamOf s w) cb 8 s) (fun _ s =>
      if lanesPending s w ls then waitHere .retry s
      else if rel && !releaseReady scope s then releaseWait scope s
      else k ls (if rel then releaseDrain scope s else s))

/-! ### Engine accesses (R29, R62) -/

/-- The request of an engine to the translation of its cluster. -/
def engReq (c : EngCmd) (acc : Acc) (va : W64) : XReq := { ctx := c.ctx, cluster := c.cluster, h := c.h, acc, va, size := 1, engine := true }

/-- A translation for an engine, once its address has been looked up: a target, or the cause that hands the command back. -/
def engXlat (c : EngCmd) (acc : Acc) (va : W64) (s : State) : State × Except Nat Target :=
  let r := xlat { engReq c acc va with now := true } s
  match r.2 with
  | .ok (.loc pa mt) => if acc = .read && poisoned r.1 pa then (r.1, .error cPROT) else (r.1, .ok (.loc pa mt))
  | .ok t => (r.1, .ok t)
  | .trap e _ => (r.1, .error e)
  | _ => (r.1, .error cPFAULT)

/-- The lines of package memory among n bytes of a target that the host may hold (R63). -/
def askedLines (s : State) (t : Target) (n : Nat) : List Nat :=
  match t with
  | .loc pa _ => ((linePieces pa n).map (fun p => p.1 / 64)).filter (fun l => decide (l * 64 < 2 ^ 47) && asksHost s l)
  | .fab _ _ => []

/-- The addresses of n bytes looked up, in 4 KiB steps (R29): misses are queued, and the host is asked for the lines that are to be written. The flag says whether
the engine has to wait. -/
def engLook (c : EngCmd) (acc : Acc) : Nat → W64 → Nat → State → State × Bool
  | 0, _, _, s => (s, false)
  | fuel + 1, va, n, s =>
    if n = 0 then (s, false)
    else
      let m := Nat.min n (4096 - va.toNat % 4096)
      let r := xlat (engReq c acc va) s
      let q : State × Bool := match r.2 with
        | .miss => (r.1, true)
        | .ok t => let ls := if acc = .write then askedLines r.1 t m else []; (askHost ls r.1, !ls.isEmpty)
        | _ => (r.1, false)
      let rest := engLook c acc fuel (va + BitVec.ofNat 64 m) (n - m) q.1
      (rest.1, q.2 || rest.2)

/-- A release of the engines of a die at a scope has to wait for the host's answers (R63). -/
def relLook (d scope : Nat) (s : State) : State × Bool := if scope < 2 then (s, false) else (askHost (unanswered s d) s, !(unanswered s d).isEmpty)

/-- Two lookups, one after the other. -/
def lookBoth (f g : State → State × Bool) (s : State) : State × Bool := let a := f s; let b := g a.1; (b.1, a.2 || b.2)

/-- Lookups, one after another. -/
def lookAll (fs : List (State → State × Bool)) (s : State) : State × Bool := fs.foldl (fun r f => let a := f r.1; (a.1, r.2 || a.2)) (s, false)

/-- The target of a fabric physical address (R14, R21). One that names this package is reached with memory type 01: DESIGN CHOICE (log 68). -/
def fabTarget (s : State) (fpa : Nat) : Except Nat Target :=
  let dev := fpa / 2 ^ 48 % 2 ^ 14
  let pa := fpa % 2 ^ 48
  if dev = s.boot.devIdx.toNat then (if exists_ s pa then .ok (.loc pa 1) else .error cPROT)
  else if devKnown s dev && !farFailed s dev pa true && !farFailed s dev pa false then .ok (.fab dev pa) else .error cREMOTE

/-- One end of an engine's transfer: virtual, local memory of the issuer's team, or fabric physical. -/
inductive End where
  | virt (va : W64)
  | lm (a : Nat)
  | fabric (fpa : Nat)
deriving DecidableEq, Repr, Inhabited

/-- The address that names a byte of an end. -/
def End.at : End → Nat → W64
  | .virt va, k => va + BitVec.ofNat 64 k
  | .lm a, k => BitVec.ofNat 64 (a + k)
  | .fabric a, k => BitVec.ofNat 64 (a + k)

/-- n bytes of an end from offset k, within one 4 KiB granule of a virtual end. -/
def endRead (c : EngCmd) (e : End) (k n : Nat) (s : State) : State × Except Nat (List Byte) :=
  match e with
  | .virt va =>
    let r := engXlat c .read (va + BitVec.ofNat 64 k) s
    match r.2 with
    | .ok t => let q := readTarget c.cluster t n r.1; (q.1, .ok q.2)
    | .error x => (r.1, .error x)
  | .lm a =>
    match (getTeam s c.team).bind (fun t => localTarget s t (a + k) n) with
    | some p => (s, .ok (lmRead s p.1 p.2 n))
    | none => (s, .error cPROT)
  | .fabric a =>
    match fabTarget s (a + k) with
    | .ok t => if (match t with | .loc pa _ => poisoned s pa | _ => false) then (s, .error cPROT)
      else let q := readTarget c.cluster t n s; (q.1, .ok q.2)
    | .error x => (s, .error x)

/-- Bytes written at an end from offset k, within one 4 KiB granule of a virtual end. -/
def endWrite (c : EngCmd) (e : End) (k : Nat) (bs : List Byte) (s : State) : State × Option Nat :=
  match e with
  | .virt va =>
    let r := engXlat c .write (va + BitVec.ofNat 64 k) s
    match r.2 with
    | .ok t => (writeTarget c.cluster t bs r.1, none)
    | .error x => (r.1, some x)
  | .lm a =>
    match (getTeam s c.team).bind (fun t => localTarget s t (a + k) bs.length) with
    | some p => (lmWrite p.1 p.2 bs s, none)
    | none => (s, some cPROT)
  | .fabric a =>
    match fabTarget s (a + k) with
    | .ok t => (writeTarget c.cluster t bs s, none)
    | .error x => (s, some x)

/-- The cause and address at which a write of n bytes from offset k of an end would fail; nothing is written. -/
def endFault (c : EngCmd) (e : End) : Nat → Nat → Nat → State → State × Option (Nat × W64)
  | 0, _, _, s => (s, none)
  | fuel + 1, k, n, s =>
    if n = 0 then (s, none)
    else
      let m := Nat.min n (4096 - (e.at k).toNat % 4096)
      match e with
      | .virt va =>
        let r := engXlat c .write (va + BitVec.ofNat 64 k) s
        match r.2 with
        | .ok _ => endFault c e fuel (k + m) (n - m) r.1
        | .error x => (r.1, some (x, e.at k))
      | _ => (s, none)

/-- Bytes of an end looked up before they are read or written. -/
def endLook (c : EngCmd) (acc : Acc) (e : End) (k n : Nat) (s : State) : State × Bool :=
  match e with
  | .virt va => engLook c acc (n / 4096 + 2) (va + BitVec.ofNat 64 k) n s
  | .lm _ => (s, false)
  | .fabric a =>
    let ls := match fabTarget s (a + k) with | .ok t => if acc = .write then askedLines s t n else [] | .error _ => []
    (askHost ls s, !ls.isEmpty)

/-- Distance from an address of an end to the next 4 KiB boundary. -/
def End.room (e : End) (k : Nat) : Nat := 4096 - (e.at k).toNat % 4096

/-- How an engine's work ends: done, or a cause at an address. -/
abbrev EngErr := Option (Nat × W64)

/-- n bytes copied from one end to another from offset k on, in pieces that cross no 4 KiB boundary of either; the first argument bounds the pieces. -/
def copyRange (c : EngCmd) (dst src : End) : Nat → Nat → Nat → State → State × EngErr
  | 0, _, _, s => (s, none)
  | fuel + 1, k, n, s =>
    if n = 0 then (s, none)
    else
      let m := [n, src.room k, dst.room k].foldl Nat.min n
      let r := endRead c src k m s
      match r.2 with
      | .error x => (r.1, some (x, src.at k))
      | .ok bs =>
        let q := endWrite c dst k bs r.1
        match q.2 with
        | some x => (q.1, some (x, dst.at k))
        | none => copyRange c dst src fuel (k + m) (n - m) q.1

/-- A copy of n bytes by whole 4 KiB granules of its own length: each is looked up, then copied. On a fault, or where the granule has to wait (cause 0), the bytes
in the granules done. -/
def copyGranules (c : EngCmd) (dst src : End) (n : Nat) : List Nat → State → State × Option (Nat × W64 × Nat)
  | [], s => (s, none)
  | g :: gs, s =>
    let m := if n - g * 4096 < 4096 then n - g * 4096 else 4096
    let l := lookBoth (endLook c .read src (g * 4096) m) (endLook c .write dst (g * 4096) m) s
    if l.2 then (l.1, some (0, 0, g * 4096))
    else
      let r := copyRange c dst src 4 (g * 4096) m l.1
      match r.2 with
      | some (x, a) => (r.1, some (x, a, g * 4096))
      | none => copyGranules c dst src n gs r.1

/-- n bytes read from a virtual address. -/
def engReads (c : EngCmd) : Nat → W64 → Nat → State → State × Except (Nat × W64) (List Byte)
  | 0, _, _, s => (s, .ok [])
  | fuel + 1, va, n, s =>
    if n = 0 then (s, .ok [])
    else
      let m := Nat.min n (4096 - va.toNat % 4096)
      let r := endRead c (.virt va) 0 m s
      match r.2 with
      | .error x => (r.1, .error (x, va))
      | .ok bs =>
        let q := engReads c fuel (va + BitVec.ofNat 64 m) (n - m) r.1
        match q.2 with
        | .ok rest => (q.1, .ok (bs ++ rest))
        | e => (q.1, e)

/-- n bytes from a virtual address, whatever granules they lie in. -/
def engRead (c : EngCmd) (va : W64) (n : Nat) (s : State) : State × Except (Nat × W64) (List Byte) := engReads c (n / 4096 + 2) va n s

/-! ### CPY and CPYQ (R229 to R231) -/

/-- An end named by a flag: local memory or virtual. Bits [63:32] of the w register that holds a local-memory address are dropped: DESIGN CHOICE (log 65). -/
def endOf (loc : Bool) (x : W64) : End := if loc then .lm (x.toNat % 2 ^ 32) else .virt x

/-- A local-memory end lies whole in its allocation (R16, R230). -/
def extentOk (s : State) (w : Wave) (loc : Bool) (x : W64) (n : Nat) : Bool :=
  !loc || n = 0 || (localTarget s (teamOf s w) (x.toNat % 2 ^ 32) n).isSome

/-- The command joins the copy engine's queue of 32, or its issuer waits (R229). -/
def copyAccept (i : Instr) (ls : List Lane) (ops : List W64) (s : State) : State :=
  let c := (curWave s).cluster
  if 32 ≤ (getCluster s c).copyQ.length then waitHere .retry s
  else post c .copyEngineDone (updCluster c (fun x => { x with copyQ := x.copyQ ++ [newCmd i ls ops s] }) (advance 2 s))

/-- CPY (R230). -/
def execCpy (h : RG) (p : CpyP) (s : State) : Out :=
  let w := curWave s
  let d := wGet w h.d.toNat
  let a := wGet w h.a.toNat
  let n := (wGet w h.b.toNat).toNat % 2 ^ 32
  let cb := wGet w p.cb.toNat
  .next (engIssue h cb p.rel p.scope.toNat (fun ls s =>
    if !extentOk s w p.sl a n then instrTrap ls cPROT a s
    else if !extentOk s w p.dl d n then instrTrap ls cPROT d s
    else copyAccept (.cpy h p) ls [d, a, BitVec.ofNat 64 n, cb] s) s)

/-- Code bytes of a CPYQ (R231): NGRP groups of G codes. -/
def cpyqBytes (p : CpyqP) (b : W64) : Nat := (fld b 0 11).toNat * (32 * 2 ^ p.gs.toNat) * (if p.w4 then 4 else 8) / 8

/-- CPYQ (R231). -/
def execCpyq (h : RG) (p : CpyqP) (s : State) : Out :=
  let w := curWave s
  let d := wGet w h.d.toNat
  let b := wGet w h.b.toNat
  let ngrp := (fld b 0 11).toNat
  let sb := (fld b 16 10).toNat
  let cb := wGet w p.cb.toNat
  .next (engIssue h cb p.rel p.scope.toNat (fun ls s =>
    if ngrp = 0 || decide (1024 < ngrp) || decide (1024 < sb + ngrp) then illOperands (.cpyq h p) ls s
    else if !extentOk s w true d (cpyqBytes p b) then instrTrap ls cPROT d s
    else copyAccept (.cpyq h p) ls [d, wGet w h.a.toNat, b, cb, wGet w p.s.toNat] s) s)

/-- Scale records n, n + 1, ... read and written into the scale store (R231). -/
def scaleRecords (c : EngCmd) (sa : W64) (sb seq : Nat) : List Nat → State → State × EngErr
  | [], s => (s, none)
  | n :: ns, s =>
    let va := sa + BitVec.ofNat 64 (4 * n)
    let r := engRead c va 4 s
    match r.2 with
    | .error e => (r.1, some e)
    | .ok bs =>
      let x := leNat bs
      let e : W32 := BitVec.ofNat 32 (x % 2 ^ 16 + x / 2 ^ 16 % 256 * 2 ^ 16 + seq % 256 * 2 ^ 24)
      scaleRecords c sa sb seq ns (updArr c.cluster c.team (fun a => { a with scale := aset (sb + n) e a.scale }) r.1)

/-- The array holds the state of the command's team, or no team's (R236), and no lease whose commands go on after their team (R241). -/
def scaleReady (c : EngCmd) (s : State) : Bool :=
  match arrayTeam s c.cluster with
  | some t => t.id == c.team
  | none => (getTensor s c.cluster).holder.isNone

/-- The command stands at the head of its engine's queue again, with the pieces that it has done. -/
def keepCopy (c : EngCmd) (done : Nat) (s : State) : State := updCluster c.cluster (fun x => { x with copyQ := { c with progress := done } :: x.copyQ }) s

/-- The command waits, with the pieces that it has done. -/
def holdCopy (c : EngCmd) (done : Nat) (s : State) : State := stallOnce c.cluster .copyEngineDone (keepCopy c done s)

/-- The scale writes of a CPYQ whose codes are written, into its team's state in the array, and its end (R231, R236). -/
def scaleFinish (c : EngCmd) (s : State) : State :=
  match c.ins with
  | .cpyq _ p =>
    let x (k : Nat) : W64 := nth 0 c.ops k
    let n := cpyqBytes p (x 2)
    let ngrp := (fld (x 2) 0 11).toNat
    let s1 := updTensor c.cluster (fun t => { t with reqs := t.reqs.filter (fun r => !(r.wave == c.wave && r.kind == .scale)) }) s
    let q := scaleRecords c (x 4) (fld (x 2) 16 10).toNat p.seq.toNat (span 0 ngrp) (exchange c.cluster c.team s1)
    match q.2 with
    | some (e, a) => handBack c e a (n / 4096 * 4096) (some (x 3)) q.1
    | none => engArrive c (x 3) (n + 4 * ngrp) p.scope.toNat (n + 4 * ngrp) q.1
  | _ => s

/-- A copy command carried out from the granule that it has come to: its arrival, its hand-back, or its wait. A CPYQ whose array holds another team's state asks
for the array (R236). The resume offset of a CBERR hand-back counts a CPYQ's code and scale bytes: DESIGN CHOICE (log 74). -/
def copyRun (c : EngCmd) (s : State) : State :=
  let x (k : Nat) : W64 := nth 0 c.ops k
  let cb := x 3
  match c.ins with
  | .cpy _ p =>
    let n := (x 2).toNat
    let l := relLook (c.cluster / 64) p.scope.toNat s
    if l.2 then holdCopy c c.progress l.1
    else
      let r := copyGranules c (endOf p.dl (x 0)) (endOf p.sl (x 1)) n (span c.progress (ceilDiv n 4096 - c.progress)) l.1
      match r.2 with
      | some (e, a, k) => if e = 0 then holdCopy c (k / 4096) r.1 else handBack c e a k (some cb) r.1
      | none => engArrive c cb n p.scope.toNat n r.1
  | .cpyq _ p =>
    let n := cpyqBytes p (x 2)
    let all := ceilDiv n 4096
    let r := copyGranules c (.lm ((x 0).toNat % 2 ^ 32)) (.virt (x 1)) n (span c.progress (all - c.progress)) s
    match r.2 with
    | some (e, a, k) => if e = 0 then holdCopy c (k / 4096) r.1 else handBack c e a k (some cb) r.1
    | none =>
      let len := 4 * (fld (x 2) 0 11).toNat
      let l := lookBoth (engLook c .read (len / 4096 + 2) (x 4) len) (relLook (c.cluster / 64) p.scope.toNat) r.1
      if l.2 then holdCopy c all l.1
      else if scaleReady c l.1 then scaleFinish c l.1
      else keepCopy c all (putReq c.cluster { wave := c.wave, team := c.team, pos := c.pos, kind := .scale } l.1)
  | _ => s

/-- COPY_ENGINE_DONE: the oldest command of the cluster's copy engine. -/
def execCopyEngineDone (s : State) : Out :=
  let k := s.site
  .next (match (getCluster s k).copyQ with
    | [] => s
    | c :: rest => copyRun c (updCluster k (fun x => { x with copyQ := rest }) s))

/-! ### PUB (R84 to R87, R232) -/

/-- Bits [hi - 1 : lo] of a number of any width. -/
def bitsOf (x lo len : Nat) : Nat := x / 2 ^ lo % 2 ^ len

/-- One subscriber entry of R85: destination, version word, format; none where it is illegal. -/
def subscriber (x : Nat) : Option (Nat × Nat × Nat) :=
  let dest := bitsOf x 192 62
  let ver := bitsOf x 128 62
  let fmt := bitsOf x 0 3
  if bitsOf x 254 2 != 0 || bitsOf x 190 2 != 0 || bitsOf x 3 125 != 0 || 4 < fmt || dest % 64 != 0 || ver % 8 != 0 then none
  else some (dest, ver, fmt)

/-- The fields of a publication group descriptor are legal (R84). -/
def pubOk (d : Nat) : Bool :=
  bitsOf d 0 276 == 0 && bitsOf d 448 64 % 512 == 0 && bitsOf d 384 64 % 64 == 0 && bitsOf d 320 64 % 32 == 0
    && 1 ≤ bitsOf d 288 32 && bitsOf d 288 32 ≤ 65536 && 1 ≤ bitsOf d 280 8 && bitsOf d 280 8 ≤ 64 && 2 ≤ bitsOf d 277 3

/-- Consecutive chunks of n elements. -/
def chunksOf {α : Type} (n : Nat) : Nat → List α → List (List α)
  | 0, _ => []
  | k + 1, l => l.take n :: chunksOf n k (l.drop n)

/-- PUB (R86, R232). -/
def execPub (h : RG) (p : EngP) (s : State) : Out :=
  let w := curWave s
  let a := wGet w h.a.toNat
  let cb := wGet w p.cb.toNat
  .next (engIssue h cb p.rel p.scope.toNat (fun ls s =>
    if a.toNat % 64 != 0 then illOperands (.pub h p) ls s
    else heldThen ls (heldRead (issuer s) a 1 64 s) (fun bs s =>
      let d := leNat bs
      if !pubOk d then illOperands (.pub h p) ls s
      else
        let n := bitsOf d 280 8
        heldThen ls (heldReads (issuer s) 32 n (BitVec.ofNat 64 (bitsOf d 320 64)) s) (fun tb s =>
          let es := (chunksOf 32 n tb).map (fun e => subscriber (leNat e))
          if es.any (·.isNone) then illOperands (.pub h p) ls s
          else
            let ops : List W64 := [a, cb, BitVec.ofNat 64 (bitsOf d 448 64), BitVec.ofNat 64 (bitsOf d 384 64), BitVec.ofNat 64 (bitsOf d 288 32),
              BitVec.ofNat 64 (bitsOf d 277 3), BitVec.ofNat 64 (bitsOf d 276 1)] ++
              es.foldl (fun acc e => match e with | some (x, y, z) => acc ++ [BitVec.ofNat 64 x, BitVec.ofNat 64 y, BitVec.ofNat 64 z] | none => acc) []
            let c := newCmd (.pub h p) ls ops s
            post w.cluster .publishDone (updCluster w.cluster (fun x => { x with pubQ := x.pubQ ++ [c] }) (advance 2 s))))) s)

/-- Subscribers as captured. -/
def capturedSubs : List W64 → List (Nat × Nat × Nat)
  | a :: b :: c :: r => (a.toNat, b.toNat, c.toNat) :: capturedSubs r
  | _ => []

/-- Source words read once each, in ascending address: the words, or how many were read before a fault. -/
def pubSource (c : EngCmd) (src : W64) : Nat → Nat → State → State × Except (Nat × W64 × Nat) (List Nat)
  | 0, _, s => (s, .ok [])
  | n + 1, j, s =>
    let r := engRead c (src + BitVec.ofNat 64 (4 * j)) 4 s
    match r.2 with
    | .error (x, a) => (r.1, .error (x, a, j))
    | .ok bs =>
      let q := pubSource c src n (j + 1) r.1
      match q.2 with
      | .ok ws => (q.1, .ok (leNat bs :: ws))
      | e => (q.1, e)

/-- Bytes of an element of a format code. -/
def fmtBytes (f : Nat) : Nat := (fmtOf (BitVec.ofNat 3 f)).width / 8

/-- The image of a format: one element per source word. -/
def pubImage (f : Nat) (ws : List Nat) : List Byte :=
  ws.foldl (fun acc x => acc ++ leBytes (fmtBytes f) (viewOf (BitVec.ofNat 3 f) x)) []

/-- Chunks of one format, ascending: written to every subscriber of the format where they changed, then recorded as last published. -/
def pubChunks (c : EngCmd) (full : Bool) (last : W64) (dests : List Nat) : List (Nat × List Byte) → State → State × EngErr
  | [], s => (s, none)
  | (k, bs) :: rest, s =>
    let la := last + BitVec.ofNat 64 (64 * k)
    let r := if full then (s, .ok []) else engRead c la 64 s
    match r.2 with
    | .error e => (r.1, some e)
    | .ok old =>
      if !full && old == bs then pubChunks c full last dests rest r.1
      else
        let w := dests.foldl (fun (acc : State × EngErr) d => match acc.2 with
          | some e => (acc.1, some e)
          | none =>
            let q := endWrite c (.fabric (d + 64 * k)) 0 bs acc.1
            (q.1, q.2.map (fun x => (x, BitVec.ofNat 64 (d + 64 * k))))) (r.1, none)
        match w.2 with
        | some e => (w.1, some e)
        | none =>
          let q := endWrite c (.virt la) 0 bs w.1
          match q.2 with
          | some x => (q.1, some (x, la))
          | none => pubChunks c full last dests rest q.1

/-- Formats present, ascending, each with the offset of its last-published image. -/
def pubFormats (c : EngCmd) (full : Bool) (last : W64) (subs : List (Nat × Nat × Nat)) (ws : List Nat) :
    List Nat → Nat → State → State × EngErr
  | [], _, s => (s, none)
  | f :: fs, off, s =>
    let img := pubImage f ws
    let r := pubChunks c full (last + BitVec.ofNat 64 off) ((subs.filter (fun t => t.2.2 == f)).map (·.1))
      (((span 0 (img.length / 64)).map (fun k => (k, (img.drop (64 * k)).take 64)))) s
    match r.2 with
    | some e => (r.1, some e)
    | none => pubFormats c full last subs ws fs (off + img.length) r.1

/-- The first version word that cannot be raised, with its cause. -/
def badVersion (s : State) (vs : List Nat) : EngErr :=
  (vs.filterMap (fun v => match fabTarget s v with
    | .error x => some (x, BitVec.ofNat 64 v)
    | .ok (.loc pa _) => if poisoned s pa then some (cPROT, BitVec.ofNat 64 v) else none
    | .ok (.fab _ _) => none)).head?

/-- Version words raised, in table order. -/
def pubVersions (c : EngCmd) (vs : List Nat) (s : State) : State :=
  vs.foldl (fun s v => match fabTarget s v with | .ok t => (atomTarget c.cluster t 8 (fun old => (old + 1) % 2 ^ 64) s).1 | .error _ => s) s

/-- Everything that a publish reads and writes looked up before it begins: n source words, the images of the formats present, FULL, the destinations and the
version words; and the host's answers for its releases. -/
def pubLook (c : EngCmd) (x : Nat → W64) (n : Nat) (fs : List Nat) (subs : List (Nat × Nat × Nat)) (scope : Nat) (s : State) : State × Bool :=
  let images := (fs.map (fun f => fmtBytes f * n)).sum
  lookAll ([engLook c .read (n / 1024 + 2) (x 2) (4 * n), engLook c .write (images / 4096 + 2) (x 3) images, engLook c .write 1 (x 0 + 34) 1,
      relLook (c.cluster / 64) (if scope < 2 then 2 else scope)]
    ++ subs.map (fun t => endLook c .write (.fabric t.1) 0 (fmtBytes t.2.2 * n))
    ++ subs.map (fun t => endLook c .write (.fabric t.2.1) 0 8)) s

/-- A publish carried out whole (R86). No version word is raised before every step that can fail has been made. -/
def pubRun (c : EngCmd) (s : State) : State :=
  let x (k : Nat) : W64 := nth 0 c.ops k
  let cb := x 1
  let n := (x 4).toNat * 128
  let full := x 6 == 1
  let subs := capturedSubs (c.ops.drop 7)
  let scope := match c.ins with | .pub _ p => p.scope.toNat | _ => 0
  let fs := (span 0 5).filter (fun f => subs.any (fun t => t.2.2 == f))
  let l := pubLook c x n fs subs scope s
  if l.2 then
    stallOnce c.cluster .publishDone (updCluster c.cluster (fun y => { y with pubQ := c :: y.pubQ }) l.1)
  else
  let r := pubSource c (x 2) n 0 l.1
  match r.2 with
  | .error (e, a, j) => handBack c e a j (some cb) r.1
  | .ok ws =>
    let q := pubFormats c full (x 3) subs ws fs 0 r.1
    match q.2 with
    | some (e, a) => handBack c e a n (some cb) q.1
    | none =>
      let vs := subs.map (fun t => t.2.1)
      match badVersion q.1 vs with
      | some (e, a) => handBack c e a n (some cb) q.1
      | none =>
        let fa := x 0 + 34
        let rd := engRead c fa 1 q.1
        match rd.2 with
        | .error (e, a) => handBack c e a n (some cb) rd.1
        | .ok bs =>
          let wx := engXlat c .write fa rd.1
          match wx.2 with
          | .error e => handBack c e fa n (some cb) wx.1
          | .ok t =>
            let s1 := pubVersions c vs (drainRdc (c.cluster / 64) wx.1)
            engArrive c cb (8 * subs.length) scope n (writeTarget c.cluster t [BitVec.ofNat 8 (leNat bs / 32 * 32 + leNat bs % 16)] s1)

/-- An earlier publish of the same descriptor from the same die is still to be performed (R87). -/
def pubAfter (c : EngCmd) (s : State) : Bool :=
  s.clusters.any (fun p => p.1 / 64 == c.cluster / 64 && p.2.pubQ.any (fun e => nth 0 e.ops 0 == nth 0 c.ops 0 && e.ctx == c.ctx && decide (e.seq < c.seq)))

/-- PUBLISH_DONE: the oldest publish of the cluster; it waits for those of its descriptor that issued on the die before it (R87). -/
def execPublishDone (s : State) : Out :=
  let k := s.site
  .next (match (getCluster s k).pubQ with
    | [] => s
    | c :: rest =>
      if pubAfter c s then stallOnce k .publishDone s else pubRun c (updCluster k (fun x => { x with pubQ := rest }) s))

/-! ### COLL (R233) -/

/-- Bytes of an element of a COLL type. -/
def collBytes (ty : Nat) : Nat := if ty = 1 then 2 else 4

/-- COLL (R233). -/
def execColl (h : RG) (p : EngP) (s : State) : Out :=
  let w := curWave s
  let a := wGet w h.a.toNat
  let cb := wGet w p.cb.toNat
  .next (engIssue h cb p.rel p.scope.toNat (fun ls s =>
    if a.toNat % 64 != 0 then illOperands (.coll h p) ls s
    else heldThen ls (heldRead (issuer s) a 1 64 s) (fun bs s =>
      let d := leNat bs
      let ns := bitsOf d 408 8
      let nd := bitsOf d 400 8
      let op := bitsOf d 398 2
      let ty := bitsOf d 396 2
      if bitsOf d 448 64 % 8 != 0 || bitsOf d 416 32 = 0 || ns = 0 || decide (64 < ns) || nd = 0 || decide (64 < nd) || op = 3 || ty = 3
        || bitsOf d 0 396 != 0 then illOperands (.coll h p) ls s
      else heldThen ls (heldReads (issuer s) 8 (ns + nd) (BitVec.ofNat 64 (bitsOf d 448 64)) s) (fun tb s =>
        let es := (chunksOf 8 (ns + nd) tb).map leNat
        if es.any (fun e => e / 2 ^ 62 != 0 || e % collBytes ty != 0) then illOperands (.coll h p) ls s
        else
          let ops : List W64 := [a, cb, BitVec.ofNat 64 (bitsOf d 416 32), BitVec.ofNat 64 ns, BitVec.ofNat 64 op, BitVec.ofNat 64 ty] ++
            es.map (BitVec.ofNat 64)
          let c := newCmd (.coll h p) ls ops s
          post w.cluster .collectiveDone (updCluster w.cluster (fun x => { x with collQ := x.collQ ++ [c] }) (advance 2 s))))) s)

/-- Two values combined (R233): floats as FP32 encodings, integers as words. -/
def collOp (op ty x y : Nat) : Nat :=
  if ty = 2 then
    match op with
    | 0 => (x + y) % 2 ^ 32
    | 1 => if sgn 32 y < sgn 32 x then y else x
    | _ => if sgn 32 x < sgn 32 y then y else x
  else match op with
    | 0 => (faddE .fp32 .rne x y).1
    | 1 => (fminmaxE .fp32 false x y).1
    | _ => (fminmaxE .fp32 true x y).1

/-- An element as COLL holds it, and as it is written. -/
def collIn (ty x : Nat) : Nat := if ty = 1 then (cvtE .bf16 .fp32 .rne x).1 else x
def collOut (ty x : Nat) : Nat := if ty = 1 then (cvtE .fp32 .bf16 .rne x).1 else x

/-- One element read from every source, in table order. -/
def collRead (c : EngCmd) (i ty : Nat) : List Nat → State → State × Except (Nat × W64) (List Nat)
  | [], s => (s, .ok [])
  | a :: rest, s =>
    let b := collBytes ty
    let r := endRead c (.fabric (a + b * i)) 0 b s
    match r.2 with
    | .error x => (r.1, .error (x, BitVec.ofNat 64 (a + b * i)))
    | .ok bs =>
      let q := collRead c i ty rest r.1
      match q.2 with
      | .ok l => (q.1, .ok (collIn ty (leNat bs) :: l))
      | e => (q.1, e)

/-- One element written to every destination, in table order. -/
def collWrite (c : EngCmd) (i ty x : Nat) : List Nat → State → State × EngErr
  | [], s => (s, none)
  | a :: rest, s =>
    let b := collBytes ty
    let r := endWrite c (.fabric (a + b * i)) 0 (leBytes b x) s
    match r.2 with
    | some e => (r.1, some (e, BitVec.ofNat 64 (a + b * i)))
    | none => collWrite c i ty x rest r.1

/-- Elements i, i + 1, ...: the number written to every destination before a fault, or before the element that has to wait (cause 0). -/
def collElems (c : EngCmd) (op ty : Nat) (srcs dsts : List Nat) : Nat → Nat → State → State × Option (Nat × W64 × Nat)
  | 0, _, s => (s, none)
  | n + 1, i, s =>
    let b := collBytes ty
    let l := lookAll (dsts.map (fun a => endLook c .write (.fabric (a + b * i)) 0 b)) s
    if l.2 then (l.1, some (0, 0, i))
    else
    let r := collRead c i ty srcs l.1
    match r.2 with
    | .error (x, a) => (r.1, some (x, a, i))
    | .ok [] => (r.1, none)
    | .ok (y :: ys) =>
      let q := collWrite c i ty (collOut ty (ys.foldl (collOp op ty) y)) dsts r.1
      match q.2 with
      | some (x, a) => (q.1, some (x, a, i))
      | none => collElems c op ty srcs dsts n (i + 1) q.1

/-- A collective carried out from the element that it has come to (R233). -/
def collRun (c : EngCmd) (s : State) : State :=
  let x (k : Nat) : W64 := nth 0 c.ops k
  let cb := x 1
  let n := (x 2).toNat
  let ty := (x 5).toNat
  let addrs := (c.ops.drop 6).map (·.toNat)
  let srcs := addrs.take (x 3).toNat
  let dsts := addrs.drop (x 3).toNat
  let scope := match c.ins with | .coll _ p => p.scope.toNat | _ => 0
  let hold (i : Nat) (s : State) : State :=
    stallOnce c.cluster .collectiveDone (updCluster c.cluster (fun y => { y with collQ := { c with progress := i } :: y.collQ }) s)
  let l := relLook (c.cluster / 64) scope s
  if l.2 then hold c.progress l.1
  else
    let r := collElems c (x 4).toNat ty srcs dsts (n - c.progress) c.progress l.1
    match r.2 with
    | some (e, a, i) => if e = 0 then hold i r.1 else handBack c e a i (some cb) r.1
    | none => engArrive c cb (n * collBytes ty * dsts.length) scope n r.1

/-- COLLECTIVE_DONE: the oldest collective of the cluster. -/
def execCollectiveDone (s : State) : Out :=
  let k := s.site
  .next (match (getCluster s k).collQ with
    | [] => s
    | c :: rest => collRun c (updCluster k (fun x => { x with collQ := rest }) s))

/-! ### Cache maintenance (R234) -/

/-- The physical ranges of a virtual range, page by page; pages not present or not readable are passed over. -/
def rangePieces (i : Issuer) : Nat → W64 → Nat → State → List (Nat × Nat)
  | 0, _, _, _ => []
  | fuel + 1, va, n, s =>
    if n = 0 then []
    else
      let m := Nat.min n (65536 - va.toNat % 65536)
      let rest := rangePieces i fuel (va + BitVec.ofNat 64 m) (n - m) s
      match (xlat { ctx := i.ctx, cluster := i.cluster, h := i.h, acc := .read, va, size := 1, now := true } s).2 with
      | .ok (.loc pa _) => (pa, m) :: rest
      | _ => rest

/-- A line lies in one of the ranges. -/
def inPieces (ps : List (Nat × Nat)) (line : Nat) : Bool := ps.any (fun p => p.1 / 64 ≤ line && line * 64 < p.1 + p.2)

/-- CFLUSH of one die: covered dirty bytes go home, then the covered lines go from its remote-data cache. -/
def flushDie (ps : List (Nat × Nat)) (d : Nat) (s : State) : State :=
  let ls := ((getDie s d).rdc.filter (fun p => inPieces ps p.1)).map (·.1)
  ls.foldl (fun s l => rdcInvalidate d l (fun _ => 5) (writebackAfter d l s)) s

/-- The dirty lines in the ranges that a die may write home only after the host's answer (R63). -/
def flushAsks (ps : List (Nat × Nat)) (d : Nat) (s : State) : List Nat := (unanswered s d).filter (inPieces ps)

/-- The covered lines leave the L1s of a cluster. -/
def dropL1 (ps : List (Nat × Nat)) (c : Nat) (s : State) : State :=
  ((getCluster s c).filter.filter (fun p => inPieces ps p.1)).foldl (fun s p => filterDrop c p.1 5 s) s

/-- A cache instruction on its range: at least one lane selected. -/
def cacheInstr (h : RG) (k : List (Nat × Nat) → Wave → State → State) (s : State) : State :=
  let w := curWave s
  match selected s h.g h.n with
  | [] => advance 2 s
  | _ =>
    let n := (wGet w h.b.toNat).toNat
    k (rangePieces (issuer s) (n / 65536 + 2) (wGet w h.a.toNat) n s) w s

/-- CFLUSH (R50, R234): every L1 and remote-data cache of the package. -/
def execCflush (h : RG) (_ : NoP) (s : State) : Out :=
  .next (cacheInstr h (fun ps _ s =>
    let asks := (span 0 4).flatMap (fun d => flushAsks ps d s)
    if !asks.isEmpty then waitHere .retry (askHost asks (midOp s))
    else
      let s1 := (span 0 4).foldl (fun s d => flushDie ps d s) s
      advance 2 ((s1.clusters.map (·.1)).foldl (fun s c => dropL1 ps c s) s1)) s)

/-- The clean bytes of the covered lines leave a die's remote-data cache, and with them the copies in the L1s of the die, which it includes (R39); dirty bytes stay
(R50, R234). -/
def cleanDie (ps : List (Nat × Nat)) (d : Nat) (s : State) : State :=
  let ls := ((getDie s d).rdc.filter (fun p => inPieces ps p.1)).map (·.1)
  ls.foldl (fun s l => rdcInvalidate d l (fun _ => 5) s) s

/-- CINV (R50, R234): the issuing cluster's L1s and its die's remote-data cache. -/
def execCinv (h : RG) (_ : NoP) (s : State) : Out :=
  .next (cacheInstr h (fun ps w s => advance 2 (dropL1 ps w.cluster (cleanDie ps (w.cluster / 64) s))) s)

/-- CINV.i (R40, R234): the instruction caches of the issuing cluster, which hold packets by physical address. -/
def execCinvI (h : RG) (_ : CinvIP) (s : State) : Out :=
  .next (cacheInstr h (fun ps w s => advance 2 (updCluster w.cluster (fun c => { c with icache := c.icache.filter (fun e => !inPieces ps (e.2.1 / 64)) }) s)) s)

end Sys2Proof.Machine
end

