-- ==== Sys2Proof/Machine/FloatOps.lean ====
section
/-! DEFINITION. The floating-point and packed instructions (R186 to R194): one meaning per constructor. -/

namespace Sys2Proof.Machine

/-- FCMP (R188). -/
def fcmpResult (r : Rec) (s : State) : State :=
  mResult r.g r.n r.words r.d (fun w l => fcmpE .fp32 (r.md % 8) (word32 w l r.ka r.a).toNat (bWord r w l).toNat) s

/-! ### Conversion (R189) -/

/-- The types of FCVT. -/
inductive NumTy where
  | fl (f : Fmt)
  | i32 | u32 | i64
deriving DecidableEq, Repr, Inhabited

def NumTy.width : NumTy → Nat
  | .fl f => f.width
  | .i64 => 64
  | _ => 32

/-- The conversion codes of R189. -/
def numTyOf : Nat → Option NumTy
  | 0 => some (.fl .fp32) | 2 => some (.fl .fp16) | 3 => some (.fl .bf16) | 4 => some (.fl .e4m3) | 5 => some (.fl .e5m2)
  | 8 => some .i32 | 9 => some .u32 | 10 => some .i64
  | _ => none

/-- Source and destination type of an FCVT. -/
def cvtTypes (r : Rec) : NumTy × NumTy :=
  let t := NumTy.fl (fmtOfTy r.ty)
  let o := (numTyOf (r.md % 16)).getD t
  if r.md / 64 % 2 = 1 then (o, t) else (t, o)

/-- One value converted (R125). A NaN or an out-of-range value to INT64, for which R125 has no row, gives 0 or the nearest INT64 bound, with NV: DESIGN CHOICE
(log 70). -/
def cvtOne (src dst : NumTy) (rm : Rm) (x : Nat) : Nat × Flags :=
  let v := match src with
    | .fl f => unpackF f x
    | .i32 => ofInt (sgn 32 x)
    | .u32 => ofInt (x % 2 ^ 32 : Nat)
    | .i64 => ofInt (sgn 64 x)
  match dst with
  | .fl f => roundF f rm v
  | .i32 => let q := toIntE rm (-(2 ^ 31 : Nat)) ((2 ^ 31 : Nat) - 1) v; (wrap 32 q.1, q.2)
  | .u32 => let q := toIntE rm 0 ((2 ^ 32 : Nat) - 1) v; (wrap 32 q.1, q.2)
  | .i64 => let q := toIntE rm (-(2 ^ 63 : Nat)) ((2 ^ 63 : Nat) - 1) v; (wrap 64 q.1, q.2)

/-- Element j of a group of r registers of width bw that pairs with a narrower register (R175). -/
def groupElem (l : Lane) (base r bw j : Nat) : Nat := elem bw (j / r) (vGet l (base + j % r))

/-- The registers of a group of r written with elements of width bw (R175). -/
def spreadGroup (base r bw : Nat) (es : List Nat) : List (Nat × W32) :=
  (span 0 r).map (fun q => (base + q, packElems bw ((span 0 (32 / bw)).map (fun p => nth 0 es (p * r + q)))))

/-- FCVT on v registers: the writes and the flags. -/
def cvtLane (r : Rec) (l : Lane) : List (Nat × W32) × Flags :=
  let t := cvtTypes r
  let ws := t.1.width
  let wd := t.2.width
  let low := if ws ≤ wd then ws else wd
  let k := 32 / (if low = 64 then 32 else low)
  let src : Nat → Nat := fun j =>
    if ws = 64 then (vGet l (r.a + 2 * j + 1)).toNat * 2 ^ 32 + (vGet l (r.a + 2 * j)).toNat
    else if wd < ws then groupElem l r.a (ws / wd) ws j else elem ws j (vGet l r.a)
  let es := (span 0 k).map (fun j => cvtOne t.1 t.2 r.rm (src j))
  let vals := es.map (·.1)
  let writes : List (Nat × W32) :=
    if wd = 64 then (span 0 k).foldl (fun acc j => acc ++ putV (r.d + 2 * j) 64 (nth 0 vals j)) []
    else if ws = 64 then [(r.d, packElems wd vals)]
    else if ws < wd then spreadGroup r.d (wd / ws) wd vals
    else [(r.d, packElems wd vals)]
  (writes, es.foldl (fun f e => f ||| e.2) 0)

/-- FCVT on w registers: one value (R189). -/
def cvtW (r : Rec) (w : Wave) : W64 × Flags :=
  let t := cvtTypes r
  let x := (wGet w r.a).toNat % 2 ^ t.1.width
  let q := cvtOne t.1 t.2 r.rm x
  (match t.2 with | .i32 => BitVec.ofNat 64 (wrap 64 (sgn 32 q.1)) | _ => BitVec.ofNat 64 q.1, q.2)

def fcvtResult (r : Rec) (s : State) : State :=
  match r.kd with
  | .w => wResult r.g r.n r.words r.d (fun w _ => cvtW r w) s
  | _ => vResult r.g r.n r.words (fun _ l => cvtLane r l) s

/-! ### Packed and narrow (R190 to R194) -/

/-- An 8-bit element as an integer, unsigned or two's complement. -/
def int8 (uns : Bool) (x : Nat) : Int := if uns then (x % 256 : Nat) else sgn 8 x

/-- A dot product of one word (R191): n elements of the packed type, an addend, one rounding. -/
def dotN (r : Rec) (n : Nat) (x y z : W32) : Nat × Flags :=
  if r.ty = 7 then
    let s := (span 0 4).foldl (fun (acc : Int) j => acc + int8 (r.md % 2 == 1) (elem 8 j x) * int8 (r.md / 2 % 2 == 1) (elem 8 j y)) (sgn 32 z.toNat)
    (wrap 32 s, 0)
  else
    let f := fmtOfTy r.ty
    let ps := (span 0 n).map (fun j => (unpackF f (elem f.width j x), unpackF f (elem f.width j y)))
    roundResult .fp32 r.rm (dotF r.rm (unpackF .fp32 z.toNat) ps)

/-- DOT4 and DOT2: a v register, or the low half of a w register with 0 above. -/
def dotResult (r : Rec) (n : Nat) (s : State) : State :=
  let val : Wave → Lane → Nat × Flags := fun w l => dotN r n (word32 w l r.ka r.a) (bWord r w l) (word32 w l r.kc r.c)
  match r.kd with
  | .w => wResult r.g r.n r.words r.d (fun w l => let x := val w l; (BitVec.ofNat 64 x.1, x.2)) s
  | _ => vResult r.g r.n r.words (fun w l => let x := val w l; ([(r.d, BitVec.ofNat 32 x.1)], x.2)) s

/-- WMUL (R192). -/
def wmulLane (r : Rec) (w : Wave) (l : Lane) : List (Nat × W32) × Flags :=
  let x := word32 w l r.ka r.a
  let y := bWord r w l
  if r.ty = 7 then
    let es := (span 0 4).map (fun j => wrap 16 (int8 (r.md % 2 == 1) (elem 8 j x) * int8 (r.md / 2 % 2 == 1) (elem 8 j y)))
    (spreadGroup r.d 2 16 es, 0)
  else
    let f := fmtOfTy r.ty
    let es := (span 0 2).map (fun j => roundResult .fp32 r.rm (mulF (unpackF f (elem 16 j x)) (unpackF f (elem 16 j y))))
    (spreadGroup r.d 2 32 (es.map (·.1)), es.foldl (fun g e => g ||| e.2) 0)

/-- Code width and group ratio of QUANT and DEQUANT (R193). -/
def quantBits (r : Rec) : Nat := if r.md % 2 = 1 then 4 else 8
def quantRatio (r : Rec) : Nat := (fmtOfTy r.ty).width / quantBits r

/-- QUANT (R193). -/
def quantLane (r : Rec) (w : Wave) (l : Lane) : List (Nat × W32) × Flags :=
  let f := fmtOfTy r.ty
  let b := quantBits r
  let sc := unpackF .fp32 (bWord r w l).toNat
  let z := ofInt ((word32 w l r.kc r.c).toNat % 256 : Nat)
  let es := (span 0 (32 / b)).map (fun j =>
    let t := addF .rne (mulF (unpackF f (groupElem l r.a (quantRatio r) f.width j)) sc).1 z
    quantE r.rm b t.1)
  ([(r.d, packElems b (es.map (·.1)))], es.foldl (fun g e => g ||| e.2) 0)

/-- DEQUANT (R193). -/
def dequantLane (r : Rec) (w : Wave) (l : Lane) : List (Nat × W32) × Flags :=
  let f := fmtOfTy r.ty
  let b := quantBits r
  let sc := unpackF .fp32 (bWord r w l).toNat
  let z := (word32 w l r.kc r.c).toNat % 256
  let x := word32 w l r.ka r.a
  let es := (span 0 (32 / b)).map (fun j => roundResult f r.rm (mulF sc (ofInt ((elem b j x : Int) - z))))
  (spreadGroup r.d (quantRatio r) f.width (es.map (·.1)), es.foldl (fun g e => g ||| e.2) 0)

/-- Element width of PACK and UNPACK (R194). -/
def packBits (r : Rec) : Nat := 16 / 2 ^ (r.md % 4)

def packLane (r : Rec) (l : Lane) : List (Nat × W32) × Flags :=
  let b := packBits r
  ([(r.d, packElems b ((span 0 (32 / b)).map (fun j => (vGet l (r.a + j)).toNat)))], 0)

def unpackLane (r : Rec) (w : Wave) (l : Lane) : List (Nat × W32) × Flags :=
  let b := packBits r
  let x := word32 w l r.ka r.a
  ((span 0 (32 / b)).map (fun j =>
    (r.d + j, BitVec.ofNat 32 (if r.md / 4 % 2 = 1 then wrap 32 (sgn b (elem b j x)) else elem b j x))), 0)

/-- FCLASS (R188). -/
def fclassResult (r : Rec) (s : State) : State := floatResult r (fun f a _ _ => (fclassE f a, 0)) s

/-- FADD, long form (R187). -/
def execFadd (o : Alu) (s : State) : Out := .next (floatResult (recAlu o) (fun f a b _ => faddE f (recAlu o).rm a b) s)

/-- FADD, short form RG (R187, R164). -/
def execFaddRg (o : RG) (s : State) : Out := .next (floatResult (recRG false o) (fun f a b _ => faddE f (recRG false o).rm a b) s)

/-- FSUB, long form (R187). -/
def execFsub (o : Alu) (s : State) : Out := .next (floatResult (recAlu o) (fun f a b _ => fsubE f (recAlu o).rm a b) s)

/-- FSUB, short form RG (R187, R164). -/
def execFsubRg (o : RG) (s : State) : Out := .next (floatResult (recRG false o) (fun f a b _ => fsubE f (recRG false o).rm a b) s)

/-- FMUL, long form (R187). -/
def execFmul (o : Alu) (s : State) : Out := .next (floatResult (recAlu o) (fun f a b _ => fmulE f (recAlu o).rm a b) s)

/-- FMUL, short form RG (R187, R164). -/
def execFmulRg (o : RG) (s : State) : Out := .next (floatResult (recRG false o) (fun f a b _ => fmulE f (recRG false o).rm a b) s)

/-- FFMA, long form (R187). -/
def execFfma (o : XR) (s : State) : Out := .next (floatResult (recXR o) (fun f a b c => ffmaE f (recXR o).rm a b c) s)

/-- FFMA, short form RG (R187, R164). -/
def execFfmaRg (o : RG) (s : State) : Out := .next (floatResult (recRG true o) (fun f a b c => ffmaE f (recRG true o).rm a b c) s)

/-- FMIN, long form (R119). -/
def execFmin (o : Alu) (s : State) : Out := .next (floatResult (recAlu o) (fun f a b _ => fminmaxE f false a b) s)

/-- FMIN, short form RG (R119, R164). -/
def execFminRg (o : RG) (s : State) : Out := .next (floatResult (recRG false o) (fun f a b _ => fminmaxE f false a b) s)

/-- FMAX, long form (R119). -/
def execFmax (o : Alu) (s : State) : Out := .next (floatResult (recAlu o) (fun f a b _ => fminmaxE f true a b) s)

/-- FMAX, short form RG (R119, R164). -/
def execFmaxRg (o : RG) (s : State) : Out := .next (floatResult (recRG false o) (fun f a b _ => fminmaxE f true a b) s)

/-- FCMP (R188). -/
def execFcmp (o : XR) (s : State) : Out := .next (fcmpResult (recXR o) s)

/-- FRCP, long form (R126). -/
def execFrcp (o : XR) (s : State) : Out := .next (floatResult (recXR o) (fun _ a _ _ => approxE 0 a) s)

/-- FRCP, short form RG (R126, R164). -/
def execFrcpRg (o : RG) (s : State) : Out := .next (floatResult (recRG false o) (fun _ a _ _ => approxE 0 a) s)

/-- FRSQ, long form (R126). -/
def execFrsq (o : XR) (s : State) : Out := .next (floatResult (recXR o) (fun _ a _ _ => approxE 1 a) s)

/-- FRSQ, short form RG (R126, R164). -/
def execFrsqRg (o : RG) (s : State) : Out := .next (floatResult (recRG false o) (fun _ a _ _ => approxE 1 a) s)

/-- FSQRT, long form (R126). -/
def execFsqrt (o : XR) (s : State) : Out := .next (floatResult (recXR o) (fun _ a _ _ => fsqrtE (recXR o).rm a) s)

/-- FSQRT, short form RG (R126, R164). -/
def execFsqrtRg (o : RG) (s : State) : Out := .next (floatResult (recRG false o) (fun _ a _ _ => fsqrtE (recRG false o).rm a) s)

/-- FEXP2, long form (R126). -/
def execFexp2 (o : XR) (s : State) : Out := .next (floatResult (recXR o) (fun _ a _ _ => approxE 3 a) s)

/-- FEXP2, short form RG (R126, R164). -/
def execFexp2Rg (o : RG) (s : State) : Out := .next (floatResult (recRG false o) (fun _ a _ _ => approxE 3 a) s)

/-- FLOG2, long form (R126). -/
def execFlog2 (o : XR) (s : State) : Out := .next (floatResult (recXR o) (fun _ a _ _ => approxE 4 a) s)

/-- FLOG2, short form RG (R126, R164). -/
def execFlog2Rg (o : RG) (s : State) : Out := .next (floatResult (recRG false o) (fun _ a _ _ => approxE 4 a) s)

/-- FSIN, long form (R126). -/
def execFsin (o : XR) (s : State) : Out := .next (floatResult (recXR o) (fun _ a _ _ => approxE 5 a) s)

/-- FSIN, short form RG (R126, R164). -/
def execFsinRg (o : RG) (s : State) : Out := .next (floatResult (recRG false o) (fun _ a _ _ => approxE 5 a) s)

/-- FCOS, long form (R126). -/
def execFcos (o : XR) (s : State) : Out := .next (floatResult (recXR o) (fun _ a _ _ => approxE 6 a) s)

/-- FCOS, short form RG (R126, R164). -/
def execFcosRg (o : RG) (s : State) : Out := .next (floatResult (recRG false o) (fun _ a _ _ => approxE 6 a) s)

/-- FRND, long form (R187). -/
def execFrnd (o : XR) (s : State) : Out := .next (floatResult (recXR o) (fun f a _ _ => frndE f (recXR o).rm a) s)

/-- FCLASS (R188). -/
def execFclass (o : XR) (s : State) : Out := .next (fclassResult (recXR o) s)

/-- FCVT (R189). -/
def execFcvt (o : XR) (s : State) : Out := .next (fcvtResult (recXR o) s)

/-- DOT4 (R191). -/
def execDot4 (o : XR) (s : State) : Out := .next (dotResult (recXR o) 4 s)

/-- DOT2 (R191). -/
def execDot2 (o : XR) (s : State) : Out := .next (dotResult (recXR o) 2 s)

/-- WMUL (R192). -/
def execWmul (o : XR) (s : State) : Out := .next (vResult o.h.g o.h.n 2 (fun w l => wmulLane (recXR o) w l) s)

/-- QUANT (R193). -/
def execQuant (o : XR) (s : State) : Out := .next (vResult o.h.g o.h.n 2 (fun w l => quantLane (recXR o) w l) s)

/-- DEQUANT (R193). -/
def execDequant (o : XR) (s : State) : Out := .next (vResult o.h.g o.h.n 2 (fun w l => dequantLane (recXR o) w l) s)

/-- PACK (R194). -/
def execPack (o : XR) (s : State) : Out := .next (vResult o.h.g o.h.n 2 (fun _ l => packLane (recXR o) l) s)

/-- UNPACK (R194). -/
def execUnpack (o : XR) (s : State) : Out := .next (vResult o.h.g o.h.n 2 (fun w l => unpackLane (recXR o) w l) s)

end Sys2Proof.Machine
end

