-- ==== Sys2Proof/Machine/Csr.lean ====
section
/-! DEFINITION. The control registers (R335): their numbers, who holds them, who may read and write them, and the field rules of their maps (R5, R9, R17, R18,
R24, R94, R123, R142, R143, R151, R203, R220, R237, R332, R334, R344, R349). -/

namespace Sys2Proof.Machine

/-- Who may read or write a control register: every mode, handler mode, nobody. -/
inductive CsrAcc where
  | all | handler | never
deriving DecidableEq, Repr, Inhabited

/-- A row of R335: whether the register is a lane's, who reads it and who writes it. -/
structure CsrRow where
  lane : Bool
  rd : CsrAcc
  wr : CsrAcc
deriving DecidableEq, Repr, Inhabited

/-- The table of R335, by the number without its high-half bit. -/
def csrRow (n : Nat) : Option CsrRow :=
  if n = 0x000 then some ⟨true, .all, .never⟩
  else if n < 0x004 then some ⟨false, .all, .never⟩
  else if 0x010 ≤ n ∧ n ≤ 0x014 then some ⟨true, .all, .all⟩
  else if 0x020 ≤ n ∧ n ≤ 0x023 then some ⟨true, .handler, .handler⟩
  else if n = 0x030 ∨ n = 0x031 ∨ n = 0x040 ∨ (0x042 ≤ n ∧ n ≤ 0x045) ∨ n = 0x047 ∨ n = 0x050 then some ⟨false, .all, .handler⟩
  else if n = 0x041 ∨ n = 0x046 then some ⟨false, .handler, .handler⟩
  else none

def csrNum (o : CR) : Nat := o.csr.toNat % 2048
def csrHi (o : CR) : Bool := bit o.csr 11

/-- The instruction is legal (R335, R354): a listed number, no high half of a w register; a write to a writable register, and through a v register
only to a lane's. -/
def csrOk (o : CR) (write : Bool) : Bool :=
  !(csrHi o && o.k) && (match csrRow (csrNum o) with
    | none => false
    | some r => !write || (r.wr != .never && (o.k || r.lane)))

/-! ### Reading -/

/-- SCOPETAB as a lane reads it (R94): the own package, and a package of the domain, have LSD (R367). -/
def scopeWord (s : State) (idx : BitVec 14) : W64 :=
  BitVec.ofNat 64 (idx.toNat * 2 ^ 48 + distOf s idx.toNat * 2 ^ 44 + (inDomain s idx.toNat).toNat * 2 ^ 43 + s.boot.devIdx.toNat * 2 ^ 14)

/-- WAVEID and GANGRANK of R142. -/
def waveId (w : Wave) : Nat := w.cart.toNat * 256 + w.unit % 16 * 16 + w.slot % 16
def gangRank (t : Team) : Nat := gangCount t % 16 * 16 + (if t.gang.isSome then t.rank % 16 else 15)

/-- The value of a control register as a lane of a wave reads it. -/
def csrRead (s : State) (w : Wave) (l : Lane) (n : Nat) : W64 :=
  let x := getCtx s w.ctx
  match n with
  | 0x000 => BitVec.ofNat 64 l.id
  | 0x001 => BitVec.ofNat 64 (waveId w)
  | 0x002 => BitVec.ofNat 64 w.cluster
  | 0x003 => BitVec.ofNat 64 (gangRank (teamOf s w))
  | 0x010 => l.meet
  | 0x011 => l.link
  | 0x012 => BitVec.ofNat 64 l.fpflags.toNat
  | 0x013 => BitVec.ofNat 64 l.fpen.toNat
  | 0x014 => scopeWord s l.scopeIdx
  | 0x020 => l.tcause
  | 0x021 => l.tval
  | 0x022 => l.tepc
  | 0x023 => l.targ
  | 0x030 => x.tvec
  | 0x031 => x.supv
  | 0x040 => x.ctxid
  | 0x041 => x.ptbase
  | 0x042 => x.hwinBase
  | 0x043 => x.hwinLimit
  | 0x044 => x.hwinOff
  | 0x045 => x.ordspill
  | 0x046 => x.csa
  | 0x047 => x.txpool
  | 0x050 => (getCluster s w.cluster).cplTimeout
  | _ => 0

/-- Half of a register as a v register takes it (R354). -/
def halfOf (hi : Bool) (x : W64) : W32 := if hi then fld x 32 32 else fld x 0 32

/-- A register with one half replaced. -/
def withHalf (hi : Bool) (y : W32) (x : W64) : W64 := if hi then putFld x 32 32 y.toNat else putFld x 0 32 y.toNat

/-! ### Writing -/

/-- A value kept to the writable bits of a map. -/
def keepBits (mask : Nat) (x : W64) : W64 := BitVec.ofNat 64 (x.toNat &&& mask)

/-- A lane's control register written under its map. -/
def csrLane (n : Nat) (x : W64) (l : Lane) : Lane :=
  match n with
  | 0x010 => { l with meet := keepBits (2 ^ 52 - 16) x }
  | 0x011 => { l with link := keepBits (2 ^ 52 - 16) x }
  | 0x012 => { l with fpflags := fld x 0 5 }
  | 0x013 => { l with fpen := fld x 0 5 }
  | 0x014 => { l with scopeIdx := fld x 48 14 }
  | 0x020 => { l with tcause := keepBits (2 ^ 64 - 1 - 2 ^ 47 - 15 * 2 ^ 36 - 127 * 2 ^ 8) x }
  | 0x021 => { l with tval := x }
  | 0x022 => { l with tepc := x }
  | 0x023 => { l with targ := x }
  | _ => l

/-- The window with EN as the triple allows it (R18): kept at 1, or set to 1, only while the triple is valid. -/
def winSettled (x : Ctx) : Ctx := if bit x.hwinBase 0 && !winValid x then { x with hwinBase := putFld x.hwinBase 0 1 0 } else x

/-- A spill area, or a pool, as EN asks for it: refused where it is empty or runs beyond HBM (R220, R237). -/
def spillSettled (x : W64) : W64 :=
  let base := x.toNat / 65536 % 2 ^ 32 * 65536
  let size := (fld x 4 12).toNat
  if size = 0 || decide (2 ^ 39 < base + size * 65536) then putFld x 0 1 0 else x
def poolSettled (x : W64) : W64 :=
  let base := x.toNat / 4096 % 2 ^ 36 * 4096
  let count := (fld x 1 11).toNat
  if count = 0 || decide (2 ^ 39 < base + count * 598016) then putFld x 0 1 0 else x

/-- A context's control register written under its map. -/
def csrCtx (n : Nat) (y : W64) (x : Ctx) : Ctx :=
  match n with
  | 0x030 => { x with tvec := keepBits (2 ^ 52 - 16) y }
  | 0x031 => { x with supv := keepBits (2 ^ 52 - 3) y }
  | 0x040 => { x with ctxid := keepBits (2 ^ 28 - 1) y }
  | 0x041 => { x with ptbase := keepBits (2 ^ 48 - 4096 + 1) y }
  | 0x042 => winSettled { x with hwinBase := keepBits (2 ^ 64 - 65536 + 1) y }
  | 0x043 => winSettled { x with hwinLimit := keepBits (2 ^ 52 - 65536) y }
  | 0x044 => winSettled { x with hwinOff := keepBits (2 ^ 64 - 65536) y }
  | 0x045 => { x with ordspill := spillSettled (keepBits (2 ^ 48 - 15) y) }
  | 0x046 => { x with csa := keepBits (2 ^ 48 - 4096 + 1) y }
  | 0x047 => { x with txpool := poolSettled (keepBits (2 ^ 48 - 1) y) }
  | _ => x

/-- CPL_TIMEOUT as stored (R151). -/
def cplTimeoutOf (y : W64) : W64 := let n := y.toNat % 65536; BitVec.ofNat 64 (if n < 32 then 32 else n)

/-- A decrement of a context on its way. -/
def decrementOf (ctx : Nat) (e : Nat × Instr) : Bool := match e.2 with | .tcbDecrement c _ _ _ => c == ctx | _ => false

/-- Decrements of a context that are on their way, which carry its old pair, are discarded (R10, R330). -/
def dropDecrements (ctx : Nat) (s : State) : State :=
  { s with
    agenda := s.agenda.filter (fun e => !decrementOf ctx e)
    stalled := s.stalled.filter (fun e => !decrementOf ctx e)
    remote := s.remote.map (fun r => if r.ctx == ctx then { r with tcb := none } else r)
    dies := s.dies.map (fun d => (d.1, { d.2 with held := d.2.held.map (fun h => if h.dec.any (fun x => x.1 == ctx) then { h with dec := none } else h) })) }

/-- The work of a killed context goes with it: the decrements on their way, what its task objects still had to do, and the decisions in flight for its
queues (R330). -/
def dropWork (ctx : Nat) (s : State) : State :=
  let s1 := dropDecrements ctx s
  { s1 with
    tcbWork := s1.tcbWork.filter (fun w => w.ctx != ctx)
    clusters := s1.clusters.map (fun c => (c.1, { c.2 with qmQ := c.2.qmQ.filter (fun x =>
      !((getDie s1 (c.1 / 64)).slots.any (fun p => p.1 == x.slot && p.2.ctx == ctx))) })) }

/-- A whole register of the context or cluster written. A write of CTXID relabels the context: what it holds (threads, mapped queues, records, engine
commands) carries the new pair from then on (R9), and the decrements on their way, messages that carry the old one, are discarded (R10). -/
def csrWhole (n : Nat) (y : W64) (w : Wave) (s : State) : State :=
  if n = 0x050 then updCluster w.cluster (fun c => { c with cplTimeout := cplTimeoutOf y }) s
  else
    let s1 := updCtx w.ctx (csrCtx n y) s
    if (getCtx s1 w.ctx).ctxid == (getCtx s w.ctx).ctxid then s1 else dropDecrements w.ctx s1

end Sys2Proof.Machine
end

