-- ==== Sys2Proof/Machine/Queue.lean ====
section
/-! DEFINITION. Queues in memory and the slots of a queue manager: mapping and unmapping, appending and notifying; SPAWN, QNOTIFY and the folding of notify
words (R313 to R321). -/

namespace Sys2Proof.Machine

/-! ### Slots -/

def getSlot (s : State) (d k : Nat) : Option QSlot := ((getDie s d).slots.find? (fun p => p.1 == k)).map (·.2)
def putSlot (d k : Nat) (q : QSlot) (s : State) : State := updDie d (fun x => { x with slots := aset k q x.slots }) s
def updSlot (d k : Nat) (f : QSlot → QSlot) (s : State) : State :=
  updDie d (fun x => { x with slots := x.slots.map (fun p => if p.1 == k then (p.1, f p.2) else p) }) s

/-- The slot that maps a descriptor of a context: its die and index. -/
def findSlot (s : State) (ctx : Nat) (desc : W64) : Option (Nat × Nat) :=
  (span 0 4).findSome? (fun d => ((getDie s d).slots.find? (fun p => p.2.ctx == ctx && p.2.desc == desc)).map (fun p => (d, p.1)))

/-- Records that stand in a queue (R313). -/
def occ (q : QSlot) : Nat := (q.tail - q.head).toNat

/-- The capacity of a kind on a die (R313). -/
def kindCap (cart : Bool) : Nat := if cart then 8192 else 524288

/-- Starts on a cluster that have not become lanes yet. -/
def pendingStarts (c : Cluster) : List Start :=
  c.opens.flatMap (·.lanes) ++ c.releaseQ.flatMap (·.lanes) ++ c.dispatchQ.map (·.start)

/-- Lanes or threads launched from a queue on its die that are not yet Exited (R321). -/
def heldCount (s : State) (d k : Nat) : Nat :=
  (s.waves.map (fun w => (w.lanes.filter (fun l => alive l && l.queue == some (d, k))).length)).sum
    + (s.clusters.map (fun c => ((pendingStarts c.2).filter (fun x => x.queue == some (d, k))).length)).sum

/-- Marks of the visible age, 8 at most: a ninth merges into the newest and keeps its time (R321). -/
def addMark (tail : W32) (now : Nat) (ms : List (W32 × Nat)) : List (W32 × Nat) :=
  if ms.length < 8 then ms ++ [(tail, now)]
  else match ms.reverse with
    | (_, t) :: r => (r.reverse) ++ [(tail, t)]
    | [] => [(tail, now)]

/-- The marks that still stand before a record. -/
def liveMarks (q : QSlot) : List (W32 × Nat) := q.marks.filter (fun m => 0 < (m.1 - q.head).toNat && (m.1 - q.head).toNat ≤ occ q)

/-- n records become visible to the queue manager. -/
def raiseTail (d k n : Nat) (s : State) : State :=
  if n = 0 then s
  else updSlot d k (fun q =>
    let t := q.tail + BitVec.ofNat 32 n
    { q with tail := t, stuck := false, marks := addMark t s.clock (liveMarks q) }) s

/-! ### Descriptors (R313, R314) -/

/-- The slot content that a descriptor gives, its launch record aside, and the address of that record; none where a field breaks R313. -/
def descOf (desc : W64) (ctx x : Nat) : Option (QSlot × W64) :=
  let f := recBits x
  let thresh := f 217 24
  let maxsh := f 172 7
  if f 448 64 % 64 != 0 || f 320 64 % 8 != 0 || decide (24 < f 251 5) || thresh = 0 || maxsh = 0 || decide (64 < maxsh) || decide (maxsh < f 179 6)
    || f 0 172 != 0 then none
  else some ({ desc, ctx, base := BitVec.ofNat 64 (f 448 64), notify := BitVec.ofNat 64 (f 320 64), head := BitVec.ofNat 32 (f 288 32)
               tail := BitVec.ofNat 32 (f 256 32), lcap := f 251 5, rsz := 16 * (f 247 4 + 1), cart := f 246 1 == 1, prio := f 243 3, thresh
               age := f 185 32, minsh := f 179 6, maxsh, lr := default }, BitVec.ofNat 64 (f 384 64))

/-- How a map ends. -/
inductive MapRes where
  | ok (d k : Nat)
  /-- a field, a read or a check of R314 failed -/
  | bad
  /-- the sum of MINSH would exceed 64 -/
  | noShare
  | noSlot
deriving DecidableEq, Repr, Inhabited

/-- Sum of MINSH over the die's mapped queues of a kind. -/
def minshSum (s : State) (d : Nat) (cart : Bool) : Nat := (((getDie s d).slots.filter (fun p => p.2.cart == cart)).map (fun p => p.2.minsh)).sum

/-- A notify word swapped into TAIL (R319); its failure is reported under R388. -/
def foldWord (a : Who) (d k : Nat) (s : State) : State × Got Unit :=
  match getSlot s d k with
  | none => (s, .done ())
  | some q =>
    let r := whoRead a q.notify 8 8 s
    let failed (t : LaneTrap) (s : State) : State × Got Unit :=
      match a with
      | .issue _ => if t.code = cPFAULT then (s, .trap t) else (devFailFor (whoLane s a) q.ctx a.cluster t.code t.tval s, .done ())
      | .device _ _ => (devFailMsg q.ctx a.cluster t.code t.tval s, .done ())
    match r.2 with
    | .wait => (r.1, .wait)
    | .trap t => failed t r.1
    | .done bs =>
      if leNat bs = 0 then (r.1, .done ())
      else
        let u := whoAtomic a q.notify 8 (fun _ => 0) r.1
        match u.2 with
        | .wait => (u.1, .wait)
        | .trap t => failed t u.1
        | .done old => (raiseTail d k old u.1, .done ())

/-- Positions written to the descriptor's home by the queue manager of a die, as a release (R319). -/
def writePos (q : QSlot) (d : Nat) (va : W64) (bs : List Byte) (s : State) : State × Dev Unit :=
  let r := devRelease [d] s
  if r.2 then devWriteHome q.ctx (64 * d) false va bs r.1 else (r.1, .wait)

/-- HEAD and TAIL written back to the descriptor (R319, R320). -/
def writeBack (q : QSlot) (d : Nat) (s : State) : State × Dev Unit :=
  writePos q d (q.desc + 32) (leBytes 4 q.tail.toNat ++ leBytes 4 q.head.toNat) s

/-- HEAD written to the descriptor after a launch (R319), tried again while it must wait. -/
def writeHead (d k : Nat) (s : State) : State :=
  match getSlot s d k with
  | none => s
  | some q =>
    let r := writePos q d (q.desc + 36) (leBytes 4 q.head.toNat) s
    match r.2 with
    | .wait => updSlot d k (fun q => { q with headDue := true }) r.1
    | .done _ => updSlot d k (fun q => { q with headDue := false }) r.1
    | .fail c => devFailMsg q.ctx (64 * d) c (q.desc + 36) (updSlot d k (fun q => { q with headDue := false }) r.1)

/-- The HEAD writes of a die that still wait. -/
def writeHeads (d : Nat) (s : State) : State :=
  (((getDie s d).slots.filter (fun p => p.2.headDue)).map (·.1)).foldl (fun s k => writeHead d k s) s

/-- How an unmap ends: the slot is free; the notify word was not 0; the write-back failed finally; or it waits for a fault service or the host. -/
inductive Unmapped where
  | free | noted | failed | later
deriving DecidableEq, Repr, Inhabited

/-- A slot without its queue. -/
def dropSlot (d k : Nat) (s : State) : State := updDie d (fun x => { x with slots := adel k x.slots }) s

/-- An unmap (R320): HEAD and TAIL go back, then the notify word is read once more; the queue stays mapped where it is nonzero, or where the write fails. -/
def unmapSlot (d k : Nat) (s : State) : State × Unmapped :=
  match getSlot s d k with
  | none => (s, .free)
  | some q =>
    let r := writeBack q d s
    match r.2 with
    | .wait => (r.1, .later)
    | .fail c => (devFailMsg q.ctx (64 * d) c (q.desc + 32) r.1, .failed)
    | .done _ =>
      let f := foldWord (.device q.ctx (64 * d)) d k r.1
      match f.2 with
      | .done _ => if (getSlot f.1 d k).map (·.tail) == some q.tail then (dropSlot d k f.1, .free) else (f.1, .noted)
      | _ => (f.1, .later)

/-- A queue that may be unmapped to free its slot (R314). -/
def idleSlot (s : State) (d : Nat) (p : Nat × QSlot) : Bool := !p.2.pinned && occ p.2 == 0 && heldCount s d p.1 == 0 && p.2.waiters.isEmpty

/-- Slots unmapped one after another until one is free. -/
def unmapFirst (d : Nat) : List Nat → State → State × Got (Option Nat)
  | [], s => (s, .done none)
  | k :: r, s =>
    let u := unmapSlot d k s
    match u.2 with
    | .free => (u.1, .done (some k))
    | .later => (u.1, .wait)
    | _ => unmapFirst d r u.1

/-- A free slot of a die, unmapping an idle queue where there is none; which one the manual leaves open. -/
def takeSlot (d : Nat) (s : State) : State × Got (Option Nat) :=
  let x := getDie s d
  let free := (span 0 256).filter (fun k => !(x.slots.any (fun p => p.1 == k)) && !(x.shares.any (fun p => p.1 == k)))
  if free.isEmpty then
    let o := freeOrder ((x.slots.filter (idleSlot s d)).map (·.1)) s
    unmapFirst d o.2 o.1
  else let o := freeOrder free s; (o.1, .done o.2.head?)

/-- A map's failing read: PFAULT stays a fault of the instruction (R389), anything else fails its map; one that the device makes by itself fails finally with the
cause and the address (R388). -/
def mapRead {α : Type} (a : Who) (r : State × Got α) (k : α → State → State × Got MapRes) : State × Got MapRes :=
  match r.2 with
  | .done x => k x r.1
  | .wait => (r.1, .wait)
  | .trap t => if t.code = cPFAULT || a.isDevice then (r.1, .trap t) else (r.1, .done .bad)

/-- The TCB appends of a queue that a pre-emption unmapped (R330) go back into its slot. -/
def takeAppends (ctx : Nat) (desc : W64) (s : State) : State × List (W32 × Nat × W64) :=
  let x := getCtx s ctx
  let mine := (x.appends.filter (fun p => p.1 == desc)).map (·.2)
  if mine.isEmpty then (s, []) else (updCtx ctx (fun x => { x with appends := x.appends.filter (fun p => p.1 != desc) }) s, mine)

/-- A descriptor mapped into a slot of its die (R314) that `slot` finds: the descriptor, its launch record and image, the checks, then the slot and the
notify word. -/
def mapInto (a : Who) (desc : W64) (slot : Nat → State → State × Got (Option Nat)) (s : State) : State × Got MapRes :=
  mapRead a (whoRead a desc 64 64 s) (fun bs s =>
    match descOf desc a.ctx (leNat bs) with
    | none => (s, .done .bad)
    | some (q, lrec) =>
      let d := recBits (leNat bs) 241 2
      mapRead a (readLaunch a lrec s) (fun r s =>
        match r with
        | none => (s, .done .bad)
        | some lr =>
          if lr.cart != q.cart || decide (lr.regs < q.rsz / 4) then (s, .done .bad)
          else if 64 < minshSum s d q.cart + q.minsh then (s, .done .noShare)
          else
            let t := slot d s
            match t.2 with
            | .wait => (t.1, .wait)
            | .trap e => (t.1, .trap e)
            | .done none => (t.1, .done .noSlot)
            | .done (some k) =>
              let q1 : QSlot := { q with lr := lr, marks := if occ q = 0 then [] else [(q.tail, t.1.clock)] }
              let f := foldWord a d k (putSlot d k q1 t.1)
              match f.2 with
              | .done _ =>
                let u := takeAppends a.ctx desc f.1
                (if u.2.isEmpty then u.1 else updSlot d k (fun q => { q with tcbs := u.2 }) u.1, .done (.ok d k))
              | .wait => (dropSlot d k f.1, .wait)
              | .trap t => (dropSlot d k f.1, .trap t)))

/-- A descriptor mapped into any slot of its die. -/
def mapQueue (a : Who) (desc : W64) (s : State) : State × Got MapRes := mapInto a desc takeSlot s

/-- The slot that maps a descriptor, mapped now where there is none. -/
def resolveQueue (a : Who) (desc : W64) (s : State) : State × Got MapRes :=
  match findSlot s a.ctx desc with
  | some (d, k) => (s, .done (.ok d k))
  | none => mapQueue a desc s

/-! ### Appending (R315, R316) -/

/-- Bytes written at their home in pieces of 16: each is performed before TAIL passes it (R316). -/
def writePieces (a : Who) : Nat → W64 → List Byte → State → State × Got Unit
  | 0, _, _, s => (s, .done ())
  | n + 1, va, bs, s =>
    let r := whoWriteHome a va (bs.take 16) s
    match r.2 with
    | .done _ => writePieces a n (va + 16) (bs.drop 16) r.1
    | e => (r.1, e)

/-- Address of record position p (R313). -/
def recordAt (q : QSlot) (p : W32) : W64 := q.base + BitVec.ofNat 64 (p.toNat % 2 ^ q.lcap * q.rsz)

/-- Records written from a position on. -/
def writeRecords (a : Who) (q : QSlot) : List (List Byte) → W32 → State → State × Got Unit
  | [], _, s => (s, .done ())
  | b :: r, p, s =>
    let x := writePieces a (q.rsz / 16) (recordAt q p) b s
    match x.2 with
    | .done _ => writeRecords a q r (p + 1) x.1
    | e => (x.1, e)

/-- Room for n more records. -/
def hasRoom (q : QSlot) (n : Nat) : Bool := n + occ q ≤ 2 ^ q.lcap

/-- A status into w[D] where the form has one, and on. -/
def finishW (nb : Bool) (d : Nat) (x : W64) (words : Nat) (s : State) : State := advance words (if nb then setW d x s else s)

/-- The bytes of a lane's record group. -/
def laneRecord (b n : Nat) (l : Lane) : List Byte := (span b n).flatMap (fun i => leBytes 4 (vGet l i).toNat)

/-- Threads that no longer wait in a SPAWN: out of every queue's list. -/
def dropWaiters (k : Nat) (ids : List Nat) (s : State) : State :=
  { s with dies := s.dies.map (fun d => (d.1, { d.2 with slots := d.2.slots.map (fun p =>
    (p.1, { p.2 with waiters := p.2.waiters.filter (fun x => !(x.1 == k && ids.contains x.2.1)) })) })) }

/-- SPAWN (R315, R316). -/
def execSpawn (h : RG) (p : SpawnP) (s : State) : Out :=
  let w := curWave s
  let desc := wGet w h.a.toNat
  let size := 16 * (p.nrs.toNat + 1)
  let who := Who.issue (issuer s)
  let done (x : W64) : State → State := finishW h.x h.d.toNat x 2
  .next (match selected s h.g h.n with
    | [] => done 0 s
    | ls =>
      let ids := ls.map (·.id)
      if p.rel && !releaseReady p.scope.toNat s then releaseWait p.scope.toNat s
      else heldThen ls (resolveQueue who desc (dropWaiters w.id ids (if p.rel then releaseDrain p.scope.toNat s else s))) (fun r s =>
        match r with
        | .bad => instrTrap ls cPROT desc s
        | .noShare => instrTrap ls cPROT desc s
        | .noSlot => if h.x then done 3 s else waitHere .retry s
        | .ok d k =>
          match getSlot s d k with
          | none => waitHere .retry s
          | some q =>
            if q.rsz != size then instrTrap ls cPROT desc s
            else if !hasRoom q ls.length then
              if h.x then done 1 s
              else waitHere .retry (updSlot d k (fun q => { q with waiters := q.waiters ++ ls.map (fun l => (w.id, l.id, l.pc)) }) s)
            else heldThen ls (writeRecords who q (ls.map (laneRecord h.b.toNat (size / 4))) q.tail s) (fun _ s =>
              done 0 (post d .qmDecision (raiseTail d k ls.length s)))))

/-! ### Notifying (R319) -/

/-- QNOTIFY (R319): a release at .pkg, then an atomic add to the notify word. -/
def execQnotify (o : RG) (s : State) : Out :=
  let w := curWave s
  let desc := wGet w o.a.toNat
  let c := (wGet w o.b.toNat).toNat % 2 ^ 32
  let who := Who.issue (issuer s)
  .next (match active s with
    | [] => s
    | ls =>
      if !releaseReady 2 s then releaseWait 2 s
      else heldThen ls (resolveQueue who desc (releaseDrain 2 s)) (fun r s =>
        match r with
        | .bad => instrTrap ls cPROT desc s
        | .noShare => instrTrap ls cPROT desc s
        | .noSlot => waitHere .retry s
        | .ok d k =>
          match getSlot s d k with
          | none => waitHere .retry s
          | some q => heldThen ls (whoAtomic who q.notify 8 (fun old => (old + c) % 2 ^ 64) s) (fun _ s =>
              advance 1 (post d (.notifyFold d k) (updSlot d k (fun q => { q with stuck := false }) s)))))

/-- NOTIFY_FOLD (R319): the queue manager swaps a nonzero notify word into TAIL. -/
def execNotifyFold (die slot : Nat) (s : State) : Out :=
  .next (match getSlot s die slot with
    | none => s
    | some q =>
      let r := foldWord (.device q.ctx (64 * die)) die slot s
      match r.2 with
      | .wait => stallOnce s.site (.notifyFold die slot) r.1
      | _ => post die .qmDecision r.1)

end Sys2Proof.Machine
end

