-- ==== Sys2Proof/Machine/Tcb.lean ====
section
/-! DEFINITION. Grids, task control blocks and graph replay: LAUNCH in its three modes, decrements, firing, retirement and completion (R324 to R329). -/

namespace Sys2Proof.Machine

/-! ### Grids (R324, R325) -/

/-- How a grid launch ends. -/
inductive GridRes where
  | accepted
  | noQueue
  /-- a declared queue's descriptor is in error -/
  | bad (desc : W64)
deriving DecidableEq, Repr, Inhabited

/-- The dies of a grid's share. -/
def gridDies (lr : LaunchRec) (die : Nat) : List Nat := if lr.dies = 0 then [die] else (span 0 4).filter (fun d => lr.dies / 2 ^ d % 2 = 1)

/-- The teams of the j-th of n dies (R325). -/
def teamsOf (nteam n j : Nat) : List Nat := (span 0 nteam).filter (fun t => t % n == j)

/-- A slot pinned, or unpinned where no grid still holds it. -/
def pinSlot (p : Nat × Nat) (s : State) : State := updSlot p.1 p.2 (fun q => { q with pinned := true }) s
def unpinSlot (p : Nat × Nat) (s : State) : State :=
  if s.grids.any (fun g => g.queues.contains p) then s else updSlot p.1 p.2 (fun q => { q with pinned := false }) s

/-- What a launch had taken is given back (R324). -/
def unpinQueues (qs fresh : List (Nat × Nat)) (s : State) : State :=
  fresh.foldl (fun s p => if (getSlot s p.1 p.2).any (·.pinned) then s else (unmapSlot p.1 p.2 s).1) (qs.foldl (fun s p => unpinSlot p s) s)

/-- Declared queues mapped and pinned in table order: the slots, and those mapped now. A launch that waits or traps keeps none. -/
def pinQueues (a : Who) : List W64 → List (Nat × Nat) → List (Nat × Nat) → State → State × Got (GridRes × List (Nat × Nat) × List (Nat × Nat))
  | [], qs, fresh, s => (s, .done (.accepted, qs, fresh))
  | d :: ds, qs, fresh, s =>
    let old := findSlot s a.ctx d
    let r := resolveQueue a d s
    match r.2 with
    | .wait => (unpinQueues qs fresh r.1, .wait)
    | .trap t => (unpinQueues qs fresh r.1, .trap t)
    | .done (.ok x k) => pinQueues a ds (qs ++ [(x, k)]) (if old.isSome then fresh else fresh ++ [(x, k)]) (pinSlot (x, k) r.1)
    | .done .bad => (r.1, .done (.bad d, qs, fresh))
    | .done .noShare => (r.1, .done (.noQueue, qs, fresh))
    | .done .noSlot => (r.1, .done (.noQueue, qs, fresh))

/-- Share slots given back. -/
def dropShares (acc : List (Nat × Nat)) (s : State) : State := acc.foldl (fun s p => updDie p.1 (fun x => { x with shares := adel p.2 x.shares }) s) s

/-- One slot on each die of the share, or none at all. -/
def takeShares : List Nat → List (Nat × Nat) → State → State × Got (Option (List (Nat × Nat)))
  | [], acc, s => (s, .done (some acc))
  | d :: ds, acc, s =>
    let r := takeSlot d s
    match r.2 with
    | .wait => (dropShares acc r.1, .wait)
    | .trap t => (dropShares acc r.1, .trap t)
    | .done none => (dropShares acc r.1, .done none)
    | .done (some k) =>
      let hold : Share := { grid := r.1.nextId, die := d, teams := [] }
      takeShares ds (acc ++ [(d, k)]) (updDie d (fun x => { x with shares := aset k hold x.shares }) r.1)

/-- A grid launched from a checked record, on the queue manager of a die (R324, R325). -/
def launchGrid (a : Who) (lr : LaunchRec) (die : Nat) (tcb : Option (Nat × W64)) (s : State) : State × Got GridRes :=
  gotThen (if lr.nq = 0 then (s, .done []) else readMany a 8 lr.nq lr.qtab s) (fun bs s =>
    gotThen (pinQueues a (wordsOf lr.nq bs) [] [] s) (fun r s =>
      match r.1 with
      | .accepted =>
        let dies := gridDies lr die
        let t := takeShares dies [] s
        match t.2 with
        | .wait => (unpinQueues r.2.1 r.2.2 t.1, .wait)
        | .trap e => (unpinQueues r.2.1 r.2.2 t.1, .trap e)
        | .done none => (unpinQueues r.2.1 r.2.2 t.1, .done .noQueue)
        | .done (some ks) =>
          let id := t.1.nextId
          let g : Grid := { id, ctx := a.ctx, lr, die, alive := lr.nteam, queues := r.2.1, tcb }
          let s1 := { t.1 with nextId := id + 1, grids := t.1.grids ++ [g] }
          let s2 := (span 0 ks.length).foldl (fun s j =>
            let p := nth (0, 0) ks j
            let sh : Share := { grid := id, die := p.1, teams := teamsOf lr.nteam dies.length j, last := 63, since := s.clock }
            post p.1 .qmDecision (updDie p.1 (fun x => { x with shares := aset p.2 sh x.shares }) s)) s1
          (s2, .done .accepted)
      | e => (unpinQueues r.2.1 r.2.2 s, .done e)))

/-- A LAUNCH orders every access of the issuer before it (R324). -/
def launchInstr (h : RG) (k : List Lane → State → State) (s : State) : State :=
  match selected s h.g h.n with
  | [] => advance 2 s
  | ls => if !releaseReady 2 s then releaseWait 2 s else k ls (releaseDrain 2 s)

/-- LAUNCH.grid (R324, R325). -/
def execLaunchGrid (h : RG) (p : Launch0) (s : State) : Out :=
  let w := curWave s
  let who := Who.issue (issuer s)
  .next (launchInstr h (fun ls s =>
    withRecord (.launchGrid h p) ls (wGet w h.a.toNat) (fun _ => true) (fun lr s =>
      heldThen ls (launchGrid who lr (w.cluster / 64) none s) (fun r s =>
        match r with
        | .accepted => advance 2 (setW h.d.toNat 0 s)
        | .noQueue => advance 2 (setW h.d.toNat 3 s)
        | .bad desc => instrTrap ls cPROT desc s)) s) s)

/-! ### Task control blocks (R326, R327) -/

/-- Fields of the word [319:256] of a TCB. -/
def tcbPend (x : Nat) : Nat := x / 2 ^ 32 % 2 ^ 32
def tcbNsucc (x : Nat) : Nat := x / 2 ^ 16 % 2 ^ 16
def tcbAct (x : Nat) : Nat := if x % 2 ^ 11 != 0 then 3 else x / 2 ^ 14 % 4
def tcbState (x : Nat) : Nat := x / 2 ^ 12 % 4

/-- The word with PEND, STATE and ERR as given. -/
def tcbWith (pend state : Nat) (err : Bool) (x : Nat) : Nat :=
  pend % 2 ^ 32 * 2 ^ 32 + x / 2 ^ 14 % 2 ^ 18 * 2 ^ 14 + state % 4 * 2 ^ 12 + err.toNat * 2 ^ 11 + x % 2 ^ 11

def tcbErr (x : Nat) : Bool := x / 2 ^ 11 % 2 == 1

/-- A decrement (R327): the new word. -/
def tcbDec (x : Nat) : Nat :=
  if tcbState x = 0 && 2 ≤ tcbPend x then tcbWith (tcbPend x - 1) 0 (tcbErr x) x
  else if tcbState x = 0 && tcbPend x = 1 then tcbWith 0 1 (tcbErr x) x
  else tcbWith (tcbPend x) (tcbState x) true x

/-- The decrement fires the TCB. -/
def tcbFires (x : Nat) : Bool := tcbState x = 0 && tcbPend x = 1

/-- The control word changed in ordinary mode, for the lane that `who` names (0: none); a final failure is reported and skipped: one at a peer with the PC of the
instruction (R368), another without it (R388). -/
def tcbAtomic (who ctx die : Nat) (tcb : W64) (f : Nat → Nat) (s : State) : State × Dev Nat :=
  let r := devAtomic ctx (64 * die) false (tcb + 32) 8 f s
  match r.2 with
  | .fail c => (devFailFor (if c = cREMOTE then who else who / 2 ^ 78 * 2 ^ 78) ctx (64 * die) c (tcb + 32) r.1, .fail c)
  | _ => r

/-- ERR set; false where it must wait. -/
def tcbSetErr (w : TcbWork) (s : State) : State × Bool :=
  let r := tcbAtomic 0 w.ctx w.die w.tcb (fun x => tcbWith (tcbPend x) (tcbState x) true x) s
  (r.1, r.2 != .wait)

def addWork (w : TcbWork) (s : State) : State := { s with tcbWork := s.tcbWork ++ [w] }

/-- The action failed: the message of R388, and retirement with ERR. -/
def failAction (w : TcbWork) (cause : Nat) (addr : W64) (s : State) : State :=
  addWork { w with job := .retire true } (devFailMsg w.ctx (64 * w.die) cause addr s)

/-- The successor table read entry by entry: the addresses read before a failure, and whether one ended it. -/
def readSuccs (ctx die : Nat) : Nat → W64 → State → State × Dev (List W64 × Option (Nat × W64))
  | 0, _, s => (s, .done ([], none))
  | n + 1, va, s =>
    let r := devRead ctx (64 * die) false va 8 s
    match r.2 with
    | .wait => (r.1, .wait)
    | .fail c => (r.1, .done ([], some (c, va)))
    | .done bs =>
      let q := readSuccs ctx die n (va + 8) r.1
      match q.2 with
      | .done (l, e) => (q.1, .done (BitVec.ofNat 64 (leNat bs) :: l, e))
      | e => (q.1, e)

/-- The TCB no longer holds back the replay it belongs to. -/
def leaveReplay (ctx : Nat) (tcb : W64) (s : State) : State :=
  { s with replays := s.replays.map (fun r => if r.ctx == ctx && r.left.contains tcb then { r with left := r.left.filter (· != tcb) } else r) }

/-- Retirement (R327): STATE 2, then each successor is decremented once, in table order, each as a release of all that was done for the TCB on any die. -/
def tcbRetire (w : TcbWork) (err : Bool) (s : State) : State × Bool :=
  let f := devRelease (span 0 4) s
  if !f.2 then (f.1, false)
  else
    let r := devReads w.ctx (64 * w.die) false 16 4 w.tcb f.1
    match r.2 with
    | .wait => (r.1, false)
    | .fail c => (leaveReplay w.ctx w.tcb (devFailMsg w.ctx (64 * w.die) c w.tcb r.1), true)
    | .done bs =>
      let x := leNat bs
      let q := readSuccs w.ctx w.die (tcbNsucc (recBits x 256 64)) (BitVec.ofNat 64 (recBits x 448 64)) r.1
      match q.2 with
      | .done (succs, bad) =>
        let a := tcbAtomic 0 w.ctx w.die w.tcb (fun y => tcbWith (tcbPend y) 2 (tcbErr y || err || bad.isSome) y) q.1
        match a.2 with
        | .wait => (a.1, false)
        | _ =>
          let s2 := match bad with | some (c, va) => devFailMsg w.ctx (64 * w.die) c va a.1 | none => a.1
          (succs.foldl (fun s t => post (64 * w.die) (.tcbDecrement w.ctx w.die t (.tcb w.tcb)) s) (leaveReplay w.ctx w.tcb s2), true)
      | _ => (q.1, false)

/-- ACT 0: the record is appended as a one-lane SPAWN would (R327), waiting for room. -/
def tcbAppend (w : TcbWork) (desc recAddr : W64) (s : State) : State × Bool :=
  let who := Who.device w.ctx (64 * w.die)
  let r := resolveQueue who desc s
  match r.2 with
  | .wait => (r.1, false)
  | .trap t => (failAction w t.code t.tval r.1, true)
  | .done .noSlot => (r.1, false)
  | .done (.ok d k) =>
    match getSlot r.1 d k with
    | none => (r.1, false)
    | some q =>
      if !hasRoom q 1 then (r.1, false)
      else
        let b := readMany who 8 (q.rsz / 8) recAddr r.1
        match b.2 with
        | .wait => (b.1, false)
        | .trap t => (failAction w t.code t.tval b.1, true)
        | .done bs =>
          let u := writeRecords who q [bs] q.tail b.1
          match u.2 with
          | .wait => (u.1, false)
          | .trap t => (failAction w t.code t.tval u.1, true)
          | .done _ => (post d .qmDecision (raiseTail d k 1 (updSlot d k (fun q => { q with tcbs := q.tcbs ++ [(q.tail, w.ctx, w.tcb)] }) u.1)), true)
  | .done _ => (failAction w cPROT desc r.1, true)

/-- ACT 1: the target is launched as a grid (R327). -/
def tcbLaunch (w : TcbWork) (rec_ : W64) (s : State) : State × Bool :=
  let who := Who.device w.ctx (64 * w.die)
  let r := gotThen (readLaunch who rec_ s) (fun lr s =>
    match lr with
    | none => (s, .done (GridRes.bad rec_))
    | some lr => launchGrid who lr w.die (some (w.ctx, w.tcb)) s)
  match r.2 with
  | .wait => (r.1, false)
  | .trap t => (failAction w t.code t.tval r.1, true)
  | .done .accepted => (r.1, true)
  | .done .noQueue => (failAction w cPROT rec_ r.1, true)
  | .done (.bad a) => (failAction w cPROT a r.1, true)

/-- The action of a fired TCB (R327): done, or still waiting. -/
def tcbFire (w : TcbWork) (s : State) : State × Bool :=
  let r := devReads w.ctx (64 * w.die) false 16 4 w.tcb s
  match r.2 with
  | .wait => (r.1, false)
  | .fail c => (failAction w c w.tcb r.1, true)
  | .done bs =>
    let x := leNat bs
    let target := BitVec.ofNat 64 (recBits x 384 64)
    match tcbAct (recBits x 256 64) with
    | 0 => tcbAppend w target (BitVec.ofNat 64 (recBits x 320 64)) r.1
    | 1 => tcbLaunch w target r.1
    | 2 => (addWork { w with job := .retire false } r.1, true)
    | _ => (addWork { w with job := .retire true } r.1, true)

/-- Work tried once, in order; what still waits stays. New work goes behind it and is tried too, n pieces at most. -/
def tcbWorkRun : Nat → List TcbWork → State → State
  | 0, kept, s => { s with tcbWork := kept ++ s.tcbWork }
  | n + 1, kept, s =>
    match s.tcbWork with
    | [] => { s with tcbWork := kept }
    | w :: rest =>
      let s1 := { s with tcbWork := rest }
      if ctxAway s w.ctx then tcbWorkRun n (kept ++ [w]) s1
      else
        let r := attemptAs (.work w.ctx w.die w.tcb) (fun s => match w.job with | .fire => tcbFire w s | .retire err => tcbRetire w err s | .err => tcbSetErr w s) s1
        if r.2 then tcbWorkRun n kept r.1 else tcbWorkRun n (kept ++ [w]) r.1

/-- Work that waits is tried (R327). -/
def runTcbWork (s : State) : State := tcbWorkRun (2 * s.tcbWork.length) [] s

/-- A TCB fires: its action at once, or as soon as it can. -/
def fireTcb (ctx die : Nat) (tcb : W64) (s : State) : State := runTcbWork (addWork { ctx, die, tcb, job := .fire } s)

/-- A TCB retires. -/
def retireTcb (ctx die : Nat) (tcb : W64) (s : State) : State := runTcbWork (addWork { ctx, die, tcb, job := .retire false } s)

/-- TCB_DECREMENT (R228, R327): a release, then the decrement; it may fire the TCB. A failed decrement is dropped: its message names the lane of an STC, and one
from a predecessor sets that one's ERR. -/
def execTcbDecrement (ctx die : Nat) (tcb : W64) (by_ : DecBy) (s : State) : Out :=
  let lane := match by_ with | .stc l => l | .tcb _ => 0
  let f := devRelease [die] s
  let r := if f.2 then tcbAtomic lane ctx die tcb tcbDec f.1 else (f.1, .wait)
  .next (match r.2 with
    | .wait => stall s.site (.tcbDecrement ctx die tcb by_) r.1
    | .fail _ => (match by_ with | .tcb p => runTcbWork (addWork { ctx, die, tcb := p, job := .err } r.1) | .stc _ => r.1)
    | .done old => if tcbFires old then fireTcb ctx die tcb r.1 else r.1)

/-- LAUNCH.arm (R324, R326): fires the TCB if PEND = 0 and STATE = 0. -/
def execLaunchArm (h : RG) (_ : Launch2) (s : State) : Out :=
  let w := curWave s
  let tcb := wGet w h.a.toNat
  let ready (x : Nat) : Bool := tcbPend x == 0 && tcbState x == 0
  .next (launchInstr h (fun ls s =>
    heldThen ls (whoRead (.issue (issuer s)) tcb 64 64 s) (fun _ s =>
      heldThen ls (whoAtomic (.issue (issuer s)) (tcb + 32) 8 (fun x => if ready x then tcbWith 0 1 (tcbErr x) x else x) s) (fun old s =>
        if ready old then fireTcb w.ctx (w.cluster / 64) tcb (advance 2 (setW h.d.toNat 0 s)) else advance 2 (setW h.d.toNat 2 s)))) s)

/-! ### Graph replay (R328, R329) -/

/-- The parts of a graph object of 64 bytes. -/
structure GraphObj where
  tcbs : W64
  init : W64
  parm : W64
  done : W64
  nt : Nat
  pmax : Nat
deriving DecidableEq, Repr, Inhabited

def graphOf (x : Nat) : GraphObj :=
  let f := recBits x
  { tcbs := BitVec.ofNat 64 (f 448 64), init := BitVec.ofNat 64 (f 384 64), parm := BitVec.ofNat 64 (f 320 64), done := BitVec.ofNat 64 (f 256 64)
    nt := f 240 16, pmax := f 224 16 }

/-- The object is legal at LAUNCH (R328). -/
def graphOk (x : Nat) : Bool := recBits x 0 218 == 0 && recBits x 240 16 != 0 && recBits x 256 64 % 8 == 0

/-- RUN, NPEND and PQH in the word at byte 24 of the object. -/
def gRun (x : Nat) : Bool := x / 2 ^ 31 % 2 == 1
def gNpend (x : Nat) : Nat := x / 2 ^ 28 % 8
def gPqh (x : Nat) : Nat := x / 2 ^ 26 % 4
def gWith (run : Bool) (npend pqh x : Nat) : Nat := x / 2 ^ 32 * 2 ^ 32 + run.toNat * 2 ^ 31 + npend % 8 * 2 ^ 28 + pqh % 4 * 2 ^ 26 + x % 2 ^ 26

/-- A launch on the object (R329): the new word. -/
def gLaunch (x : Nat) : Nat :=
  if !gRun x then gWith true (gNpend x) (gPqh x) x else if gNpend x < 4 then gWith true (gNpend x + 1) (gPqh x) x else x

/-- n bytes copied by the device for a context, 8 at most at a time; a failed piece is skipped and reported. -/
def devCopy (ctx cluster : Nat) : Nat → W64 → W64 → State → State × Dev Unit
  | 0, _, _, s => (s, .done ())
  | n + 1, dst, src, s =>
    let r := devRead ctx cluster false src 1 s
    match r.2 with
    | .wait => (r.1, .wait)
    | .fail c => devCopy ctx cluster n (dst + 1) (src + 1) (devFailMsg ctx cluster c src r.1)
    | .done bs =>
      let q := devWrite ctx cluster false dst bs r.1
      match q.2 with
      | .wait => (q.1, .wait)
      | .fail c => devCopy ctx cluster n (dst + 1) (src + 1) (devFailMsg ctx cluster c dst q.1)
      | .done _ => devCopy ctx cluster n (dst + 1) (src + 1) q.1

/-- The patch of a replay written into its parameter area. -/
def applyPatch (ctx die : Nat) (g : GraphObj) (patch : W64) (s : State) : State × Dev Unit :=
  if patch = 0 then (s, .done ())
  else
    let r := devReads ctx (64 * die) false 8 2 patch s
    match r.2 with
    | .wait => (r.1, .wait)
    | .fail c => (devFailMsg ctx (64 * die) c patch r.1, .done ())
    | .done bs =>
      let x := leNat bs
      devCopy ctx (64 * die) (recBits x 80 16) (g.parm + BitVec.ofNat 64 (recBits x 64 16)) (BitVec.ofNat 64 (recBits x 0 64)) r.1

/-- TCBs i, i + 1, ... reset to their initial counts: those whose count is 0. -/
def resetTcbs (ctx die : Nat) (g : GraphObj) : List Nat → State → State × Dev (List W64)
  | [], s => (s, .done [])
  | i :: is, s =>
    let t := g.tcbs + BitVec.ofNat 64 (64 * i)
    let r := devRead ctx (64 * die) false (g.init + BitVec.ofNat 64 (4 * i)) 4 s
    match r.2 with
    | .wait => (r.1, .wait)
    | .fail c => resetTcbs ctx die g is (devFailMsg ctx (64 * die) c (g.init + BitVec.ofNat 64 (4 * i)) r.1)
    | .done bs =>
      let u := tcbAtomic 0 ctx die t (fun x => tcbWith (leNat bs) 0 false x) r.1
      match u.2 with
      | .wait => (u.1, .wait)
      | .fail _ => resetTcbs ctx die g is u.1
      | .done _ =>
        let q := resetTcbs ctx die g is u.1
        match q.2 with
        | .done l => (q.1, .done (if leNat bs = 0 then t :: l else l))
        | e => (q.1, e)

/-- The object read by the device. -/
def readGraph (r : Replay) (s : State) : State × Dev GraphObj :=
  let x := devReads r.ctx (64 * r.die) false 16 4 r.obj s
  match x.2 with
  | .done bs => (x.1, .done (graphOf (leNat bs)))
  | .wait => (x.1, .wait)
  | .fail c => (x.1, .fail c)

/-- STATE of TCBs that fire; false where one must wait. -/
def markFired (ctx die : Nat) : List W64 → State → State × Bool
  | [], s => (s, true)
  | t :: ts, s =>
    let r := tcbAtomic 0 ctx die t (fun x => tcbWith (tcbPend x) 1 (tcbErr x) x) s
    if r.2 == .wait then (r.1, false) else markFired ctx die ts r.1

/-- start(patch) of R329, in one piece: none where it must wait; the replay as it then runs. -/
def startReplay (r : Replay) (patch : W64) (s : State) : State × Option Replay :=
  let o := readGraph r s
  match o.2 with
  | .wait => (o.1, none)
  | .fail c => (devFailMsg r.ctx (64 * r.die) c r.obj o.1, some { r with starting := none, left := [] })
  | .done g =>
    let p := applyPatch r.ctx r.die g patch o.1
    match p.2 with
    | .wait => (p.1, none)
    | _ =>
      let t := resetTcbs r.ctx r.die g (span 0 g.nt) p.1
      match t.2 with
      | .wait => (t.1, none)
      | .fail _ => (t.1, none)
      | .done roots =>
        let all := (span 0 g.nt).map (fun i => g.tcbs + BitVec.ofNat 64 (64 * i))
        let m := markFired r.ctx r.die roots t.1
        let f := if m.2 then devRelease [r.die] m.1 else m
        if f.2 then (roots.foldl (fun s t => addWork { ctx := r.ctx, die := r.die, tcb := t, job := .fire } s) f.1, some { r with starting := none, left := all })
        else (f.1, none)

/-- The completion word raised (R325, R329), as a release at .sys of all that was done on any die; a final failure is reported and skipped, and false is a wait. -/
def raiseDone (ctx die : Nat) (done : W64) (s : State) : State × Bool :=
  if done = 0 then (s, true)
  else
    let f := devRelease (span 0 4) s
    if !f.2 then (f.1, false)
    else
      let d := devAtomic ctx (64 * die) false done 8 (fun x => (x + 1) % 2 ^ 64) f.1
      match d.2 with
      | .wait => (d.1, false)
      | .done _ => (d.1, true)
      | .fail c => (devFailMsg ctx (64 * die) c done d.1, true)

/-- The replay after one that is over and counted (R329): the oldest pending patch starts, or RUN is 0. The replay to keep, as it stands where it must wait. -/
def nextReplay (r : Replay) (s : State) : State × Option Replay :=
  let word (f : Nat → Nat) (s : State) : State × Dev Nat := devAtomic r.ctx (64 * r.die) false (r.obj + 24) 8 f s
  let u := word id s
  match u.2 with
  | .wait => (u.1, some r)
  | .fail c => (devFailMsg r.ctx (64 * r.die) c (r.obj + 24) u.1, none)
  | .done old =>
    if gNpend old = 0 then ((word (fun x => gWith false 0 (gPqh x) x) u.1).1, none)
    else
      let slot := r.obj + BitVec.ofNat 64 (64 + 8 * gPqh old)
      let p := devRead r.ctx (64 * r.die) false slot 8 u.1
      let go (patch : W64) (s : State) : State × Option Replay :=
        ((word (fun x => gWith true (gNpend x - 1) (gPqh x + 1) x) s).1, some { r with starting := some patch, counted := false })
      match p.2 with
      | .wait => (p.1, some r)
      | .fail c => go 0 (devFailMsg r.ctx (64 * r.die) c slot p.1)
      | .done bs => go (BitVec.ofNat 64 (leNat bs)) p.1

/-- Every TCB of the replay has retired (R329): DONE, once, then the next replay, or the end; the replay to keep. -/
def finishReplay (r : Replay) (s : State) : State × Option Replay :=
  if r.counted then nextReplay r s
  else
    let o := readGraph r s
    match o.2 with
    | .wait => (o.1, some r)
    | .fail c => (devFailMsg r.ctx (64 * r.die) c r.obj o.1, none)
    | .done g =>
      let d := raiseDone r.ctx r.die g.done o.1
      if d.2 then nextReplay { r with counted := true } d.1 else (d.1, some r)

/-- A replay that waits for its start tries it. -/
def tryStart (r : Replay) (s : State) : State × Replay :=
  match r.starting with
  | some p => let x := startReplay r p s; (x.1, x.2.getD r)
  | none => (s, r)

/-- One replay moved on as far as it can be. -/
def replayStep (r : Replay) (s : State) : State × Option Replay :=
  if ctxAway s r.ctx then (s, some r)
  else if r.starting.isNone && r.left.isEmpty then
    let f := finishReplay r s
    match f.2 with
    | none => (f.1, none)
    | some r2 => let x := tryStart r2 f.1; (x.1, some x.2)
  else let x := tryStart r s; (x.1, some x.2)

/-- Every replay that can go on does (GRAPH_REPLAY_DONE of R329). -/
def runReplays (s : State) : State :=
  let rs := s.replays
  let r := rs.foldl (fun (acc : State × List Replay) x => let y := replayStep x acc.1; (y.1, acc.2 ++ y.2.toList)) ({ s with replays := [] }, [])
  runTcbWork { r.1 with replays := r.2 ++ r.1.replays }

/-- A replay queued on an object whose word was old (R329): started, kept among the pending patches, or turned away; its status. -/
def queueReplay (ctx die : Nat) (obj patch : W64) (old : Nat) (s : State) : State × Nat :=
  if !gRun old then (runReplays { s with replays := s.replays ++ [{ ctx, die, obj, left := [], starting := some patch }] }, 0)
  else if gNpend old < 4 then (s, 0)
  else (s, 1)

/-- The object's word changed for a launch (R329): the patch kept at its home first, where it is to be kept; the old word. -/
def launchWord (who : Who) (obj patch : W64) (s : State) : State × Got Nat :=
  gotThen (whoAtomic who (obj + 24) 8 id s) (fun old s =>
    let keep := gRun old && decide (gNpend old < 4)
    let slot := obj + BitVec.ofNat 64 (64 + 8 * ((gPqh old + gNpend old) % 4))
    gotThen (if keep then whoWriteHome who slot (leBytes 8 patch.toNat) s else (s, .done ())) (fun _ s => whoAtomic who (obj + 24) 8 gLaunch s))

/-- LAUNCH.graph (R324, R328, R329). -/
def execLaunchGraph (h : RG) (p : Launch1) (s : State) : Out :=
  let w := curWave s
  let obj := wGet w h.a.toNat
  let patch := wGet w h.b.toNat
  let who := Who.issue (issuer s)
  .next (launchInstr h (fun ls s =>
    heldThen ls (whoRead who obj 128 64 s) (fun bs s =>
      let x := leNat bs
      if !graphOk x then illOperands (.launchGraph h p) ls s
      else heldThen ls (if patch = 0 then (s, .done []) else readMany who 8 2 patch s) (fun pb s =>
        let y := leNat pb
        if (graphOf x).pmax < recBits y 64 16 + recBits y 80 16 then illOperands (.launchGraph h p) ls s
        else heldThen ls (launchWord who obj patch s) (fun old s =>
          let q := queueReplay w.ctx (w.cluster / 64) obj patch old (advance 2 s)
          setW h.d.toNat (BitVec.ofNat 64 q.2) q.1)))) s)

/-! ### Completion of grids (R325) -/

/-- The lane runs no more: it has exited, or its wave is gone. -/
def laneGone (s : State) (p : Nat × Nat) : Bool := !(s.waves.any (fun w => w.id == p.1 && w.lanes.any (fun l => l.id == p.2 && alive l)))

/-- Every access of a context's lanes that have exited is performed. -/
def gonePerformed (s : State) (ctx : Nat) : Bool :=
  s.waves.all (fun w => w.ctx != ctx || w.log.all (fun e => e.2.lanes.all (fun p => !laneGone s (w.id, p.lane))))
    && s.remote.all (fun r => r.ctx != ctx || !r.who.any (laneGone s))
    && s.dies.all (fun d => d.2.held.all (fun h => !h.who.any (laneGone s)))

/-- The grid's teams are all Retired, its declared queues are mapped (R330) and empty with no lane running, and what its lanes did is performed. -/
def gridOver (s : State) (g : Grid) : Bool :=
  g.alive == 0 && !ctxAway s g.ctx && !((getCtx s g.ctx).saved.pinned.any (fun p => g.queues.contains (p.1, p.2.1)))
    && g.queues.all (fun p => heldCount s p.1 p.2 == 0 && (getSlot s p.1 p.2).all (fun q => occ q == 0)) && gonePerformed s g.ctx

/-- GRID_COMPLETE (R325): the queues are unpinned, the shares' slots freed, DONE raised; a TCB that launched the grid retires. It is tried again where the
completion word's page is being served. -/
def gridComplete (g : Grid) (s : State) : State :=
  let d := attemptAs (.grid g.id) (raiseDone g.ctx g.die g.lr.done) s
  if !d.2 then d.1
  else
    let s1 := d.1
    let s2 := { s1 with grids := s1.grids.filter (fun x => x.id != g.id) }
    let s3 := g.queues.foldl (fun s p => unpinSlot p s) s2
    let s4 := (span 0 4).foldl (fun s d => updDie d (fun x => { x with shares := x.shares.filter (fun p => p.2.grid != g.id) }) s) s3
    match g.tcb with
    | some (ctx, t) => retireTcb ctx g.die t s4
    | none => s4

/-- Every grid that is over completes. -/
def completeGrids (s : State) : State := (s.grids.filter (gridOver s)).foldl (fun s g => gridComplete g s) s

end Sys2Proof.Machine
end

