-- ==== Sys2Proof/Machine/Qm.lean ====
section
/-! DEFINITION. Selection by the queue manager of a die, launches from queues, and the admission of teams and gangs (R37, R137, R138, R318, R321 to R323,
R325). -/

namespace Sys2Proof.Machine

/-! ### Room for teams (R35, R37, R137, R138) -/

/-- Bytes of local memory that a cluster's teams have. -/
def lmUsed (s : State) (c : Nat) : Nat := ((s.teams.filter (fun t => t.cluster == c && !t.retired)).map (·.lm)).sum

def lmFits (s : State) (c lm : Nat) : Bool := clusterUp s c && decide (lmUsed s c + lm ≤ 2 ^ 21)

/-- Carriages of a cluster that have slots and registers for a whole team. -/
def teamCarriages (s : State) (c : Nat) (lr : LaunchRec) : List Nat :=
  (span 0 4).filter (fun u => decide (lr.teamsz ≤ (waveSlots s c u).length) && decide (regsUsed s c u + lr.teamsz * lr.regs ≤ 512))

/-- The cluster can admit a team of a launch record, whole. -/
def canAdmit (s : State) (c : Nat) (lr : LaunchRec) : Bool :=
  lmFits s c lr.lm && (if lr.cart then decide (lr.teamsz ≤ (freeThreads s c).length) else !(teamCarriages s c lr).isEmpty)

/-- A gang that a team belongs to: its number, the team's rank, its shape. -/
structure GangInfo where
  gang : Nat
  rank : Nat
  gw : Nat
  gh : Nat
deriving DecidableEq, Repr, Inhabited

/-- The places that a team's waves or threads take; among several the manual leaves the choice open. -/
def teamSeats (c : Nat) (lr : LaunchRec) (s : State) : State × List Seat :=
  if lr.cart then
    let o := freeOrder ((freeThreads s c).map (fun p => 8 * p.1 + p.2)) s
    (o.1, (o.2.take lr.teamsz).map (fun k => { cart := true, cluster := c, unit := k / 8, slot := k % 8 }))
  else
    let a := freeOrder (teamCarriages s c lr) s
    let u := nth 0 a.2 0
    let b := freeOrder (waveSlots s c u) a.1
    (b.1, (b.2.take lr.teamsz).map (fun k => { cart := false, cluster := c, unit := u, slot := k }))

/-- A team admitted to a cluster with its members (R37, R138, R281): local memory zero, texel cache empty. -/
def admitTeam (c : Nat) (lr : LaunchRec) (ctx : Nat) (grid : Option Nat) (gang : Option GangInfo) (index : Nat) (s : State) : State :=
  let q := teamSeats c lr s
  let id := q.1.nextId
  let t : Team := { id, ctx, cluster := c, cart := lr.cart, size := lr.teamsz, lm := lr.lm, grid, lr
                    gang := gang.map (·.gang), rank := (gang.map (·.rank)).getD 0, gw := (gang.map (·.gw)).getD 1, gh := (gang.map (·.gh)).getD 1 }
  let s1 := updCluster c (fun x => { x with texc := [] }) { q.1 with teams := q.1.teams ++ [t], nextId := id + 1 }
  let s2 := (span 0 lr.teamsz).foldl (fun s i =>
    let st (v0 : Nat) : Start := { pc := lr.entry, v := [BitVec.ofNat 32 v0, BitVec.ofNat 32 index], m := [] }
    let ls : List (Nat × Start) := if lr.cart then [(0, st i)] else (span 0 128).map (fun l => (l, st (128 * i + l)))
    addWave (nth default q.2 i) id (some i) ctx lr ls s) s1
  chrono (c / 64) (c % 64) 0 id s2

/-- Clusters of a die, ascending after the one chosen last, wrapping. -/
def clustersAfter (d last : Nat) : List Nat := (span 1 64).map (fun i => 64 * d + (last + i) % 64)

/-- The clusters of a rectangle by rank, from its rank-0 cluster; none where it leaves the mesh (R33, R135). -/
def rectangle (c gw gh : Nat) : Option (List Nat) :=
  let x := c % 8
  let y := c / 8 % 8
  if 8 < x + gw || 8 < y + gh then none else some ((span 0 (gw * gh)).map (fun r => c + r % gw + 8 * (r / gw)))

/-- Where the next team or gang of a share goes: its clusters by rank (R325). -/
def sharePlace (s : State) (d : Nat) (lr : LaunchRec) (last : Nat) : Option (List Nat) :=
  if lr.gw * lr.gh = 1 then ((clustersAfter d last).find? (fun c => canAdmit s c lr)).map (fun c => [c])
  else (clustersAfter d last).findSome? (fun c => match rectangle c lr.gw lr.gh with
    | some cs => if cs.all (fun c => canAdmit s c lr) then some cs else none
    | none => none)

/-- The next team, or gang, of a grid's share on a die admitted whole (R138, R325). -/
def admitNext (grid d : Nat) (s : State) : State :=
  match s.grids.find? (fun g => g.id == grid), (getDie s d).shares.find? (fun p => p.2.grid == grid) with
  | some g, some (k, sh) =>
    match sh.teams with
    | [] => s
    | t :: rest =>
      match sharePlace s d g.lr sh.last with
      | none => s
      | some cs =>
        let gid := s.nextId
        let alone := g.lr.gw * g.lr.gh = 1
        let s1 := if alone then s else { s with nextId := gid + 1 }
        let s2 := (span 0 cs.length).foldl (fun s r =>
          admitTeam (nth 0 cs r) g.lr g.ctx (some g.id) (if alone then none else some { gang := gid, rank := r, gw := g.lr.gw, gh := g.lr.gh }) t s) s1
        let sh' : Share := { sh with teams := rest, last := nth 0 cs 0 % 64 }
        post d .qmDecision (updDie d (fun x => { x with shares := aset k sh' x.shares }) s2)
  | _, _ => s

/-- TEAM_ADMIT (R138, R325) at a grid's share, 4 * grid + die. A decision for a context that has left the package is not carried out (R330). -/
def execTeamAdmit (s : State) : Out :=
  .next (if (s.grids.find? (fun g => g.id == s.site / 4)).any (fun g => ctxAway s g.ctx) then s else admitNext (s.site / 4) (s.site % 4) s)

/-- The admissions of a context's teams that are decided and not yet carried out, completed (R330). -/
def finishAdmits (h : Nat) (s : State) : State :=
  let mine (p : Nat × Instr) : Bool := p.2 == .teamAdmit && s.grids.any (fun g => g.id == p.1 / 4 && g.ctx == h)
  let due := (s.agenda ++ s.stalled).filter mine
  due.foldl (fun s p => admitNext (p.1 / 4) (p.1 % 4) s)
    { s with agenda := s.agenda.filter (fun p => !mine p), stalled := s.stalled.filter (fun p => !mine p) }

/-! ### Eligibility (R318, R321) -/

/-- A queue's team on a cluster (R323). -/
def queueTeam (s : State) (q : QSlot) (c : Nat) : Option Nat :=
  (q.teams.find? (fun p => p.1 == c && s.teams.any (fun t => t.id == p.2))).map (·.2)

/-- The coupler of a cluster can take a lane of a queue. -/
def couplerCan (s : State) (c : Nat) (q : QSlot) : Bool :=
  let k := getCluster s c
  let full := decide (16 ≤ k.releaseQ.length)
  match (queueTeam s q c).bind (fun t => k.opens.find? (hasKey t q.ctx (.entry q.lr.entry))) with
  | some o => decide (o.lanes.length < 128)
  | none => !full

/-- The cluster can take a launch of the queue (R323). -/
def canLaunch (s : State) (q : QSlot) (c : Nat) : Bool :=
  clusterUp s c && ((queueTeam s q c).isSome || lmFits s c q.lr.lm)
    && (if q.cart then decide ((getCluster s c).dispatchQ.length < 64) else couplerCan s c q)

/-- A lane still waits in a SPAWN for room: it stands at that instruction. -/
def waiterLane (x : Nat × Nat × W64) (l : Lane) : Bool := l.id == x.2.1 && l.pc == x.2.2 && (l.st == .waiting .retry || l.st == .ready)

/-- A thread still waits in a SPAWN for room. -/
def waiterLive (s : State) (x : Nat × Nat × W64) : Bool := s.waves.any (fun w => w.id == x.1 && w.lanes.any (waiterLane x))

/-- The queue is back-pressured (R318). -/
def backPressed (s : State) (q : QSlot) : Bool := q.waiters.any (waiterLive s)

/-- Lanes launched from the queue wait in SPAWN on a full queue (R318). -/
def ownWaiting (s : State) (d k : Nat) : Bool :=
  s.dies.any (fun x => x.2.slots.any (fun p => p.2.waiters.any (fun y =>
    s.waves.any (fun w => w.id == y.1 && w.lanes.any (fun l => waiterLane y l && l.queue == some (d, k))))))

/-- Records of a slot that decisions in flight have still to hand over (log 75). -/
def claims (s : State) (d k : Nat) : Nat :=
  (s.clusters.map (fun c => if c.1 / 64 = d then ((c.2.qmQ.filter (fun x => x.slot == k)).map (·.left)).sum else 0)).sum

/-- Records of a slot that no decision has taken yet. -/
def unclaimed (s : State) (d k : Nat) (q : QSlot) : Nat := occ q - claims s d k

/-- Lanes and threads launched from a queue, and those that a decision in flight launches. -/
def heldSoon (s : State) (d k : Nat) : Nat := heldCount s d k + claims s d k

/-- A share of a kind's capacity, in 64ths. -/
def shareOf (cart : Bool) (n : Nat) : Nat := n * (kindCap cart / 64)

/-- When the oldest record became visible. -/
def oldestTime (s : State) (q : QSlot) : Nat := match liveMarks q with | m :: _ => m.2 | [] => s.clock

/-- A candidate of a decision: a mapped queue, or a grid's share. -/
structure Cand where
  k : Nat
  share : Bool
  cart : Bool
  prio : Nat
  back : Bool
  since : Nat
  pass : Nat
  held : Nat
  minsh : Nat
deriving DecidableEq, Repr, Inhabited

/-- Items 1, 2 and 4 of R321, and R318, for a mapped queue. -/
def queueCand (s : State) (d k : Nat) (q : QSlot) : Option Cand :=
  let held := heldSoon s d k
  let back := backPressed s q
  let n := unclaimed s d k q
  let old := decide (q.age != 0 ∧ oldestTime s q + q.age ≤ s.clock)
  let one := decide (q.thresh ≤ n) || (decide (1 ≤ n) && (old || back))
  if (getCtx s q.ctx).stat = .live && !q.stuck && decide (1 ≤ n) && one && decide (held < shareOf q.cart q.maxsh)
    && !(decide (shareOf q.cart q.minsh ≤ held) && ownWaiting s d k) && (clustersAfter d q.last).any (canLaunch s q)
  then some { k, share := false, cart := q.cart, prio := q.prio, back, since := oldestTime s q, pass := q.pass, held, minsh := q.minsh }
  else none

/-- Lanes and threads launched from a grid's share on a die: of the members of its teams. -/
def shareHeld (s : State) (d g : Nat) : Nat :=
  let ts := (s.teams.filter (fun t => t.grid == some g && t.cluster / 64 == d)).map (·.id)
  ((s.waves.filter (fun w => w.member.isSome && ts.contains w.team)).map (fun w => (w.lanes.filter alive).length)).sum

/-- A grid's share with a team that can be admitted now. -/
def shareCand (s : State) (d k : Nat) (sh : Share) : Option Cand :=
  match s.grids.find? (fun g => g.id == sh.grid) with
  | none => none
  | some g =>
    if (getCtx s g.ctx).stat = .live && !sh.teams.isEmpty && (sharePlace s d g.lr sh.last).isSome
    then some { k, share := true, cart := g.lr.cart, prio := g.lr.prio, back := false, since := sh.since, pass := sh.pass, held := shareHeld s d g.id, minsh := 0 }
    else none

/-- The candidates of a die by slot index. -/
def candidates (s : State) (d : Nat) : List Cand :=
  sortBy (·.k) (((getDie s d).slots.filterMap (fun p => queueCand s d p.1 p.2)) ++ ((getDie s d).shares.filterMap (fun p => shareCand s d p.1 p.2)))

/-- Free capacity of a kind on a die (R321). -/
def freeCap (s : State) (d : Nat) (cart : Bool) : Int :=
  let x := getDie s d
  let qs := ((x.slots.filter (fun p => p.2.cart == cart)).map (fun p => heldSoon s d p.1)).sum
  let gs := (x.shares.map (fun p => if s.grids.any (fun g => g.id == p.2.grid && g.lr.cart == cart) then shareHeld s d p.2.grid else 0)).sum
  (kindCap cart : Int) - qs - gs

/-- Item 3 of R321 among the candidates. -/
def withinShares (s : State) (d : Nat) (cs : List Cand) (c : Cand) : Bool :=
  if c.held < shareOf c.cart c.minsh then true
  else
    let others := cs.filter (fun x => x.k != c.k && x.cart == c.cart)
    decide (((others.map (fun x => shareOf x.cart x.minsh - x.held)).sum : Nat) < freeCap s d c.cart)

def eligible (s : State) (d : Nat) : List Cand := let cs := candidates s d; cs.filter (withinShares s d cs)

/-! ### The decision (R322, R323) -/

/-- x goes before y among eligible queues, items 2 to 5 of R322. -/
def before (x y : Cand) : Bool :=
  if x.prio != y.prio then y.prio < x.prio
  else if x.back != y.back then x.back
  else if x.since != y.since then x.since < y.since
  else x.k < y.k

/-- The queue chosen (R322). -/
def choose (cs : List Cand) : Option Cand :=
  match cs.find? (fun c => decide (16 ≤ c.pass)) with
  | some c => some c
  | none => match cs with
    | [] => none
    | c :: r => some (r.foldl (fun a b => if before b a then b else a) c)

/-- The queue's team on a cluster, created at its first launch there. -/
def needTeam (d k c : Nat) (s : State) : State × Nat :=
  match getSlot s d k with
  | none => (s, 0)
  | some q =>
    match queueTeam s q c with
    | some t => (s, t)
    | none =>
      let id := s.nextId
      let t : Team := { id, ctx := q.ctx, cluster := c, cart := q.cart, size := 0, lm := q.lr.lm, queue := some (d, k), lr := q.lr }
      let s1 := updCluster c (fun x => { x with texc := [] }) { s with teams := s.teams ++ [t], nextId := id + 1 }
      (chrono d (c % 64) 0 id (updSlot d k (fun q => { q with teams := q.teams.filter (fun p => p.1 != c) ++ [(c, id)] }) s1), id)

/-- How the launch of the record at HEAD ends: taken; refused, or none to be had; its read failed; or a fault service holds it. -/
inductive Taken where
  | taken | refused | failed | later
deriving DecidableEq, Repr, Inhabited

/-- The record at HEAD handed to a cluster for a team (R317, R323). -/
def launchRecord (d k c team : Nat) (s : State) : State × Taken :=
  match getSlot s d k with
  | none => (s, .refused)
  | some q =>
    if occ q = 0 then (s, .refused)
    else
      let r := readMany (.device q.ctx (64 * d)) 8 (q.rsz / 8) (recordAt q q.head) s
      match r.2 with
      | .wait => (r.1, .later)
      | .trap t => (updSlot d k (fun q => { q with stuck := true }) (devFailMsg q.ctx (64 * d) t.code t.tval r.1), .failed)
      | .done bs =>
        let x : Start := { pc := q.lr.entry, v := leWords bs, m := [], queue := some (d, k), tcb := (q.tcbs.find? (fun p => p.1 == q.head)).map (·.2) }
        let taken : Option State :=
          if q.cart then
            if 64 ≤ (getCluster r.1 c).dispatchQ.length then none
            else some (post c .cartDispatch (updCluster c (fun y => { y with dispatchQ := y.dispatchQ ++ [{ team, ctx := q.ctx, lr := q.lr, start := x }] }) r.1))
          else couplerTake c team q.ctx (.entry q.lr.entry) q.lr x r.1
        match taken with
        | none => (r.1, .refused)
        | some t =>
          (updSlot d k (fun q => let q1 := { q with head := q.head + 1, tcbs := q.tcbs.filter (fun p => p.1 != q.head) }; { q1 with marks := liveMarks q1 }) t, .taken)

/-- Up to n records launched to a cluster one after another: how many were taken, and how the last one ended. -/
def launchRecords (d k c team : Nat) : Nat → State → State × Nat × Taken
  | 0, s => (s, 0, .refused)
  | n + 1, s =>
    let r := launchRecord d k c team s
    match r.2 with
    | .taken => let m := launchRecords d k c team n r.1; (m.1, m.2.1 + 1, m.2.2)
    | e => (r.1, 0, e)

/-- The end of a launch that took records: HEAD goes to the descriptor (R319). -/
def afterLaunch (d k : Nat) (s : State) : State := chrono d 64 4 k (writeHead d k s)

/-- A launch of up to n records of a queue to a cluster: its team, then the records. Cart threads enter the dispatch queue now; carriage lanes are handed to the
coupler, which takes them as lanes of one source among others (R149, R323). True where a fault service holds it. -/
def launchTo (d k c n : Nat) (s : State) : State × Bool :=
  match getSlot s d k with
  | none => (s, false)
  | some q =>
    let t := needTeam d k c s
    let s1 := updSlot d k (fun q => { q with last := c % 64, pass := 0 }) t.1
    if q.cart then
      let r := launchRecords d k c t.2 n s1
      (if r.2.1 = 0 then r.1 else afterLaunch d k r.1, r.2.2 == .later)
    else (post c .couplerAccept (updCluster c (fun x => { x with qmQ := x.qmQ ++ [{ slot := k, team := t.2, left := n }] }) s1), false)

/-- The oldest decision in flight to a cluster is over. -/
def endDecision (c : Nat) (x : QmLaunch) (s : State) : State :=
  let s1 := updCluster c (fun k => { k with qmQ := k.qmQ.drop 1 }) s
  post (c / 64) .qmDecision (if x.took then afterLaunch (c / 64) x.slot s1 else s1)

/-- The queue manager's turn at a coupler (R149, R323): the next record of its oldest decision in flight; whether it was taken. The decision ends with its last
record, or at the first that the coupler refuses or that cannot be read; it waits where the read waits. -/
def qmTurn (c : Nat) (s : State) : State × Bool :=
  match (getCluster s c).qmQ with
  | [] => (s, false)
  | x :: _ =>
    if x.left = 0 then (endDecision c x s, false)
    else
      let r := launchRecord (c / 64) x.slot c x.team s
      match r.2 with
      | .taken =>
        let y : QmLaunch := { x with left := x.left - 1, took := true }
        let s1 := updCluster c (fun k => { k with qmQ := y :: k.qmQ.drop 1 }) r.1
        (if y.left = 0 then endDecision c y s1 else s1, true)
      | .later => (r.1, false)
      | _ => (endDecision c x r.1, false)

/-- Every decision in flight to a cluster for a slot completed, as far as it can be (R330). -/
def finishDecisions (c : Nat) : Nat → State → State
  | 0, s => s
  | n + 1, s =>
    let r := qmTurn c s
    if (getCluster r.1 c).qmQ.isEmpty then r.1 else finishDecisions c n r.1

/-- COUPLER_ACCEPT (R149, R150, R152, R310, R311, R323): at most 4 lanes, round-robin over the sources. -/
def execCouplerAccept (s : State) : Out :=
  let c := s.site
  let r := acceptLanes c (qmTurn c) 4 (pruneOffers c s)
  .next (if r.2 && couplerWork (getCluster r.1 c) then post c .couplerAccept r.1 else r.1)

/-- Records of a decision (R322). -/
def decisionCount (s : State) (d k c : Nat) (q : QSlot) : Nat :=
  let room := shareOf q.cart q.maxsh - heldSoon s d k
  let n := unclaimed s d k q
  if q.cart then Nat.min (Nat.min n 8) (Nat.min (64 - (getCluster s c).dispatchQ.length) room) else Nat.min (Nat.min n 128) room

/-- Pass counts after a decision: raised for the eligible queues not chosen, 0 for the others. -/
def passCounts (d : Nat) (cs : List Cand) (chosen : Nat) (s : State) : State :=
  let up (k p : Nat) : Nat := if k != chosen && cs.any (fun c => c.k == k) then p + 1 else 0
  updDie d (fun x => { x with
    slots := x.slots.map (fun p => (p.1, { p.2 with pass := up p.1 p.2.pass }))
    shares := x.shares.map (fun p => (p.1, { p.2 with pass := up p.1 p.2.pass })) }) s

/-- The decision made for a chosen candidate. -/
def decide_ (d : Nat) (c : Cand) (s : State) : State :=
  if c.share then
    match (getDie s d).shares.find? (fun p => p.1 == c.k) with
    | some (_, sh) => post (4 * sh.grid + d) .teamAdmit (chrono d 64 4 c.k s)
    | none => s
  else
    match getSlot s d c.k with
    | none => s
    | some q =>
      match (clustersAfter d q.last).find? (canLaunch s q) with
      | none => s
      | some cl =>
        let r := launchTo d c.k cl (decisionCount s d c.k cl q) s
        if r.2 then stallOnce d .qmDecision r.1 else post d .qmDecision r.1

/-- QM_DECISION (R322) of a die; none of its own where the host schedules the queues (R370). Work of task control blocks that waited for room, and writes of HEAD
that waited, are tried first. -/
def execQmDecision (s : State) : Out :=
  let d := s.site
  let s0 := runReplays (runTcbWork (writeHeads d s))
  let s1 := updDie d (fun x => { x with slots := x.slots.map (fun p => (p.1, { p.2 with waiters := p.2.waiters.filter (waiterLive s0) })) }) s0
  .next (if bit s1.regs.funcmode 0 then s1
    else
      let cs := eligible s1 d
      match choose cs with
      | none => passCounts d [] 256 s1
      | some c => decide_ d c (passCounts d cs c.k s1))

end Sys2Proof.Machine
end

