-- ==== Sys2Proof/Machine/Raster.lean ====
section
/-! DEFINITION. Rasterisation: RAST, HIZUPD and DISCARD (R265 to R278). Coverage and weights are exact; the walk is that of R270. -/

namespace Sys2Proof.Machine

/-! ### Exact fractions (R272, R296, R297) -/

/-- num / den * 2^e as a value that rounds as the exact quotient does: 32 or more leading bits and a bit that is set where more follow. -/
def ratVal (num den e : Int) : FVal :=
  let n := num.natAbs
  let d := den.natAbs
  if n = 0 then .fin false 0 0
  else
    let k := 34 + Nat.log2 d - Nat.log2 n
    let q := n * 2 ^ k / d
    let more := n * 2 ^ k % d != 0
    .fin (decide (num < 0) != decide (den < 0)) (2 * q + more.toNat) (e - k - 1)

/-- A finite FP32 encoding as a multiple of 2^-149; 0 for the others. -/
def fix32 (x : W32) : Int :=
  match unpackF .fp32 x.toNat with
  | .fin n m e => atExp n m e (-149)
  | _ => 0

/-- The encoding stands for a finite value. -/
def finite32 (x : W32) : Bool := match unpackF .fp32 x.toNat with | .fin _ _ _ => true | _ => false

/-- round(num / den * 2^e, FP32, RNE). -/
def ratFp32 (num den e : Int) : W32 := BitVec.ofNat 32 (roundF .fp32 .rne (ratVal num den e)).1

/-! ### The triangle and its walk (R266 to R270) -/

/-- What a RAST works on: vertices in 1/256 pixel with depths and 1/w, the box, the scissor, samples per pixel, and the depth buffer. -/
structure RastJob where
  x : List Int
  y : List Int
  z : List W32
  q : List W32
  sx0 : Nat
  sy0 : Nat
  sx1 : Nat
  sy1 : Nat
  spp : Nat
  hiz : Bool
  ez : Bool
  cull : Nat
  tpitch : Nat
  base : W64
deriving DecidableEq, Repr, Inhabited

/-- The edge function of vertices a and b at a point (R268). -/
def RastJob.edge (j : RastJob) (a b : Nat) (px py : Int) : Int :=
  (nth 0 j.x b - nth 0 j.x a) * (py - nth 0 j.y a) - (nth 0 j.y b - nth 0 j.y a) * (px - nth 0 j.x a)

/-- The signed area A (R268). -/
def RastJob.area (j : RastJob) : Int := j.edge 0 1 (nth 0 j.x 2) (nth 0 j.y 2)

/-- A direction is that of a top-left edge. -/
def topLeft (dx dy : Int) : Bool := decide (dy < 0) || (decide (dy = 0) && decide (0 < dx))

/-- One edge admits a point (R268). -/
def RastJob.inEdge (j : RastJob) (a b : Nat) (px py : Int) : Bool :=
  let e := j.edge a b px py
  let dx := nth 0 j.x b - nth 0 j.x a
  let dy := nth 0 j.y b - nth 0 j.y a
  if 0 < j.area then decide (0 < e) || (decide (e = 0) && topLeft dx dy)
  else decide (e < 0) || (decide (e = 0) && topLeft (-dx) (-dy))

/-- Coverage of a point in 1/256 pixel. -/
def RastJob.covers (j : RastJob) (px py : Int) : Bool := j.inEdge 0 1 px py && j.inEdge 1 2 px py && j.inEdge 2 0 px py

/-- Sample positions in 1/16 pixel (R269). -/
def samplePos (spp s : Nat) : Nat × Nat :=
  match spp with
  | 1 => (8, 8)
  | 4 => nth (8, 8) [(2, 6), (6, 14), (10, 2), (14, 10)] s
  | _ => nth (8, 8) [(1, 9), (3, 3), (5, 13), (7, 7), (9, 1), (11, 11), (13, 5), (15, 15)] s

/-- Least and largest of a list that is not empty. -/
def leastInt (l : List Int) : Int := match l with | [] => 0 | x :: r => r.foldl (fun a b => if b < a then b else a) x
def mostInt (l : List Int) : Int := match l with | [] => 0 | x :: r => r.foldl (fun a b => if a < b then b else a) x

/-- The box in pixels: x0, y0 and the excluded x1, y1 (R270). -/
def RastJob.box (j : RastJob) : Nat × Nat × Nat × Nat :=
  let lo (s : Nat) (l : List Int) : Nat := Nat.max s (leastInt l / 256).toNat
  let hi (s : Nat) (l : List Int) : Nat := Nat.min s ((mostInt l + 255) / 256).toNat
  (lo j.sx0 j.x, lo j.sy0 j.y, hi j.sx1 j.x, hi j.sy1 j.y)

/-- The box holds no pixel. -/
def RastJob.empty (j : RastJob) : Bool :=
  let b := j.box
  decide (b.2.2.1 ≤ b.1) || decide (b.2.2.2 ≤ b.2.1)

/-- Tile columns and rows of the box, and the first tile. -/
def RastJob.tiles (j : RastJob) : Nat × Nat × Nat × Nat :=
  let b := j.box
  (b.1 / 8, b.2.1 / 8, (b.2.2.1 - 1) / 8 - b.1 / 8 + 1, (b.2.2.2 - 1) / 8 - b.2.1 / 8 + 1)

def RastJob.tileCount (j : RastJob) : Nat := if j.empty then 0 else j.tiles.2.2.1 * j.tiles.2.2.2

/-- Tile t of the walk. -/
def RastJob.tile (j : RastJob) (t : Nat) : Nat × Nat :=
  let k := j.tiles
  (k.1 + t % k.2.2.1, k.2.1 + t / k.2.2.1)

/-- The pixel of a sample position of a tile: a 64-way Morton index (R270). -/
def tilePixel (tile : Nat × Nat) (m : Nat) : Nat × Nat :=
  (tile.1 * 8 + m % 2 + m / 4 % 2 * 2 + m / 16 % 2 * 4, tile.2 * 8 + m / 2 % 2 + m / 8 % 2 * 2 + m / 32 % 2 * 4)

/-- The point of sample position m of a tile, in 1/256 pixel. -/
def RastJob.point (j : RastJob) (tile : Nat × Nat) (m : Nat) : Int × Int :=
  let p := tilePixel tile (m / j.spp)
  let o := samplePos j.spp (m % j.spp)
  ((p.1 * 256 + o.1 * 16 : Nat), (p.2 * 256 + o.2 * 16 : Nat))

/-- The sample at position m is covered: inside the box, and by the edges. -/
def RastJob.hit (j : RastJob) (tile : Nat × Nat) (m : Nat) : Bool :=
  let p := tilePixel tile (m / j.spp)
  let b := j.box
  let q := j.point tile m
  decide (b.1 ≤ p.1 ∧ p.1 < b.2.2.1 ∧ b.2.1 ≤ p.2 ∧ p.2 < b.2.2.2) && j.covers q.1 q.2

/-- A tile fully covered under .ez (R274). -/
def RastJob.full (j : RastJob) (tile : Nat × Nat) : Bool :=
  j.ez && decide (tile.1 < j.tpitch) && (span 0 (64 * j.spp)).all (fun m =>
    let p := tilePixel tile (m / j.spp)
    let q := j.point tile m
    decide (j.sx0 ≤ p.1 ∧ p.1 < j.sx1 ∧ j.sy0 ≤ p.2 ∧ p.2 < j.sy1) && j.covers q.1 q.2)

/-- Least and largest depth of the vertices, as FMIN and FMAX order them. -/
def RastJob.zExt (j : RastJob) (hi : Bool) : W32 :=
  BitVec.ofNat 32 (fminmaxE .fp32 hi (nth 0 j.z 0).toNat (fminmaxE .fp32 hi (nth 0 j.z 1).toNat (nth 0 j.z 2).toNat).1).1

/-- Positions of a tile tested in order until the slots are full: the covered ones, and the next untested position. -/
def tileWalk (cov : Nat → Bool) : List Nat → Nat → List Nat × Option Nat
  | [], _ => ([], none)
  | m :: r, k =>
    if k = 0 then ([], some m)
    else if cov m then let q := tileWalk cov r (k - 1); (m :: q.1, q.2)
    else tileWalk cov r k

/-- A sample found: its tile, its position, and whether the tile was fully covered. -/
abbrev Sample := (Nat × Nat) × Nat × Bool

/-- The token: the next tile and position, or DONE. -/
def tokenAt (j : RastJob) (tile pos : Nat) : W64 :=
  if j.tileCount ≤ tile then BitVec.ofNat 64 (2 ^ 63) else BitVec.ofNat 64 (pos * 2 ^ 32 + tile)

/-- A plain load at issue, which stays in the load-and-store domain. -/
def plainRead (i : Issuer) (va : W64) (size n : Nat) (s : State) : State × Got (List Byte) :=
  let r := heldXlat i .read va size false s
  match r.2 with
  | .done t => let q := readTarget i.cluster t n r.1; (q.1, .done q.2)
  | .wait => (r.1, .wait)
  | .trap t => (r.1, .trap t)

/-- word := fmin(word, x) at an address, as ATOM .fmin does it (R274, R278). -/
def fminAt (i : Issuer) (va : W64) (x : W32) (s : State) : State × Got Unit :=
  let r := heldAtomicIn i va 4 false (fun old => atomicNew 11 4 old x.toNat 0) s
  match r.2 with
  | .done _ => (r.1, .done ())
  | .wait => (r.1, .wait)
  | .trap t => (r.1, .trap t)

/-- Address of a tile's word (R273). -/
def tileWord (base : W64) (tpitch tx ty : Nat) : W64 := base + BitVec.ofNat 64 (4 * (ty * tpitch + tx))

/-- One issue of a walk (R270, R273, R274) from a tile and position: `begun` tiles begun so far, `k` slots left. It answers the samples and the token. -/
def rastWalk (j : RastJob) (i : Issuer) : Nat → Nat → Nat → Nat → Nat → State → State × Got (List Sample × W64)
  | 0, tile, pos, _, _, s => (s, .done ([], tokenAt j tile pos))
  | fuel + 1, tile, pos, begun, k, s =>
    if j.tileCount ≤ tile || k = 0 || (pos = 0 && begun = 64) then (s, .done ([], tokenAt j tile pos))
    else
      let xy := j.tile tile
      let near := decide (xy.1 < j.tpitch)
      let begun' := if pos = 0 then begun + 1 else begun
      let r := if j.hiz && near && pos = 0 then plainRead i (tileWord j.base j.tpitch xy.1 xy.2) 4 4 s else (s, .done [])
      match r.2 with
      | .wait => (r.1, .wait)
      | .trap t => (r.1, .trap t)
      | .done bs =>
        if !bs.isEmpty && ltF (unpackF .fp32 (leNat bs)) (unpackF .fp32 (j.zExt false).toNat)
        then rastWalk j i fuel (tile + 1) 0 begun' k r.1
        else
          let full := j.full xy
          let w := tileWalk (j.hit xy) (span pos (64 * j.spp - pos)) k
          let found : List Sample := w.1.map (fun m => (xy, m, full))
          match w.2 with
          | some m => (r.1, .done (found, tokenAt j tile m))
          | none =>
            let u := if full then fminAt i (tileWord j.base j.tpitch xy.1 xy.2) (j.zExt true) r.1 else (r.1, .done ())
            match u.2 with
            | .wait => (u.1, .wait)
            | .trap t => (u.1, .trap t)
            | .done _ =>
              let v := rastWalk j i fuel (tile + 1) 0 begun' (k - found.length) u.1
              match v.2 with
              | .done (more, tok) => (v.1, .done (found ++ more, tok))
              | e => (v.1, e)

/-- The five results of a sample (R271, R272). -/
def RastJob.results (j : RastJob) (p : Sample) : List W32 :=
  let px := tilePixel p.1 (p.2.1 / j.spp)
  let q := j.point p.1 p.2.1
  let e0 := j.edge 1 2 q.1 q.2
  let e1 := j.edge 2 0 q.1 q.2
  let e2 := j.edge 0 1 q.1 q.2
  let t0 := e0 * fix32 (nth 0 j.q 0)
  let t1 := e1 * fix32 (nth 0 j.q 1)
  let t2 := e2 * fix32 (nth 0 j.q 2)
  let sum := t0 + t1 + t2
  let zs := e0 * fix32 (nth 0 j.z 0) + e1 * fix32 (nth 0 j.z 1) + e2 * fix32 (nth 0 j.z 2)
  let allNeg := j.z.all (fun z => bit z 31)
  let z := if zs = 0 then (if allNeg then BitVec.ofNat 32 (2 ^ 31) else 0) else ratFp32 zs j.area (-149)
  [BitVec.ofNat 32 (px.2 * 2 ^ 16 + px.1 % 2 ^ 16),
   BitVec.ofNat 32 ((decide (0 < j.area)).toNat * 2 ^ 7 + p.2.2.toNat * 2 ^ 4 + 2 ^ 3 + p.2.1 % j.spp),
   ratFp32 t1 sum 0, ratFp32 t2 sum 0, z]

/-- What a rejected triangle's walk ends with (R275); none where it is walked. -/
def RastJob.rejected (j : RastJob) : Option W64 :=
  let done := BitVec.ofNat 64 (2 ^ 63)
  if j.z.any (fun x => !finite32 x) || j.q.any (fun x => !finite32 x || decide (fix32 x ≤ 0)) then some (BitVec.ofNat 64 (2 ^ 63 + 2 ^ 62))
  else if j.area = 0 then some done
  else if (j.cull = 1 && decide (0 < j.area)) || (j.cull = 2 && decide (j.area < 0)) then some done
  else if j.empty then some done
  else none

/-- The job of a RAST from its registers (R266). -/
def rastJob (h : RG) (p : RastP) (w : Wave) : RastJob :=
  let v (i : Nat) : W64 := wGet w (h.a.toNat + i)
  let sc := wGet w p.s.toNat
  let hd := wGet w p.hr.toNat
  { x := [0, 2, 4].map (fun i => sgn 32 (v i).toNat)
    y := [0, 2, 4].map (fun i => sgn 32 ((v i).toNat / 2 ^ 32))
    z := [1, 3, 5].map (fun i => fld (v i) 0 32)
    q := [1, 3, 5].map (fun i => fld (v i) 32 32)
    sx0 := (fld sc 0 16).toNat
    sy0 := (fld sc 16 16).toNat
    sx1 := (fld sc 32 16).toNat
    sy1 := (fld sc 48 16).toNat
    spp := if p.spp = 0 then 1 else if p.spp = 1 then 4 else 8
    hiz := p.hiz
    ez := p.ez
    cull := p.cull.toNat
    tpitch := if p.hiz then (fld hd 52 12).toNat else 0
    base := canon52 (hd.toNat % 2 ^ 52) }

/-- Results and token written (R267, R271): the samples go to the selected lanes in order, the other slots receive 0. -/
def rastWrite (j : RastJob) (d b : Nat) (ls : List Lane) (found : List Sample) (tok : W64) (s : State) : State :=
  let out : List (Nat × List W32) := (span 0 ls.length).map (fun k =>
    ((nth default ls k).id, match found.drop k with | p :: _ => j.results p | [] => [0, 0, 0, 0, 0]))
  advance 2 (setW b tok (mapActive (fun l => match out.find? (fun o => o.1 == l.id) with
    | some (_, rs) => writeVs ((span 0 5).map (fun i => (d + i, nth 0 rs i))) l
    | none => l) s))

/-- A depth-buffer descriptor's checks (R273): ILLOP, then ALIGN. -/
def descCheck (i : Instr) (ls : List Lane) (tpitch : Nat) (base : W64) (k : State → State) (s : State) : State :=
  if tpitch = 0 then illOperands i ls s
  else if base.toNat % 4 != 0 then instrTrap ls cALIGN base s
  else k s

/-- RAST (R265 to R275). -/
def execRast (h : RG) (p : RastP) (s : State) : Out :=
  let w := curWave s
  let tok := wGet w h.b.toNat
  let j := rastJob h p w
  .next (match selected s h.g h.n with
    | [] => advance 2 s
    | ls =>
      let run (s : State) : State :=
        if bit tok 63 then rastWrite j h.d.toNat h.b.toNat ls [] tok s
        else match j.rejected with
          | some t => rastWrite j h.d.toNat h.b.toNat ls [] t s
          | none =>
            heldThen ls (rastWalk j (issuer s) 66 (tok.toNat % 2 ^ 32) (fld tok 32 9).toNat 0 ls.length s) (fun r s =>
              rastWrite j h.d.toNat h.b.toNat ls r.1 r.2 s)
      if fld tok 41 21 != 0 then illOperands (.rast h p) ls s
      else if p.hiz then descCheck (.rast h p) ls j.tpitch j.base run s
      else run s)

/-- HIZUPD (R278). -/
def execHizupd (o : RG) (s : State) : Out :=
  let w := curWave s
  let hd := wGet w o.a.toNat
  let x := wGet w o.b.toNat
  let tpitch := (fld hd 52 12).toNat
  let base := canon52 (hd.toNat % 2 ^ 52)
  .next (match selected s o.g o.n with
    | [] => advance 1 s
    | ls => descCheck (.hizupd o) ls tpitch base (fun s =>
        if tpitch ≤ (fld x 0 16).toNat then advance 1 s
        else heldThen ls (fminAt (issuer s) (tileWord base tpitch (fld x 0 16).toNat (fld x 16 16).toNat) (fld x 32 32) s) (fun _ s => advance 1 s)) s)

/-- DISCARD on a sample token (R277): the new token, or none where it traps. -/
def discardToken (z : Bool) (t : W32) : Option W32 :=
  if !bit t 3 then some t else if bit t 4 then none else if z then some (setBit t 6 true) else some (setBit t 5 true)

/-- DISCARD (R277). -/
def execDiscard (o : RG) (s : State) : Out :=
  let w := curWave s
  let pc := curPc s
  let a := o.a.toNat
  let ts : List (Nat × LaneTrap) := (selected s o.g o.n).filterMap (fun l =>
    match discardToken o.x (vGet l a) with
    | some _ => none
    | none => some (l.id, { code := cSHADEORDER, tval := BitVec.ofNat 64 (vGet l a).toNat, tepc := pc }))
  .next (takeTraps ts (advance 1 (mapActive (fun l =>
    if selects w o.g o.n l then (match discardToken o.x (vGet l a) with | some t => setV a t l | none => l) else l) s)))

end Sys2Proof.Machine
end

