-- ==== Sys2Proof/Machine/Ray.lean ====
section
/-! DEFINITION. Ray geometry: IBOX and ITRI, tested exactly (R292 to R297), and the quantisation of boxes (R293). -/

namespace Sys2Proof.Machine

/-! ### Extended fractions -/

/-- n / d with d ≥ 0; d = 0 is an infinity of the sign of n. -/
structure Frac where
  n : Int
  d : Int
deriving DecidableEq, Repr, Inhabited

def mkFrac (n d : Int) : Frac := if d < 0 then { n := -n, d := -d } else { n, d }

def Frac.le (a b : Frac) : Bool := if a.d = 0 && b.d = 0 then decide (a.n ≤ b.n) else decide (a.n * b.d ≤ b.n * a.d)

def Frac.min (a b : Frac) : Frac := if b.le a && !a.le b then b else a
def Frac.max (a b : Frac) : Frac := if a.le b && !b.le a then b else a

/-- A finite FP32 number. -/
def frac32 (x : W32) : Frac := { n := fix32 x, d := one149' }
where one149' : Int := (2 ^ 149 : Nat)

/-! ### Rays, nodes and leaf blocks (R292 to R295) -/

/-- A ray: origin, direction, tmin and tmax. -/
structure RayIn where
  o : List W32
  d : List W32
  tmin : W32
  tmax : W32
deriving DecidableEq, Repr, Inhabited

/-- The ray that eight words hold. -/
def rayOf (ws : List W32) : RayIn := { o := ws.take 3, d := (ws.drop 3).take 3, tmin := nth 0 ws 6, tmax := nth 0 ws 7 }

/-- The ray can hit something (R295). -/
def RayIn.good (r : RayIn) : Bool :=
  r.o.all finite32 && r.d.all finite32 && finite32 r.tmin && finite32 r.tmax && decide (fix32 r.tmin ≤ fix32 r.tmax)

/-- FP32 word at a byte offset. -/
def word32At (bs : List Byte) (o : Nat) : W32 := BitVec.ofNat 32 (leNat ((bs.drop o).take 4))

/-- A bound of a child on an axis (R293). -/
def childBound (node : List Byte) (c a : Nat) (hi : Bool) : FVal :=
  let o := unpackF .fp32 (word32At node (4 * a)).toNat
  let e := sgn 8 (nth 0 node (12 + a)).toNat
  let q := (nth 0 node (16 + 6 * c + a + (if hi then 3 else 0))).toNat
  let rm : Rm := if hi then .ru else .rd
  unpackF .fp32 (roundF .fp32 rm (addF rm o (.fin false q e)).1).1

/-- The t at which a ray's axis meets a bound; none for a NaN bound. -/
def slabT (b : FVal) (o d : W32) : Option Frac :=
  match b with
  | .nan _ => none
  | .inf n => some { n := if n == decide (fix32 d < 0) then 1 else -1, d := 0 }
  | .fin n m e => some (mkFrac (atExp n m e (-149) - fix32 o) (fix32 d))

/-- A bound lies at or below a coordinate, or at or above it. -/
def boundLe (b : FVal) (o : W32) : Bool :=
  match b with | .nan _ => false | .inf n => n | .fin n m e => decide (atExp n m e (-149) ≤ fix32 o)
def boundGe (b : FVal) (o : W32) : Bool :=
  match b with | .nan _ => false | .inf n => !n | .fin n m e => decide (fix32 o ≤ atExp n m e (-149))

/-- Enter and leave narrowed by one axis (R296); none where nothing is left. -/
def slabAxis (lo hi : FVal) (o d : W32) (x : Frac × Frac) : Option (Frac × Frac) :=
  if fix32 d = 0 then (if boundLe lo o && boundGe hi o then some x else none)
  else match slabT lo o d, slabT hi o d with
    | some t1, some t2 => some (Frac.max x.1 (Frac.min t1 t2), Frac.min x.2 (Frac.max t1 t2))
    | _, _ => none

/-- The exact enter of a child's box, if the ray hits it. -/
def childEnter (node : List Byte) (r : RayIn) (c : Nat) : Option Frac :=
  let ax (a : Nat) (x : Frac × Frac) : Option (Frac × Frac) := slabAxis (childBound node c a false) (childBound node c a true) (nth 0 r.o a) (nth 0 r.d a) x
  let x := (((ax 0 (frac32 r.tmin, frac32 r.tmax)).bind (ax 1)).bind (ax 2))
  match x with
  | some (e, l) => if e.le l then some e else none
  | none => none

/-- Insertion by enter; equal ones keep their order. -/
def insertEnter (x : Nat × Frac) : List (Nat × Frac) → List (Nat × Frac)
  | [] => [x]
  | y :: r => if y.2.le x.2 then y :: insertEnter x r else x :: y :: r

/-- The two results of IBOX (R296). -/
def iboxResult (node : List Byte) (r : RayIn) : List W32 :=
  let hits : List (Nat × Frac) := if !r.good then [] else (span 0 8).filterMap (fun c =>
    if (nth 0 node (64 + 8 * c + 7)).toNat / 64 = 0 then none else (childEnter node r c).map (fun e => (c, e)))
  let order := (hits.foldl (fun acc h => insertEnter h acc) []).map (·.1)
  [BitVec.ofNat 32 ((hits.map (fun h => 2 ^ h.1)).sum + hits.length * 2 ^ 8),
   BitVec.ofNat 32 ((span 0 8).map (fun k => (match order.drop k with | c :: _ => c | [] => 15) * 16 ^ k)).sum]

/-! ### Triangles (R297) -/

def cross3 (a b : List Int) : List Int :=
  let g (i j : Nat) : Int := nth 0 a i * nth 0 b j - nth 0 a j * nth 0 b i
  [g 1 2, g 2 0, g 0 1]
def dot3 (a b : List Int) : Int := nth 0 a 0 * nth 0 b 0 + nth 0 a 1 * nth 0 b 1 + nth 0 a 2 * nth 0 b 2
def sub3 (a b : List Int) : List Int := (span 0 3).map (fun i => nth 0 a i - nth 0 b i)

/-- A hit: t, u and v over one positive denominator. -/
structure TriHit where
  t : Int
  u : Int
  v : Int
  den : Int
deriving DecidableEq, Repr, Inhabited

/-- The ray against one triangle of nine coordinates. -/
def triTest (vs : List W32) (r : RayIn) : Option TriHit :=
  if !vs.all finite32 || !r.good then none
  else
    let p (i : Nat) : List Int := ((vs.drop (3 * i)).take 3).map fix32
    let d := r.d.map fix32
    let e1 := sub3 (p 1) (p 0)
    let e2 := sub3 (p 2) (p 0)
    let s := sub3 (r.o.map fix32) (p 0)
    let h := cross3 d e2
    let q := cross3 s e1
    let det := dot3 e1 h
    let sg : Int := if det < 0 then -1 else 1
    let x : TriHit := { t := sg * dot3 e2 q, u := sg * dot3 s h, v := sg * dot3 d q, den := sg * det }
    let tf : Frac := { n := x.t, d := x.den }
    if det = 0 then none
    else if 0 ≤ x.u && 0 ≤ x.v && x.u + x.v ≤ x.den && (frac32 r.tmin).le tf && tf.le (frac32 r.tmax) then some x else none

/-- The four results of ITRI (R297). -/
def itriResult (block : List Byte) (r : RayIn) : List W32 :=
  let best : Option (W32 × TriHit) := (span 0 4).foldl (fun acc t =>
    let ident := word32At block (144 + 4 * t)
    if ident = BitVec.allOnes 32 then acc
    else match triTest ((span 0 9).map (fun i => word32At block (36 * t + 4 * i))) r with
      | none => acc
      | some x => match acc with
        | some (_, y) => if y.t * x.den ≤ x.t * y.den then acc else some (ident, x)
        | none => some (ident, x)) none
  match best with
  | some (ident, x) => [ident, ratFp32 x.t x.den 0, ratFp32 x.u x.den 0, ratFp32 x.v x.den 0]
  | none => [BitVec.allOnes 32, 0x7F800000, 0, 0]

/-! ### The instructions -/

/-- k aligned 8-byte plain loads of a lane; or the first that fails. -/
def laneReads (w : Wave) (h : Bool) (again : Option Agent) : Nat → W64 → State → State × Except (W64 × LaneRd) (List Byte)
  | 0, _, s => (s, .ok [])
  | k + 1, va, s =>
    let r := laneRead w h again va 8 (fun t s => readTarget w.cluster t 8 s) s
    match r.2 with
    | .ok bs =>
      let q := laneReads w h again k (va + 8) r.1
      match q.2 with
      | .ok rest => (q.1, .ok (bs ++ rest))
      | e => (q.1, e)
    | e => (r.1, .error (va, e))

/-- One lane's test: the results; or the first failed read. A node is read as 16 loads and a block as 20. -/
def rayLane (tri : Bool) (w : Wave) (h : Bool) (again : Option Agent) (d : Nat) (base : W64) (ray : List W32) (s : State) : State × Except (W64 × LaneRd) (List (Nat × W32)) :=
  if base.toNat % (if tri then 16 else 128) != 0 then (s, .error (base, .bad cALIGN false))
  else
    let r := laneReads w h again (if tri then 20 else 16) base s
    match r.2 with
    | .error e => (r.1, .error e)
    | .ok bs =>
      let xs := if tri then itriResult bs (rayOf ray) else iboxResult bs (rayOf ray)
      (r.1, .ok ((span 0 xs.length).map (fun k => (d + k, nth 0 xs k))))

/-- The address operand of a lane (R295). -/
def rayAddr (h : RG) (w : Wave) (l : Lane) : W64 := BitVec.ofNat 64 (srcVal w l 64 (if h.x then .w else .v) h.b.toNat)

/-- The eight words of the ray group. -/
def rayWords (a : Nat) (l : Lane) : List W32 := (span a 8).map (vGet l)

/-- Two words as one data operand of a log entry. -/
def pairUp : List W32 → List W64
  | a :: b :: r => BitVec.ofNat 64 (b.toNat * 2 ^ 32 + a.toNat) :: pairUp r
  | _ => []

def rayLanes (tri : Bool) (h : RG) (w : Wave) (pc : W64) : List Lane → State → State × List (Lane × LaneOut)
  | [], s => (s, [])
  | l :: ls, s =>
    let base := rayAddr h w l
    let ray := rayWords h.a.toNat l
    let r := rayLane tri w l.h none h.d.toNat base ray s
    let r2 := match r.2 with
      | .ok ws => (r.1, LaneOut.vals ws)
      | .error (va, e) => laneFault w pc va (base :: pairUp ray) e r.1
    let q := rayLanes tri h w pc ls r2.1
    (q.1, (l, r2.2) :: q.2)

/-- An IBOX or ITRI (R295). -/
def rayInstr (i : Instr) (h : RG) (tri : Bool) (s : State) : State :=
  let w := curWave s
  match selected s h.g h.n with
  | [] => advance 2 s
  | ls =>
    if 4 ≤ w.log.length || lanesPending s w ls then waitHere .retry s
    else let r := rayLanes tri h w (curPc s) ls s; settleOuts i 0 none r.2 r.1

/-- IBOX (R295, R296). -/
def execIbox (h : RG) (p : NoP) (s : State) : Out := .next (rayInstr (.ibox h p) h false s)

/-- ITRI (R295, R297). -/
def execItri (h : RG) (p : NoP) (s : State) : Out := .next (rayInstr (.itri h p) h true s)

end Sys2Proof.Machine
end

