-- ==== Sys2Proof/Machine/Texture.lean ====
section
/-! DEFINITION. Texture sampling: TBIND, TEX, TEXG and TEXQ, the latent decoder and the texel cache (R133, R279 to R291). -/

namespace Sys2Proof.Machine

/-! ### The descriptor and its levels (R279, R280) -/

/-- A texture descriptor. -/
structure TexDesc where
  base : W64
  wm1 : Nat
  hm1 : Nat
  lm1 : Nat
  kind : Nat
  slot : Nat
  wrapu : Nat
  wrapv : Nat
  filter : Nat
deriving DecidableEq, Repr, Inhabited

/-- The descriptor that 16 bytes hold; none where a field is illegal. -/
def texDesc (bs : List Byte) : Option TexDesc :=
  let x := leNat bs
  let f (lo len : Nat) : Nat := x / 2 ^ lo % 2 ^ len
  let d : TexDesc := { base := BitVec.ofNat 64 (f 0 64), wm1 := f 64 16, hm1 := f 80 16, lm1 := f 96 4, kind := f 100 2, slot := f 102 3,
                       wrapu := f 105 2, wrapv := f 107 2, filter := f 109 2 }
  if f 111 17 != 0 || d.filter = 3 || d.wrapu = 3 || d.wrapv = 3 || 2 ≤ d.kind || (d.kind = 1 && d.slot != 0) || d.base.toNat % 64 != 0
  then none else some d

def TexDesc.wAt (d : TexDesc) (l : Nat) : Nat := Nat.max 1 ((d.wm1 + 1) / 2 ^ l)
def TexDesc.hAt (d : TexDesc) (l : Nat) : Nat := Nat.max 1 ((d.hm1 + 1) / 2 ^ l)

/-- Bytes of a level. -/
def TexDesc.levelBytes (d : TexDesc) (l : Nat) : Nat :=
  if d.kind = 0 then 8 * (ceilDiv (d.wAt l) 4 * ceilDiv (d.hAt l) 4) else 8 * (d.wAt l * d.hAt l)

/-- Offset of a level from BASE: each before it occupies its size rounded up to 64 bytes. -/
def TexDesc.levelAt (d : TexDesc) (l : Nat) : Nat := ((span 0 l).map (fun k => ceilDiv (d.levelBytes k) 64 * 64)).sum

/-- Address of the 8 bytes that hold texel (i, j) of level l. -/
def TexDesc.texelAddr (d : TexDesc) (l i j : Nat) : W64 :=
  d.base + BitVec.ofNat 64 (d.levelAt l + (if d.kind = 0 then 8 * (j / 4 * ceilDiv (d.wAt l) 4 + i / 4) else 8 * (j * d.wAt l + i)))

/-! ### The latent decoder (R133, R283) -/

/-- An FP16 number of the table. -/
def tableHalf (t : List Byte) (o : Nat) : FVal := unpackF .fp16 (leNat [nth 0 t o, nth 0 t (o + 1)])

/-- One neuron: bias and weights in the table, with relu or without; an FP16 encoding. -/
def neuron (t : List Byte) (bias weights : Nat) (ins : List FVal) (hidden : Bool) : Nat :=
  let ps := (span 0 ins.length).map (fun i => (tableHalf t (weights + 2 * i), nth default ins i))
  let y := unpackF .fp32 (roundF .fp32 .rne (dotF .rne (tableHalf t bias) ps).1).1
  let z := if hidden && !isNaN y && (isZero y || negOf y) then .fin false 0 0 else y
  (roundF .fp16 .rne z).1

/-- decode(T, L, x, y): four FP16 encodings. -/
def decodeTexel (t : List Byte) (block : List Byte) (x y : Nat) : List Nat :=
  let pos (k : Nat) : FVal := .fin (decide (k < 2)) (if k < 2 then 3 - 2 * k else 2 * k - 3) (-2)
  let ins := (span 0 8).map (fun i => unpackF .e4m3 (nth 0 block i).toNat) ++ [pos x, pos y]
  let h1 := (span 0 16).map (fun n => unpackF .fp16 (neuron t (384 + 2 * n) (64 + 20 * n) ins true))
  let h2 := (span 0 16).map (fun n => unpackF .fp16 (neuron t (928 + 2 * n) (416 + 32 * n) h1 true))
  (span 0 4).map (fun n => neuron t (1088 + 2 * n) (960 + 32 * n) h2 false)

/-! ### Levels, footprints and filters (R287 to R289) -/

/-- A number in units of 2^-149 rounded to an integer, RNE. -/
def rneFix (x : Int) : Int :=
  let r : Int := ((roundAt .rne (decide (x < 0)) x.natAbs (-149) 0).1 : Nat)
  if x < 0 then -r else r

def wrapTexel (mode : Nat) (i : Int) (n : Nat) : Nat :=
  match mode with
  | 0 => (i % n).toNat
  | 1 => if i < 0 then 0 else if (n : Int) ≤ i then n - 1 else i.toNat
  | _ => let m := (i % (2 * n : Nat)).toNat; if m < n then m else 2 * n - 1 - m

/-- One texel of a footprint: level, column, row, and its weight in units of 2^-24. -/
structure Tap where
  l : Nat
  i : Nat
  j : Nat
  weight : Nat
deriving DecidableEq, Repr, Inhabited

def one149 : Int := (2 ^ 149 : Nat)

/-- c of R287 in units of 2^-149. -/
def clampLod (lod : Int) (lm1 : Nat) : Int := if lod < 0 then 0 else if (lm1 : Int) * one149 < lod then (lm1 : Int) * one149 else lod

/-- The four taps of a bilinear footprint of a level, weighted by a factor of 256. -/
def bilinearTaps (d : TexDesc) (u v : W32) (l factor : Nat) : List Tap :=
  let w := d.wAt l
  let h := d.hAt l
  let t := rneFix (fix32 u * w * 256 - 128 * one149)
  let s := rneFix (fix32 v * h * 256 - 128 * one149)
  let i0 := t / 256
  let fx := (t % 256).toNat
  let j0 := s / 256
  let fy := (s % 256).toNat
  let tap (di dj : Int) (wt : Nat) : Tap := { l, i := wrapTexel d.wrapu (i0 + di) w, j := wrapTexel d.wrapv (j0 + dj) h, weight := wt * factor }
  [tap 0 0 ((256 - fx) * (256 - fy)), tap 1 0 (fx * (256 - fy)), tap 0 1 ((256 - fx) * fy), tap 1 1 (fx * fy)]

/-- The taps of a sample (R287, R288); `gather` takes the bilinear footprint whatever FILTER says. -/
def sampleTaps (d : TexDesc) (gather : Bool) (u v : W32) (lod : Int) : List Tap :=
  let c := clampLod lod d.lm1
  let l := (rneFix c).toNat
  if gather || d.filter = 1 then bilinearTaps d u v l 256
  else if d.filter = 0 then
    let i := rneFix (fix32 u * d.wAt l * 256) / 256
    let j := rneFix (fix32 v * d.hAt l * 256) / 256
    [{ l, i := wrapTexel d.wrapu i (d.wAt l), j := wrapTexel d.wrapv j (d.hAt l), weight := 2 ^ 24 }]
  else
    let l0 := (c / one149).toNat
    let f := (rneFix ((c % one149) * 256)).toNat
    let l0' := if f = 256 then l0 + 1 else l0
    let f' := if f = 256 then 0 else f
    bilinearTaps d u v l0' (256 - f') ++ bilinearTaps d u v (Nat.min (l0' + 1) d.lm1) f'

/-- A texel widened exactly to FP32. -/
def widenHalf (e : Nat) : W32 := BitVec.ofNat 32 (roundF .fp32 .rne (unpackF .fp16 e)).1

/-- The filtered value of a channel: one rounding of the exact weighted sum (R288). -/
def filterChannel (ts : List (Nat × Nat)) : W32 :=
  match ts.map (fun t => (mulF (.fin false t.1 (-24)) (unpackF .fp16 t.2)).1) with
  | [] => 0
  | p :: r => BitVec.ofNat 32 (roundF .fp32 .rne (sumF .rne p r).1).1

/-! ### Reads through the texel cache (R281) -/

/-- 8 bytes at a target: as a plain load finds them, or, from a line read since the cache was last emptied, as it was then. -/
def texelBytes (c : Nat) (t : Target) (s : State) : State × List Byte :=
  match t with
  | .fab _ _ => readTarget c t 8 s
  | .loc pa mt =>
    let r := loadBytes c 5 mt pa 8 s
    let line := peekBytes (c / 64) mt (pa / 64 * 64) 64 r.1
    let keep (x : List Byte) (s : State) : State := updCluster c (fun y => { y with texc := aset (pa / 64) x y.texc }) s
    match ((getCluster s c).texc.find? (fun p => p.1 == pa / 64)).map (·.2) with
    | none => (keep line r.1, r.2)
    | some old =>
      let cached := (old.drop (pa % 64)).take 8
      if cached = r.2 then r
      else
        let s1 := { r.1 with free := r.1.free + 1 }
        if Config.pick r.1.free then (s1, cached) else (keep line s1, r.2)

/-- The taps read one after another: the channels of each; or the first failed read. -/
def readTaps (d : TexDesc) (table : List Byte) (w : Wave) (h : Bool) (again : Option Agent) : List Tap → State → State × Except (W64 × LaneRd) (List (Nat × List Nat))
  | [], s => (s, .ok [])
  | t :: ts, s =>
    let va := d.texelAddr t.l t.i t.j
    let r := laneRead w h again va 8 (texelBytes w.cluster) s
    match r.2 with
    | .ok bs =>
      let chans := if d.kind = 0 then decodeTexel table bs (t.i % 4) (t.j % 4) else (span 0 4).map (fun k => leNat [nth 0 bs (2 * k), nth 0 bs (2 * k + 1)])
      let q := readTaps d table w h again ts r.1
      match q.2 with
      | .ok rest => (q.1, .ok ((t.weight, chans) :: rest))
      | e => (q.1, e)
    | e => (r.1, .error (va, e))

/-- What a TEX or TEXG does: gather and its channel, and the first result register. -/
structure TexOp where
  gather : Bool
  ch : Nat
  d : Nat
deriving DecidableEq, Repr, Inhabited

/-- One lane's sample (R287 to R289): the four results; or the first failed read. -/
def texSample (o : TexOp) (d : TexDesc) (table : List Byte) (w : Wave) (h : Bool) (again : Option Agent) (u v lod : W32) (s : State) :
    State × Except (W64 × LaneRd) (List (Nat × W32)) :=
  let put (xs : List W32) : List (Nat × W32) := (span 0 4).map (fun k => (o.d + k, nth 0 xs k))
  if !finite32 u || !finite32 v || !finite32 lod then
    let n := BitVec.ofNat 32 Fmt.fp32.canonNaN
    (s, .ok (put [n, n, n, n]))
  else
    let taps := sampleTaps d o.gather u v (fix32 lod)
    let r := readTaps d table w h again (if o.gather then taps else taps.filter (fun t => t.weight != 0)) s
    match r.2 with
    | .error e => (r.1, .error e)
    | .ok ts =>
      (r.1, .ok (put ((span 0 4).map (fun k =>
        if o.gather then widenHalf (nth 0 (nth (0, []) ts k).2 o.ch) else filterChannel (ts.map (fun t => (t.1, nth 0 t.2 k)))))))

/-- The slot is bound in the context (R285). -/
def slotBound (s : State) (w : Wave) (k : Nat) : Bool :=
  let x := nth {} (getCluster s w.cluster).tex k
  x.bound && x.tag == (getCtx s w.ctx).ctxid

/-- TVAL of an unbound slot (R286). -/
def slotTval (s : State) (w : Wave) (k : Nat) : W64 :=
  let x := nth {} (getCluster s w.cluster).tex k
  BitVec.ofNat 64 (k + (x.lost && x.tag == (getCtx s w.ctx).ctxid).toNat * 2 ^ 8)

/-- What a sample captures: its slot, with the present binding generation and table (R285). -/
def binding (s : State) (c slot : Nat) : Nat × W32 × List Byte := let x := nth {} (getCluster s c).tex slot; (slot, x.gen, x.table)

/-- The lanes' samples, one after another. -/
def texLanes (o : TexOp) (d : TexDesc) (table : List Byte) (w : Wave) (pc : W64) (a : Nat) (lod : Bool) : List Lane → State → State × List (Lane × LaneOut)
  | [], s => (s, [])
  | l :: ls, s =>
    let u := vGet l a
    let v := vGet l (a + 1)
    let x := if lod then vGet l (a + 2) else 0
    let r := texSample o d table w l.h none u v x s
    let r2 := match r.2 with
      | .ok ws => (r.1, LaneOut.vals ws)
      | .error (va, e) => laneFault w pc va [BitVec.ofNat 64 (v.toNat * 2 ^ 32 + u.toNat), BitVec.ofNat 64 x.toNat] e r.1
    let q := texLanes o d table w pc a lod ls r2.1
    (q.1, (l, r2.2) :: q.2)

/-- A TEX or TEXG (R286, R291). -/
def texInstr (i : Instr) (h : RG) (p : TexP) (gather : Bool) (s : State) : State :=
  let w := curWave s
  let va := wGet w h.b.toNat
  match selected s h.g h.n with
  | [] => advance 2 s
  | ls =>
    if 4 ≤ w.log.length || lanesPending s w ls then waitHere .retry s
    else heldThen ls (plainRead (issuer s) va 16 16 s) (fun bs s =>
      match texDesc bs with
      | none => illOperands i ls s
      | some d =>
        if d.kind = 0 && !slotBound s w d.slot then instrTrap ls cPROT (slotTval s w d.slot) s
        else
          let b := binding s w.cluster d.slot
          let r := texLanes { gather, ch := p.ch.toNat, d := h.d.toNat } d b.2.2 w (curPc s) h.a.toNat p.lod ls s
          settleOuts i va (some b) r.2 r.1)

/-- TEX (R286 to R288). -/
def execTex (h : RG) (p : TexP) (s : State) : Out := .next (texInstr (.tex h p) h p false s)

/-- TEXG (R289). -/
def execTexg (h : RG) (p : TexP) (s : State) : Out := .next (texInstr (.texg h p) h p true s)

/-- The four results of TEXQ for a level (R290). -/
def texQuery (d : TexDesc) (l : Nat) : List Nat := if d.lm1 < l then [0, 0, 0, 0] else [d.wAt l, d.hAt l, d.lm1 + 1, d.kind]

/-- TEXQ (R290). -/
def execTexq (h : RG) (p : TexP) (s : State) : Out :=
  let w := curWave s
  .next (match selected s h.g h.n with
    | [] => advance 2 s
    | ls => heldThen ls (plainRead (issuer s) (wGet w h.b.toNat) 16 16 s) (fun bs s =>
        match texDesc bs with
        | none => illOperands (.texq h p) ls s
        | some d => advance 2 (mapLanes (ls.map (·.id)) (fun l =>
            let q := texQuery d (vGet l h.a.toNat).toNat
            writeVs ((span 0 4).map (fun k => (h.d.toNat + k, BitVec.ofNat 32 (nth 0 q k)))) l) s)))

/-! ### TBIND (R282, R284, R285) -/

/-- k aligned plain loads of n bytes at issue. -/
def plainReads (i : Issuer) (n : Nat) : Nat → W64 → State → State × Got (List Byte)
  | 0, _, s => (s, .done [])
  | k + 1, va, s =>
    let r := plainRead i va n n s
    match r.2 with
    | .done b =>
      let q := plainReads i n k (va + BitVec.ofNat 64 n) r.1
      match q.2 with
      | .done bs => (q.1, .done (b ++ bs))
      | e => (q.1, e)
    | e => (r.1, e)

/-- The header of a weight table is legal (R282). -/
def tableOk (bs : List Byte) : Bool := leNat (bs.take 4) == 1 && ((bs.drop 8).take 56).all (· == 0)

/-- The texel cache of a cluster emptied (R281). -/
def emptyTexels (c : Nat) (s : State) : State := updCluster c (fun x => { x with texc := [] }) s

/-- A table installed in a slot as its new binding generation. -/
def installTable (c slot : Nat) (addr tag : W64) (h : Bool) (table : List Byte) (s : State) : State :=
  updCluster c (fun x =>
    let y : TexSlot := { addr, gen := (nth {} x.tex slot).gen + 1, h, tag, bound := true, lost := false, table }
    { x with tex := setNth y x.tex slot }) s

/-- Samples of an older binding generation of a slot are in flight (R285). -/
def olderSamples (s : State) (c slot : Nat) : Bool :=
  s.waves.any (fun w => w.cluster == c && w.log.any (fun e => e.2.lanes.any (fun p =>
    p.tex.any (fun b => b.1 == slot && b.2.1 != (nth {} (getCluster s c).tex slot).gen))))

/-- TBIND (R284, R285). -/
def execTbind (o : RG) (s : State) : Out :=
  let w := curWave s
  let va := wGet w o.a.toNat
  .next (match selected s o.g o.n with
    | [] => advance 1 s
    | ls =>
      if lanesPending s w (active s) || olderSamples s w.cluster o.d.toNat then waitHere .retry s
      else if va.toNat % 64 != 0 then instrTrap ls cALIGN va (emptyTexels w.cluster s)
      else heldThen ls (plainReads (issuer s) 64 18 va (emptyTexels w.cluster s)) (fun bs s =>
        if !tableOk bs then illOperands (.tbind o) ls s
        else advance 1 (installTable w.cluster o.d.toNat va (getCtx s w.ctx).ctxid (issuer s).h bs s)))

/-- TBIND in its flush form (R284). -/
def execTbindFlush (o : RG) (s : State) : Out :=
  .next (match selected s o.g o.n with
    | [] => advance 1 s
    | _ => advance 1 (emptyTexels (curWave s).cluster s))

end Sys2Proof.Machine
end

