-- ==== Sys2Proof/Machine/Replay.lean ====
section
/-! DEFINITION. What comes back to a waiting lane: the replay of logged accesses, data that returns, answers of peers, finished page copies, the
supervisor's ACTION, retried posts, and the wakes of WAITA (R108, R146, R210, R223, R291, R339 to R346, R368, R386). -/

namespace Sys2Proof.Machine

/-- A device step that acts on the lanes of wave k. -/
def asWave (k : Nat) (f : State → State) (s : State) : State :=
  let c := s.cur
  { f { s with cur := (k, 0) } with cur := c }

/-! ### One logged access performed again (R339, R386) -/

/-- How it ends: its results; it stays logged, with what it waits for and the service's answer; or its trap. -/
inductive Rep where
  | vals (vs : List (Nat × W32)) (w : Option W64)
  | stays (wait : LogWait) (v : Option Serve) (at_ : W64)
  | trap (t : LaneTrap)
deriving DecidableEq, Repr, Inhabited

/-- The trap of a replay that fails (R386): not restartable, at the faulted instruction. -/
def repTrap (e : LogEntry) (code : Nat) (va : W64) (mal : Bool) : Rep := .trap { code, tval := va, tepc := e.pc, mal, nr := true }

/-- A replay that meets PFAULT again is served again. -/
def repFault (w : Wave) (e : LogEntry) (va : W64) (kind : Nat) (s : State) : State × Rep :=
  let v := serve (w.cluster / 64) w.ctx (va.toNat % 2 ^ 52 / 65536) kind s
  match v.2 with
  | .malformed => (v.1, repTrap e cPROT va true)
  | .asked tag => (v.1, .stays (.page (some tag)) (some v.2) va)
  | x => (v.1, .stays (.page none) (some x) va)

/-- What an LDV answers from the word it read, and what another access answers (R82). -/
def repValue (k : MKind) (x : Nat) : Nat := match k with | .view f => widenView f (viewOf f x) | _ => x

/-- The results of a replayed access. -/
def repVals (k : MKind) (o : MA) (x : Nat) : Rep := if dataW o then .vals [] (resultW k o x) else .vals (resultVs k o x) none

/-- An LDV of this address finds its element pending under HOLD (R79, R82). -/
def repPending (k : MKind) (w : Wave) (pa : Nat) (s : State) : Bool :=
  match shadowKind k w pa s with
  | some h => h.pending.contains (pa % 512 / 4)
  | none => false

/-- A memory access from its log entry: checks 3 to 7 of R12, then the target; `lanes` are those it counts for. The data of a load that merged into a fill came
with the fill (R60). -/
def repMem (k : MKind) (o : MA) (w : Wave) (idx : Nat) (e : LogEntry) (lanes : List Nat) (p : LogLane) (s : State) : State × Rep :=
  let size := accSize o
  let kind := if accOf k = .read then 0 else 1
  let who := lanes.map (fun i => (w.id, i))
  let q : XReq := { ctx := w.ctx, cluster := w.cluster, h := e.h, acc := accOf k, va := p.addr, size, engine := k == .stc, unit := tlbUnit w, now := true }
  let r := xlat q s
  match r.2 with
  | .trap c mal => (r.1, repTrap e c p.addr mal)
  | .pfault => repFault w e p.addr kind r.1
  | .miss => (r.1, .stays p.wait none p.addr)
  | .ok t =>
    let tcb := nth 0 p.data 1
    let r2 := if k = .stc then xlat { q with acc := .write, va := tcb, size := 8 } r.1 else (r.1, .ok t)
    match r2.2 with
    | .trap c mal => (r2.1, repTrap e c tcb mal)
    | .pfault => repFault w e tcb 1 r2.1
    | .miss => (r2.1, .stays p.wait none p.addr)
    | .ok _ =>
      match t with
      | .fab dev pa =>
        if k = .atomo then (r2.1, repTrap e cPROT p.addr false)
        else
          let store := k = .store || k = .stc
          let rem : Remote := { ctx := w.ctx, who, cluster := w.cluster, log := if store then none else some idx, dev, pa, va := p.addr, pc := e.pc
                                bytes := if store then leBytes size (nth 0 p.data 0).toNat else []
                                tcb := if k = .stc then some (w.ctx, tcb) else none, origin := whoBits r2.1 who + e.pc.toNat }
          let s1 := { r2.1 with remote := r2.1.remote ++ [rem] }
          (s1, if store then .vals [] none else .stays .peer none p.addr)
      | .loc pa _ =>
        let atomic := match k with | .atom _ => true | _ => false
        let load := match k with | .load _ => true | .view _ => true | _ => false
        if repPending k w pa r2.1 then (r2.1, .stays .data none p.addr)
        else if atomic && asksHost r2.1 (pa / 64) then (post (pa / 64) .backInvalidationAnswer r2.1, .stays .data none p.addr)
        else match if load then p.data else [] with
        | x :: _ => (r2.1, repVals k o (repValue k x.toNat))
        | [] =>
          let f := perform k size w.cluster (l1Of w) w.ctx e.pc who t p.data r2.1
          match f.2 with
          | .val x => (f.1, repVals k o x)
          | .fail c => (f.1, repTrap e c p.addr false)

/-- A sample in flight keeps what it captured (R285). -/
def capture (k idx i : Nat) (b : Option (Nat × W32 × List Byte)) (s : State) : State :=
  updWave k (fun w => { w with log := w.log.map (fun e => if e.1 == idx then (e.1, { e.2 with lanes := e.2.lanes.map (fun x =>
    if x.lane == i then { x with tex := b } else x) }) else e) }) s

/-- What a lane's sample or ray test answers: a peer's data still has to come (R49), or the walk is awaited. -/
def repReads (w : Wave) (idx : Nat) (e : LogEntry) (p : LogLane) (bind : Option (Nat × W32 × List Byte)) (r : State × Except (W64 × LaneRd) (List (Nat × W32))) : State × Rep :=
  match r.2 with
  | .ok vs => (r.1, .vals vs none)
  | .error (va, .bad c mal) => (r.1, repTrap e c va mal)
  | .error (va, .miss) => (r.1, .stays p.wait none va)
  | .error (va, .far dev pa) =>
    let x : Remote := { ctx := w.ctx, who := [(w.id, p.lane)], cluster := w.cluster, log := some idx, dev, pa, va, pc := e.pc, bytes := [], agent := some (.part w.id idx p.lane) }
    (capture w.id idx p.lane bind { r.1 with remote := r.1.remote ++ [x] },
     .stays .peer none va)
  | .error (va, _) => repFault w e va 0 r.1

/-- The trap of a sample's descriptor, which belongs to the whole instruction (R286, R337). -/
def convTrap (t : LaneTrap) : Rep := .trap { t with nr := true, conv := true }

/-- A sample from its log entry (R291): the descriptor read again; the table that it captured while its data is in flight, else that of the present binding (R285). -/
def repTex (h : RG) (p : TexP) (gather : Bool) (w : Wave) (idx : Nat) (e : LogEntry) (x : LogLane) (s : State) : State × Rep :=
  let i : Issuer := { ctx := w.ctx, cluster := w.cluster, h := e.h, pc := e.pc, unit := tlbUnit w }
  let r := plainRead i e.wop 16 16 s
  match r.2 with
  | .wait => (r.1, .stays x.wait none e.wop)
  | .trap t => if t.code = cPFAULT then repFault w e e.wop 0 r.1 else (r.1, convTrap t)
  | .done bs =>
    match texDesc bs with
    | none => (r.1, convTrap { code := cILLOP, tval := illTval (firstWord e.ins) e.pc, tepc := e.pc })
    | some d =>
      if d.kind = 0 && x.tex.isNone && !slotBound r.1 w d.slot then (r.1, convTrap { code := cPROT, tval := slotTval r.1 w d.slot, tepc := e.pc })
      else
        let uv := (nth 0 x.data 0).toNat
        let b := x.tex.getD (binding r.1 w.cluster d.slot)
        repReads w idx e x (some b) (texSample { gather, ch := p.ch.toNat, d := h.d.toNat } d b.2.2 w e.h (some (.part w.id idx x.lane))
          (BitVec.ofNat 32 uv) (BitVec.ofNat 32 (uv / 2 ^ 32)) (BitVec.ofNat 32 (nth 0 x.data 1).toNat) r.1)

/-- The ray of a log entry. -/
def unpair : List W64 → List W32
  | [] => []
  | x :: r => BitVec.ofNat 32 x.toNat :: BitVec.ofNat 32 (x.toNat / 2 ^ 32) :: unpair r

/-- One part of a log entry performed; `lanes` are the lanes it counts for. -/
def repPart (w : Wave) (idx : Nat) (e : LogEntry) (lanes : List Nat) (p : LogLane) (s : State) : State × Rep :=
  let ray (tri : Bool) (h : RG) : State × Rep :=
    repReads w idx e p none (rayLane tri w e.h (some (.part w.id idx p.lane)) h.d.toNat (nth 0 p.data 0) (unpair (p.data.drop 1)) s)
  match memKind e.ins with
  | some (k, o) => repMem k o w idx e lanes p s
  | none =>
    match e.ins with
    | .tex h q => repTex h q false w idx e p s
    | .texg h q => repTex h q true w idx e p s
    | .ibox h _ => ray false h
    | .itri h _ => ray true h
    | _ => (s, .vals [] none)

/-! ### The log after a replay -/

/-- Lanes leave an entry, and the answers that peers gave for them are forgotten; an entry with none left goes. -/
def dropParts (k idx : Nat) (ids : List Nat) (s : State) : State :=
  let s := { s with answers := s.answers.filter (fun a => match a.agent with | .part w e l => !(w == k && e == idx && ids.contains l) | _ => true) }
  updWave k (fun w => { w with
    log := (w.log.map (fun e => if e.1 == idx then (e.1, { e.2 with lanes := e.2.lanes.filter (fun x => !ids.contains x.lane) }) else e)).filter
      (fun e => !e.2.lanes.isEmpty) }) s

/-- What lanes of an entry wait for now; a lane that has exited takes no trap, and its access is tried again (R205, R339). -/
def waitParts (k idx : Nat) (ids : List Nat) (wt : LogWait) (trapped : Bool) (s : State) : State :=
  updWave k (fun w => { w with
    log := w.log.map (fun e => if e.1 == idx then (e.1, { e.2 with lanes := e.2.lanes.map (fun x =>
      if ids.contains x.lane then { x with wait := wt, trapped := x.trapped || (trapped && w.lanes.any (fun l => l.id == x.lane && alive l)), tex := match wt with | .page _ => none | _ => x.tex } else x) }) else e) }) s

/-- The lane of a split gather waits for data that its entry still has to bring (R146). -/
def awaitsData (w : Wave) (l : Lane) : Bool :=
  match l.st with
  | .waiting (.data idx) => w.lanes.any (fun x => x.st == .waiting (.data idx) && x.slot == l.slot &&
      w.log.any (fun e => e.1 == idx && e.2.lanes.any (fun p => p.lane == x.id && !p.trapped)))
  | _ => false

/-- Data of split gathers has come: subgroups come to their split point, and the lanes that wait for the last of it go on once that is there (R146). -/
def wakeSplit (k : Nat) (s : State) : State :=
  updWave k (fun w => splitPoints { w with lanes := w.lanes.map (fun l => match l.st with
    | .waiting (.data _) => if awaitsData w l then l else { l with st := .ready }
    | _ => l) }) s

/-! ### Traps of logged accesses (R209, R337, R340, R342, R386) -/

/-- Traps of logged accesses of wave k given to their lanes: one that has failed for good is taken by a lane in its handler at its ERET; any other at the lane's
next boundary. -/
def deliver (k : Nat) (ts : List (Nat × LaneTrap)) (s : State) : State :=
  let give (l : Lane) : Lane :=
    if !alive l then l
    else
      let mine := (ts.filter (fun t => t.1 == l.id)).map (·.2)
      let late := mine.filter (fun t => t.log.isNone && l.h)
      { l with atEret := l.atEret ++ late, due := l.due ++ mine.filter (fun t => !(t.log.isNone && l.h)) }
  if ts.isEmpty then s else post k .logReplay (updWave k (fun w => { w with lanes := w.lanes.map give }) s)

/-- The result of a replay put in place: results written and the bits cleared; or the lanes' wait; or the traps that the lanes take. `atEret` replays are those
that an ERET waits for, whose lanes have had their PFAULT already. -/
def repApply (k idx : Nat) (e : LogEntry) (ids : List Nat) (atEret : Bool) (r : Rep) (s : State) : State × List (Nat × LaneTrap) :=
  match r with
  | .vals vs x =>
    let s1 := asWave k (fun s => mapLanes ids (writeVs vs) (match x, memKind e.ins with
      | some y, some (_, o) => setW o.h.d.toNat y s
      | _, _ => s)) s
    (dropParts k idx ids s1, [])
  | .trap t => (dropParts k idx ids s, ids.map (fun i => (i, { t with conv := t.conv || e.once })))
  | .stays wt v va =>
    match if atEret then none else logTrap idx 0 va v with
    | none => (waitParts k idx ids wt false s, [])
    | some t =>
      -- the service cannot resolve the fault: a restartable PFAULT at the lane's next boundary (R340, R341)
      (waitParts k idx ids wt true s, ids.map (fun i => (i, { t with conv := e.once })))

/-- Parts replayed one after another, each with the lanes it counts for; the traps they end in. -/
def replayParts (k idx : Nat) (e : LogEntry) (atEret : Bool) (w : Wave) : List (List Nat × LogLane) → State → State × List (Nat × LaneTrap)
  | [], s => (s, [])
  | p :: ps, s =>
    let r := repPart w idx e p.1 p.2 s
    let a := repApply k idx e p.1 atEret r.2 r.1
    let b := replayParts k idx e atEret w ps a.1
    (b.1, a.2 ++ b.2)

/-- The parts of an entry that a test selects, replayed; an access made once for the wave is replayed once. -/
def replayEntry (k idx : Nat) (sel : LogLane → Bool) (atEret : Bool) (s : State) : State :=
  match s.waves.find? (fun w => w.id == k) with
  | none => s
  | some w =>
    match w.log.find? (fun e => e.1 == idx) with
    | none => s
    | some (_, e) =>
      let ps := e.lanes.filter sel
      let work : List (List Nat × LogLane) := if e.once then (ps.take 1).map (fun p => (e.lanes.map (·.lane), p)) else ps.map (fun p => ([p.lane], p))
      let r := replayParts k idx e atEret w work s
      wakeSplit k (deliver k r.2 r.1)

/-- Every entry of a wave, for the parts a test selects. -/
def replayLog (k : Nat) (sel : LogLane → Bool) (s : State) : State :=
  match s.waves.find? (fun w => w.id == k) with
  | none => s
  | some w => w.log.foldl (fun s e => replayEntry k e.1 sel false s) s

/-- A trap that waits for a boundary can be taken: one whose access is still logged at once (R340), another with H = 0 (R386). -/
def dueReady (l : Lane) : Bool := atBoundary l && !l.held && (match l.due with | [] => false | t :: _ => t.log.isSome || !l.h)

/-- The subgroup that a lane belongs to, as a number: its slot; a Parked or Overflowed one stands in none. -/
def subgroupKey (l : Lane) : Nat :=
  match l.st with
  | .parked => 16 + l.slot
  | .overflowed => 32 + l.ovGroup
  | _ => l.slot

/-- The first trap that a lane is due to take, as it is delivered: a restartable one names the lane's present PC (R340). -/
def dueTrap (l : Lane) : Option (Nat × LaneTrap) :=
  match l.due with
  | [] => none
  | t :: _ => some (l.id, if t.log.isSome then { t with tepc := l.pc } else t)

/-- Lanes take the first of their due traps together: converged, or as one subgroup (R336, R337). -/
def takeDueOf (k : Nat) (conv : Bool) (ls : List Lane) (s : State) : State :=
  if ls.isEmpty then s
  else
    let ts := ls.filterMap dueTrap
    let s1 := mapLanesOf k (ls.map (·.id)) (fun l => { l with due := l.due.drop 1 }) s
    if conv then converged k ts s1 else takeTrapsOf k ts s1

/-- The due traps of a wave that can be taken are taken: those of R337 in the converged fallback, together with every lane that the same failure is due in; the others
subgroup by subgroup. -/
def takeDue (k : Nat) (s : State) : State :=
  match s.waves.find? (fun w => w.id == k) with
  | none => s
  | some w =>
    if w.halted then s
    else
      let isConv (l : Lane) : Bool := match l.due with | t :: _ => t.conv | [] => false
      let ready := w.lanes.filter dueReady
      let cs := if ready.any isConv then w.lanes.filter (fun l => alive l && isConv l && !l.held && l.st != .fpParked && (dueReady l || !l.h)) else []
      let ls := ready.filter (fun l => !isConv l)
      let keys := ls.foldl (fun acc l => if acc.contains (subgroupKey l) then acc else acc ++ [subgroupKey l]) []
      wakeSplit k (takeDueOf k true cs (keys.foldl (fun s j => takeDueOf k false (ls.filter (fun l => subgroupKey l == j)) s) s))

/-! ### Page copies (R340, R371) -/

/-- The copy of a granule's 64 KiB, line by line, into its frame: the home's bytes after every pull. -/
def copyPage (src dst : Nat) : Nat → State → State
  | 0, s => s
  | n + 1, s =>
    let a := src / 64 + n
    let s1 := pullLine a (answerHeld a s)
    copyPage src dst n (homeStoreBytes .other true (dst + 64 * n) (cellsRead s1.mem (a * 64) 64) s1)

/-- PAGE_COPY_DONE (R340, R371), for the die it acts at: the oldest copy is made, the leaf written, the host told, and the waiting lanes walk again. -/
def execPageCopyDone (s : State) : Out :=
  let d := s.site
  .next (match (getDie s d).copies with
    | [] => s
    | c :: rest =>
      let s1 := copyPage (c.pte.toNat / 65536 % 2 ^ 32 * 65536) c.frame 1024 s
      let leaf := c.pte.toNat % 65536 ||| c.frame % 2 ^ 48 ||| c.pte.toNat / 2 ^ 48 * 2 ^ 48 ||| 3
      let s2 := homeStoreBytes .other true c.pteAddr (leBytes 8 leaf) s1
      let q : PageReq := { tag := 0, ctxid := (getCtx s2 c.ctx).ctxid, ctx := c.ctx, granule := c.granule, kind := 3, posted := false }
      let s3 := updDie d (fun x => { x with copies := rest, reqs := x.reqs ++ [q] }) s2
      let s4 := postReqs d (getDie s3 d).reqs s3
      (s4.waves.filter (fun w => w.cluster / 64 == d && w.ctx == c.ctx && !w.log.isEmpty)).foldl (fun s w => post w.id .logReplay s) s4)

/-- PAGE_REQUEST_ROOM_RECHECK (R360, R362), for the die it acts at: held requests are posted if there is room now. -/
def execPageRequestRoomRecheck (s : State) : Out := .next (postReqs s.site (getDie s s.site).reqs s)

/-! ### Answers to page requests (R342) -/

/-- The die whose request carries a tag. -/
def tagDie (s : State) (tag : Nat) : Option (Nat × PageReq) :=
  (span 0 4).findSome? (fun d => ((getDie s d).reqs.find? (fun q => q.tag == tag && q.kind != 3 && q.posted && q.answer.isNone)).map (fun q => (d, q)))

/-- The answer to a page request of a tag: none while it is awaited, or where its answer was discarded (R342). -/
def tagAnswer (s : State) (tag : Nat) : Option Bool :=
  ((span 0 4).findSome? (fun d => (getDie s d).reqs.find? (fun q => q.tag == tag && q.kind != 3))).bind (·.answer)

/-- The lanes whose parts of an entry a test selects; all of its lanes, for an access made once for the wave. -/
def partsOf (e : LogEntry) (sel : LogLane → Bool) : List LogLane :=
  if e.once then (if e.lanes.any sel then e.lanes else []) else e.lanes.filter sel

/-- Parts of a wave's log that a test selects lose their access, and their lanes trap (R342, FAIL = 1). -/
def failWave (k : Nat) (sel : LogLane → Bool) (s : State) : State :=
  match s.waves.find? (fun w => w.id == k) with
  | none => s
  | some w =>
    let ts : List (Nat × LaneTrap) := w.log.flatMap (fun e => (partsOf e.2 sel).map (fun p =>
      (p.lane, { code := cPFAULT, tval := p.addr, tepc := e.2.pc, nr := true, conv := e.2.once })))
    let s1 := w.log.foldl (fun s e => dropParts k e.1 ((partsOf e.2 sel).map (·.lane)) s) s
    wakeSplit k (deliver k ts s1)

/-- The part waits for a page request whose answer has come with FAIL = 1. -/
def deniedPart (s : State) (p : LogLane) : Bool :=
  match p.wait with
  | .page (some tag) => tagAnswer s tag == some true
  | _ => false

/-- The part waits for a page copy, or for an answer that has come. -/
def pageReady (s : State) (p : LogLane) : Bool :=
  match p.wait with
  | .page none => true
  | .page (some tag) => (tagAnswer s tag).isSome
  | _ => false

/-- LOG_REPLAY (R339, R340, R386), for the wave it acts at: logged accesses whose fault has been served are performed again, but for those that their lanes
perform at an ERET, and due traps taken. -/
def execLogReplay (s : State) : Out :=
  let s1 := failWave s.site (deniedPart s) s
  .next (takeDue s.site (replayLog s.site (fun p => !p.trapped && pageReady s1 p) s1))

/-- LOAD_RETURN (R210, R146), for the wave it acts at: the data on its way arrives. -/
def execLoadReturn (s : State) : Out := .next (replayLog s.site (fun p => p.wait == .data) s)

/-- PGRESP (R342): the host answers the page request of a tag. -/
def execPgresp (_ : Nat) (value : BitVec 64) (s : State) : Out :=
  let tag := (fld value 48 16).toNat
  let id := (fld value 36 12).toNat
  let gen := (fld value 20 16).toNat
  let failed := bit value 19
  .next (if s.regs.stage < 7 then s
    else match tagDie s tag with
    | none => s
    | some (d, q) =>
      let set (a : Option Bool) (s : State) : State :=
        updDie d (fun x => { x with reqs := x.reqs.map (fun y => if y == q then { y with answer := a } else y) }) s
      let good := q.ctxid.toNat % 2 ^ 28 == id * 65536 + gen && (getCtx s q.ctx).ctxid == q.ctxid && (getCtx s q.ctx).stat != .killed
      if !good then updDie d (fun x => { x with reqs := x.reqs.filter (fun y => y != q) }) s
      else if failed then
        let s1 := set (some true) s
        (s1.waves.filter (fun w => w.ctx == q.ctx)).foldl (fun s w => failWave w.id (fun p => p.wait == .page (some tag)) s) s1
      else set (some false) s)

/-! ### Remote accesses (R49, R368) -/

/-- A remote access leaves the list. -/
def dropRemote (index : Nat) (s : State) : State := { s with remote := s.remote.take index ++ s.remote.drop (index + 1) }

/-- A load or an atomic performed at its peer (R49, R217). -/
def peerPerform (k : MKind) (o : MA) (a : Nat) (data : List W64) (s : State) : State × Nat :=
  let size := accSize o
  let old := leNat (cellsRead s.peer a size)
  match k with
  | .view f => (s, widenView f (viewOf f old))
  | .atom op =>
    let n := 8 * size
    let new := atomicNew op size old ((nth 0 data 0).toNat % 2 ^ n) ((nth 0 data 1).toNat % 2 ^ n)
    ({ s with peer := cellsWrite s.peer a (leBytes size new) }, old)
  | _ => (s, old)

/-- The wave and entry of a load or atomic of a peer, and the lanes it counts for there. -/
def remoteEntry (s : State) (r : Remote) : Option (Wave × Nat × LogEntry × List Nat) :=
  match r.who, r.log with
  | (k, _) :: _, some idx =>
    match s.waves.find? (fun w => w.id == k) with
    | none => none
    | some w => (w.log.find? (fun e => e.1 == idx)).map (fun e => (w, idx, e.2, (r.who.filter (fun p => p.1 == k)).map (·.2)))
  | _, _ => none

/-- A remote access that failed (R368): REMOTE in the lanes of a load or atomic; a message for a store. -/
def remoteFail (r : Remote) (s : State) : State :=
  match r.log with
  | some _ =>
    match remoteEntry s r with
    | none => s
    | some (w, idx, e, ids) =>
      let t : LaneTrap := { code := cREMOTE, tval := r.va, tepc := r.pc, nr := true, conv := e.once }
      let mine := (e.lanes.filter (fun p => ids.contains p.lane)).map (·.lane)
      wakeSplit w.id (deliver w.id (mine.map (fun i => (i, t))) (dropParts w.id idx mine s))
  | none => if supvOn s r.ctx then postOrQueue { ctx := r.ctx, cluster := r.cluster, msg := r.va.toNat * 2 ^ 128 + cREMOTE * 2 ^ 102 + r.origin } s else s

/-- A remote access that the peer has performed. -/
def remoteDone (r : Remote) (s : State) : State :=
  let a := r.dev * 2 ^ 48 + r.pa
  match r.log with
  | none =>
    let s1 := { s with peer := cellsWrite s.peer a r.bytes }
    match r.tcb with
    | some (ctx, tcb) => post r.cluster (.tcbDecrement ctx (r.cluster / 64) tcb (.stc r.origin)) s1
    | none => s1
  | some _ =>
    match remoteEntry s r with
    | none => s
    | some (w, idx, e, ids) =>
      match memKind e.ins, e.lanes.find? (fun p => ids.contains p.lane) with
      | some (k, o), some p =>
        let q := peerPerform k o a p.data s
        let mine := (e.lanes.filter (fun p => ids.contains p.lane)).map (·.lane)
        wakeSplit w.id (repApply w.id idx e mine true (repVals k o q.2) q.1).1
      | _, _ =>
        -- a texel or a node: the lane reads on, with this answer
        let parts := ids.map (fun i => Agent.part w.id idx i)
        post w.id .loadReturn (waitParts w.id idx ids .data false { s with
          answers := s.answers ++ parts.map (fun a => { agent := a, dev := r.dev, pa := r.pa, n := r.n, kind := r.kind, ok := true }) })

/-- The access that a peer's answer is for: accesses of one thread to one peer are performed in program order (R112), and the stores of one SCATTER in lane order
(R212), so an earlier one comes first. -/
def remoteFirst (s : State) (index : Nat) : Nat :=
  match s.remote[index]? with
  | none => index
  | some r => Nat.min index (s.remote.findIdx (fun x => x.dev == r.dev && (ofAgents x.who r.who || (x.scatter.isSome && x.scatter == r.scatter))))

/-- The answer of an access that no log entry and no store stands for: it is told to the agent that waits for it, which is tried again. -/
def tellAgent (a : Agent) (r : Remote) (ok : Bool) (s : State) : State :=
  unstall (if agentWaits s a then { s with answers := s.answers ++ [{ agent := a, dev := r.dev, pa := r.pa, n := r.n, kind := r.kind, ok }] } else s)

/-- The load or atomic belongs to a wave that is saved: it is performed once that is resumed (R347). -/
def remoteSaved (s : State) (r : Remote) : Bool :=
  r.log.isSome && r.who.any (fun p => (getCtx s r.ctx).saved.waves.any (fun w => w.id == p.1))

/-- An outstanding access is answered, or has failed. -/
def answerRemote (j : Nat) (ok : Bool) (s : State) : State :=
  match s.remote[j]? with
  | none => s
  | some r =>
    if remoteSaved s r then s
    else
    let s1 := dropRemote j s
    match r.log, r.agent with
    | none, some a => tellAgent a r ok s1
    | _, _ => if ok then remoteDone r s1 else remoteFail r s1

/-- REMOTE_RESPONSE (R49, R368): the peer answers the outstanding access of an index. -/
def execRemoteResponse (index : Nat) (ok : Bool) (s : State) : Out := .next (answerRemote (remoteFirst s index) ok s)

/-- REMOTE_ACCESS_TIMEOUT (R368): the outstanding access of the index at the site was not acknowledged in time. -/
def execRemoteAccessTimeout (s : State) : Out := .next (answerRemote (remoteFirst s s.site) false s)

/-! ### The supervisor (R345, R346) -/

/-- The message waits for the resume of the wave whose lane posts it (R346, R347). -/
def postSaved (s : State) (p : Post) : Bool := p.lane.any (fun a => (getCtx s p.ctx).saved.waves.any (fun w => w.id == a.1))

/-- SUPV_POST_RETRY (R345), for the held message of the index at the site: one more attempt. -/
def execSupvPostRetry (s : State) : Out :=
  .next (match s.posts[s.site]? with
    | none => s
    | some p =>
      if postSaved s p then s
      else
      let r := postMsg p.ctx p.cluster p.msg s
      match r.2 with
      | .later => r.1
      | _ => afterPost p r.2 { r.1 with posts := r.1.posts.take s.site ++ r.1.posts.drop (s.site + 1) })

/-- What an FP-parked lane does (R346). -/
inductive ParkAct where
  | wait
  | again
  | trap
  | exit
deriving DecidableEq, Repr, Inhabited

/-- The ACTION word of one FP-parked lane looked at (R346). TARG 0 marks a message that could not be posted (R345). -/
def parkAct (w : Wave) (l : Lane) (s : State) : State × ParkAct :=
  if s.posts.any (fun p => p.lane == some (w.id, l.id)) then (s, .wait)
  else if l.targ = 0 then (s, .trap)
  else
    let r := devRead w.ctx w.cluster false l.targ 8 s
    (r.1, match r.2 with
      | .wait => .wait
      | .fail _ => .trap
      | .done bs => (match leNat bs with | 0 => .wait | 1 => .again | 3 => .exit | _ => .trap))

/-- The actions of several lanes, read one after another. -/
def parkActs (w : Wave) : List Lane → State → State × List (Lane × ParkAct)
  | [], s => (s, [])
  | l :: ls, s => let a := parkAct w l s; let b := parkActs w ls a.1; (b.1, (l, a.2) :: b.2)

/-- A lane executes its instruction again, alone (ACTION 1): in a slot of its own, as soon as there is one (R136, R144). -/
def parkAgain (k : Nat) (l : Lane) (s : State) : State :=
  match s.waves.find? (fun w => w.id == k) with
  | none => s
  | some w =>
    let shared := w.lanes.any (fun x => x.id != l.id && alive x && x.st != .overflowed && x.slot == l.slot)
    match if shared then (freeSlots w).head? else some l.slot with
    | none => s
    | some slot => mapLanesOf k [l.id] (fun l => { l with st := .ready, slot, targ := 0, noFpe := true }) s

/-- FP-parked lanes take FPE (R346, ACTION 2): those of one subgroup together (R336). -/
def parkTrap (k : Nat) (ls : List Lane) (s : State) : State :=
  let slots := ls.foldl (fun acc l => if acc.contains l.slot then acc else acc ++ [l.slot]) []
  slots.foldl (fun s j =>
    let here := ls.filter (fun l => l.slot == j)
    takeTrapsOf k (here.map (fun l => (l.id, { code := cFPE, tval := BitVec.ofNat 64 l.fpe.toNat, tepc := l.pc })))
      (mapLanesOf k (here.map (·.id)) (fun l => { l with st := .ready, targ := 0 }) s)) s

/-- FP_PARK_ACTION (R346), for the wave it acts at. -/
def execFpParkAction (s : State) : Out :=
  .next (match s.waves.find? (fun w => w.id == s.site) with
    | none => s
    | some w =>
      if w.halted || ctxAway s w.ctx then s
      else
        let r := parkActs w (w.lanes.filter (fun l => l.st == .fpParked && !l.held)) s
        let of_ (a : ParkAct) : List Lane := (r.2.filter (fun p => p.2 == a)).map (·.1)
        let gone := (of_ .exit).map (·.id)
        let s1 := exitLanes w.id gone (mapLanesOf w.id gone (fun l => { l with targ := 0 }) r.1)
        (of_ .again).foldl (fun s l => parkAgain w.id l s) (parkTrap w.id (of_ .trap) s1))

/-! ### WAITA (R108, R223) -/

/-- Where a sleeper's word lies now: its address translated again, where it is a virtual one. -/
def waitaAgain (w : Wave) (pc : W64) (a : WaitA) (s : State) : State × Got WaitA :=
  match a.place with
  | _ + 2 => (s, .done a)
  | _ =>
    let r := heldXlat { ctx := w.ctx, cluster := w.cluster, h := a.h, pc } .read a.va a.size false s
    match r.2 with
    | .done (.loc pa mt) => (r.1, .done { a with place := 0, addr := pa, mt })
    | .done (.fab dev pa) => (r.1, .done { a with place := 1, addr := dev * 2 ^ 48 + pa, mt := 0 })
    | .wait => (r.1, .wait)
    | .trap t => (r.1, .trap t)

/-- The sleep of a WAITA is over: a store woke it, or its timeout has expired. -/
def waitaOver (s : State) (a : WaitA) : Bool := a.woken || (a.timeout != 0 && decide (a.since + a.timeout ≤ s.clock))

/-- The sleepers of a wave, one for each subgroup slot. -/
def sleepers (w : Wave) : List (Nat × WaitA) :=
  (span 0 16).filterMap (fun k => w.lanes.findSome? (fun l => if l.slot == k then (match l.st with | .waiting (.waita a) => some (k, a) | _ => none) else none))

/-- The lanes of a sleeper. -/
def sleepLanes (w : Wave) (k : Nat) : List Lane :=
  w.lanes.filter (fun l => l.slot == k && (match l.st with | .waiting (.waita _) => true | _ => false))

/-- A sleeper reads its word again and completes. -/
def waitaEnd (w : Wave) (k : Nat) (a : WaitA) (s : State) : State :=
  let ls := sleepLanes w k
  let ids := ls.map (·.id)
  let pc := match ls with | l :: _ => l.pc | [] => 0
  let r := waitaAgain w pc a s
  match r.2 with
  | .wait => r.1
  | .trap t => asWave w.id (takeConverged (ids.map (fun i => (i, t)))) r.1
  | .done b =>
    let q := waitaRead w.cluster b r.1
    asWave w.id (fun s => mapLanes ids (fun l => { l with st := .ready, pc := l.pc + 4 }) (setW a.d (BitVec.ofNat 64 q.2) s)) q.1

/-- WAITA_WAKE (R223), for the wave it acts at: its sleepers whose sleep is over. -/
def execWaitaWake (s : State) : Out :=
  .next (match s.waves.find? (fun w => w.id == s.site) with
    | none => s
    | some w => if w.halted then s else ((sleepers w).filter (fun p => waitaOver s p.2)).foldl (fun s p => waitaEnd w p.1 p.2 s) s)

/-- WAITA_PEER_POLL (R223), for the wave it acts at: a sleeper on a peer's word reads it, and wakes where the value differs from D. -/
def execWaitaPeerPoll (s : State) : Out :=
  .next (match s.waves.find? (fun w => w.id == s.site) with
    | none => s
    | some w =>
      if w.halted then s
      else ((sleepers w).filter (fun p => p.2.place == 1)).foldl (fun s p =>
        if leNat (cellsRead s.peer p.2.addr p.2.size) != (wGet w p.2.d).toNat % 2 ^ (8 * p.2.size) then waitaEnd w p.1 p.2 s else s) s)

end Sys2Proof.Machine
end

