-- ==== Sys2Proof/Machine/Tensor.lean ====
section
/-! DEFINITION. The tensor array: leases, acceptance, accumulator access, loads of B, multiply steps, ring rotation, epilogue and contraction
(R128 to R132, R238 to R264). -/

namespace Sys2Proof.Machine

/-! ### Operand types (R238) -/

/-- Bits of an element of an operand type. -/
def opBits (ty : Nat) : Nat := if ty = 2 || ty = 3 then 16 else if ty = 5 then 4 else 8

/-- Bytes that an address of an operand must be a multiple of: those of an element; 1 for a 4-bit code. -/
def opBytes (ty : Nat) : Nat := if opBits ty = 16 then 2 else 1

/-- The float format of a type code. -/
def opFmt (ty : Nat) : Fmt := match ty with | 0 => .e4m3 | 1 => .e5m2 | 2 => .fp16 | _ => .bf16

/-- Integer weights. -/
def isAffine (ty : Nat) : Bool := ty == 4 || ty == 5

/-- A valid pairing (R238); `affine` for TMMQ. -/
def pairOk (affine : Bool) (aty bty : Nat) : Bool :=
  if affine then aty < 4 && isAffine bty
  else (aty < 2 && bty < 2) || (aty == 2 && bty == 2) || (aty == 3 && bty == 3)

/-- Bytes of a column of 128 elements (R249). -/
def colBytes (ty : Nat) : Nat := 16 * opBits ty

/-! ### Accumulators and latches (R235) -/

def accKey (k i j : Nat) : Nat := 16384 * k + 128 * i + j
def accGet (a : ArrayState) (k i j : Nat) : W32 := aget 0 a.acc (accKey k i j)
def accPut (k i j : Nat) (x : W32) (a : ArrayState) : ArrayState :=
  { a with acc := if x = 0 then adel (accKey k i j) a.acc else aset (accKey k i j) x a.acc }

def latchOf (a : ArrayState) (half : Nat) : Latch := if half = 0 then a.bl0 else a.bl1
def setLatch (half : Nat) (l : Latch) (a : ArrayState) : ArrayState := if half = 0 then { a with bl0 := l } else { a with bl1 := l }

/-- Element k of a packed list of words. -/
def packedElem (bits : Nat) (ws : List W32) (k : Nat) : Nat := elem bits (k % (32 / bits)) (nth 0 ws (k / (32 / bits)))

/-! ### Multiply arithmetic (R129 to R131) -/

/-- How the positions of a step are present and weighed: dense; affine codes with group size, entries per column in order, and their groups; 2:4 with
each column's nibbles; or a block bitmap. -/
inductive MulKind where
  | dense
  | affine (g : Nat) (entries : List W32)
  | sparse (nibbles : List Nat)
  | bitmap (word : Nat)
deriving DecidableEq, Repr, Inhabited

/-- One chunk added to an accumulator element (R129): unchanged where nothing is present. -/
def addChunk (x : Nat) (ps : List (FVal × FVal)) : Nat :=
  if ps.isEmpty then x else (roundF .fp32 .rne (dotF .rne (unpackF .fp32 x) ps).1).1

/-- The exact scaled sum of a group of affine weights, rounded (R131). -/
def affineTerm (e : W32) (ps : List (FVal × FVal)) : Nat :=
  let zero := FVal.fin false 0 0
  let s1 := (sumF .rne zero (ps.map (fun p => (mulF p.1 p.2).1))).1
  let s0 := (sumF .rne zero (ps.map (·.1))).1
  let zp := ofInt ((e.toNat / 2 ^ 16 % 256 : Nat) : Int)
  let d := (addF .rne s1 (negF (mulF zp s0).1)).1
  (roundF .fp32 .rne (mulF (unpackF .fp16 (e.toNat % 2 ^ 16)) d).1).1

/-- Position that stored value t of a 2:4 column stands for (R253); `nib` holds the column's nibbles, lowest first. -/
def sparsePos (nib t : Nat) : Nat := 4 * (t / 2) + nib / 2 ^ (4 * (t / 2) + 2 * (t % 2)) % 4

/-- Element (i, j) after a multiply step (R251): `a` reads an element of row i as a value, `b` a stored element of column j. -/
def mulElem (kind : MulKind) (nch j : Nat) (a b : Nat → FVal) (x : Nat) : Nat :=
  match kind with
  | .dense => (span 0 nch).foldl (fun x c => addChunk x ((span (32 * c) 32).map (fun k => (a k, b k)))) x
  | .bitmap word => (span 0 nch).foldl (fun x c =>
      if word / 2 ^ (j / 16 * 4 + c) % 2 = 1 then addChunk x ((span (32 * c) 32).map (fun k => (a k, b k))) else x) x
  | .sparse nibs =>
    let nib := nth 0 nibs j
    (span 0 (2 * nch)).foldl (fun x c => addChunk x ((span (16 * c) 16).map (fun t => (a (sparsePos nib t), b t)))) x
  | .affine g entries =>
    let n := 32 * nch / g
    (span 0 n).foldl (fun x h =>
      (faddE .fp32 .rne x (affineTerm (nth 0 entries (j * n + h)) ((span (g * h) g).map (fun k => (a k, b k))))).1) x

/-- A multiply step with its operands: accumulator, first row and column, rows, Z, latch half, type of A, stored chunks, kind. -/
structure MulStep where
  d : Nat
  row : Nat
  col : Nat
  m : Nat
  z : Bool
  half : Nat
  aty : Nat
  nch : Nat
  kind : MulKind
deriving DecidableEq, Repr, Inhabited

/-- The step on the array state; `rows` are the packed words of the rows of A (R251). -/
def mulRun (p : MulStep) (rows : List (List W32)) (a : ArrayState) : ArrayState :=
  let l := latchOf a p.half
  (span 0 p.m).foldl (fun a' i =>
    let ra : Nat → FVal := fun k => unpackF (opFmt p.aty) (packedElem (opBits p.aty) (nth [] rows i) k)
    (span 0 l.nw).foldl (fun a' j =>
      let col := nth [] l.cols j
      let cb : Nat → FVal := fun k =>
        let e := packedElem (opBits l.ty) col k
        if isAffine l.ty then ofInt (e : Int) else unpackF (opFmt l.ty) e
      let x := if p.z then 0 else (accGet a p.d (p.row + i) (p.col + j)).toNat
      accPut p.d (p.row + i) (p.col + j) (BitVec.ofNat 32 (mulElem p.kind p.nch j ra cb x)) a') a') a

/-! ### Local memory as the array reads it -/

/-- n bytes of local memory at an address of a team; 0 where the address no longer names any. -/
def lmAt (s : State) (team a n : Nat) : List Byte :=
  match (getTeam s team).bind (fun t => localTarget s t (a % 2 ^ 32) n) with
  | some p => lmRead s p.1 p.2 n
  | none => (span 0 n).map (fun _ => 0)

/-- An extent in local memory: aligned to `al` and wholly in the allocation. -/
def lmExtent (i : Issuer) (s : State) (w : Wave) (a : W64) (al n : Nat) : Got Unit :=
  if a.toNat % al != 0 then .trap (addrTrap i cALIGN a false)
  else if (localTarget s (teamOf s w) (a.toNat % 2 ^ 32) n).isNone then .trap (addrTrap i cPROT a false)
  else .done ()

/-- Rows of A: m rows of n bytes with a stride. -/
def lmRows (s : State) (team a stride m n : Nat) : List (List W32) := (span 0 m).map (fun i => leWords (lmAt s team (a + i * stride) (ceilDiv n 4 * 4) ))

/-! ### The shape word (R247) -/

def shM (x : W64) : Nat := (fld x 0 8).toNat
def shNW (x : W64) : Nat := (fld x 8 8).toNat
def shROW (x : W64) : Nat := (fld x 16 7).toNat
def shCOL (x : W64) : Nat := (fld x 24 7).toNat
def shSTRIDE (x : W64) : Nat := (fld x 32 16).toNat
def shSB (x : W64) : Nat := (fld x 48 10).toNat
def shKCH (x : W64) : Nat := (fld x 58 2).toNat + 1
def shLG (x : W64) : Nat := (fld x 60 2).toNat

/-- An extent field is 1 to 128. -/
def extent1 (n : Nat) : Bool := 1 ≤ n && n ≤ 128

/-! ### Commands carried out (R248 to R255) -/

/-- TZERO. -/
def zeroAcc (k : Nat) (a : ArrayState) : ArrayState := { a with acc := a.acc.filter (fun p => p.1 / 16384 != k) }

/-- TLDB: NW columns with a stride, from a local-memory address. -/
def loadLatch (s : State) (team a stride nw ty half : Nat) (x : ArrayState) : ArrayState :=
  setLatch half { ty, nw, cols := (span 0 nw).map (fun j => leWords (lmAt s team (a + j * stride) (colBytes ty))) } x

/-- The activation of R132: 0 none, 1 ReLU, 2 clamp with a bound. -/
def activate (act bound y : Nat) : Nat :=
  let v := unpackF .fp32 y
  if isNaN v then y
  else match act with
    | 1 => if isZero v || negOf v then 0 else y
    | 2 =>
      let c := unpackF .fp32 bound
      let y1 := if ltF c v then bound else y
      if ltF (unpackF .fp32 y1) (negF c) then (bound + 2 ^ 31) % 2 ^ 32 else y1
    | _ => y

/-- An epilogue (R255): accumulator, first row and column, rows, columns, scale, biases, activation, bound, output format. -/
structure Epi where
  k : Nat
  row : Nat
  col : Nat
  m : Nat
  nw : Nat
  scale : Option Nat
  bias : List Nat
  act : Nat
  bound : Nat
  ofmt : Nat
deriving DecidableEq, Repr, Inhabited

/-- One output element (R132). -/
def epiElem (e : Epi) (x j : Nat) : Nat :=
  let y := match e.scale with | some sc => (fmulE .fp32 .rne x sc).1 | none => x
  let y := if e.bias.isEmpty then y else (faddE .fp32 .rne y (nth 0 e.bias j)).1
  viewOf (BitVec.ofNat 3 e.ofmt) (activate e.act e.bound y)

/-- The bytes of one output row. -/
def epiRow (e : Epi) (a : ArrayState) (i : Nat) : List Byte :=
  (span 0 e.nw).foldl (fun acc j => acc ++ leBytes (fmtBytes e.ofmt) (epiElem e (accGet a e.k (e.row + i) (e.col + j)).toNat j)) []

/-- Bytes written at an end from offset k, cut at the 4 KiB boundaries of the end. -/
def endWriteAll (c : EngCmd) (e : End) : Nat → Nat → List Byte → State → State × EngErr
  | 0, _, _, s => (s, none)
  | fuel + 1, k, bs, s =>
    if bs.isEmpty then (s, none)
    else
      let m := Nat.min bs.length (e.room k)
      let r := endWrite c e k (bs.take m) s
      match r.2 with
      | some x => (r.1, some (x, e.at k))
      | none => endWriteAll c e fuel (k + m) (bs.drop m) r.1

/-- The m rows of n bytes of an epilogue's output looked up before they are written. -/
def rowsLook (c : EngCmd) (dst : End) (stride m n : Nat) (s : State) : State × Bool :=
  lookAll ((span 0 m).map (fun i => endLook c .write dst (i * stride) n)) s

/-- The first of the rows that cannot be written. -/
def rowsFault (c : EngCmd) (dst : End) (stride n : Nat) : List Nat → State → State × EngErr
  | [], s => (s, none)
  | i :: is, s =>
    let r := endFault c dst 4 (i * stride) n s
    match r.2 with
    | some x => (r.1, some x)
    | none => rowsFault c dst stride n is r.1

/-- Rows i, i + 1, ... of an epilogue: how many were written whole, and the fault that ended it. -/
def epiRows (c : EngCmd) (e : Epi) (a : ArrayState) (dst : End) (stride : Nat) : Nat → Nat → State → State × Nat × EngErr
  | 0, i, s => (s, i, none)
  | n + 1, i, s =>
    let r := endWriteAll c dst 4 (i * stride) (epiRow e a i) s
    match r.2 with
    | some x => (r.1, i, some x)
    | none => epiRows c e a dst stride n (i + 1) r.1

/-! ### Contraction (R256 to R261) -/

/-- Fields of a parameter block (R257, R258). -/
structure TconF where
  out : Nat
  sb : Nat
  seq0 : Nat
  start : Nat
  mcb : Nat
  cbar : Nat
  clamp : Nat
  scale : Nat
  ng : Nat
  k : Nat
  n : Nat
  m : Nat
  ogs : Nat
  ostr : Nat
  mgs : Nat
  mks : Nat
  mlm : Nat
  bgs : Nat
  bks : Nat
  bcs : Nat
  blm : Nat
  ags : Nat
  astr : Nat
  alm : Nat
  cnt : Nat
  bias : Nat
  mcbv : Bool
  mphx : Bool
  acc : Nat
  scl : Bool
  olm : Bool
  ring : Bool
  menu : Nat
  act : Nat
  ofmt : Nat
  gsz : Nat
  bsp : Nat
  bfmt : Nat
  aty : Nat
  kind : Nat
deriving DecidableEq, Repr, Inhabited

def tconF (b : Nat) : TconF :=
  { out := bitsOf b 960 64, sb := bitsOf b 940 10, seq0 := bitsOf b 912 8, start := bitsOf b 864 32, mcb := bitsOf b 832 32, cbar := bitsOf b 800 32,
    clamp := bitsOf b 768 32, scale := bitsOf b 736 32, ng := bitsOf b 704 32, k := bitsOf b 672 32, n := bitsOf b 640 32, m := bitsOf b 608 32,
    ogs := bitsOf b 576 32, ostr := bitsOf b 544 32, mgs := bitsOf b 512 32, mks := bitsOf b 480 32, mlm := bitsOf b 448 32, bgs := bitsOf b 416 32,
    bks := bitsOf b 384 32, bcs := bitsOf b 352 32, blm := bitsOf b 320 32, ags := bitsOf b 288 32, astr := bitsOf b 256 32, alm := bitsOf b 224 32,
    cnt := bitsOf b 128 64, bias := bitsOf b 64 64, mcbv := bitsOf b 28 1 == 1, mphx := bitsOf b 27 1 == 1, acc := bitsOf b 24 3,
    scl := bitsOf b 23 1 == 1, olm := bitsOf b 22 1 == 1, ring := bitsOf b 21 1 == 1, menu := bitsOf b 17 4, act := bitsOf b 15 2,
    ofmt := bitsOf b 12 3, gsz := bitsOf b 10 2, bsp := bitsOf b 8 2, bfmt := bitsOf b 5 3, aty := bitsOf b 2 3, kind := bitsOf b 0 2 }

/-- The members and the rank that a contraction uses (R259). -/
def tconGang (p : TconF) (t : Team) : Nat × Nat := if p.ring then (gangCount t, if t.gang.isSome then t.rank else 0) else (1, 0)

def tconG (p : TconF) : Nat := 32 * 2 ^ p.gsz
def tconNT (p : TconF) : Nat := ceilDiv p.n 128
def tconKL (p : TconF) : Nat := if p.bsp = 1 then 256 else 128
def tconKB (p : TconF) : Nat := ceilDiv p.k (tconKL p)

/-- The fields are within their tables, and the rules of R257 and R258 hold. A BIAS that is not 4-byte aligned and an OGS that is no multiple of the element size
are legal: DESIGN CHOICE (log 90). -/
def tconLegal (b : Nat) (p : TconF) (np : Nat) : Bool :=
  let w := p.n / np
  bitsOf b 1024 1024 == 0 && bitsOf b 950 10 == 0 && bitsOf b 920 20 == 0 && bitsOf b 896 16 == 0 && bitsOf b 192 32 == 0 && bitsOf b 29 35 == 0
    && (!p.olm || p.out < 2 ^ 32) && (p.kind == 2 || p.cnt == 0)
    && p.kind < 3 && p.gsz < 3 && p.bsp < 3 && p.act < 3 && p.ofmt < 5 && 8 ≤ p.menu && p.bfmt < 6 && p.aty < 4 && (!isAffine p.bfmt || p.bsp == 0)
    && 1 ≤ p.ng && p.ng ≤ 4096 && (p.kind != 0 || p.ng == 1)
    && 32 ≤ p.k && p.k ≤ 65536 && p.k % 32 == 0 && (p.bsp != 1 || p.k % 64 == 0) && (!isAffine p.bfmt || p.k % tconG p == 0)
    && 1 ≤ p.m && p.m ≤ 16384 && p.n % np == 0 && (w == 16 || w == 32 || w == 64 || (w % 128 == 0 && w != 0)) && p.acc + tconNT p ≤ 8
    && (!isAffine p.bfmt || p.sb + p.ng * p.n * p.k / tconG p ≤ 1024) && pairOk (isAffine p.bfmt) p.aty p.bfmt
    && p.out % fmtBytes p.ofmt == 0 && p.ostr % fmtBytes p.ofmt == 0 && p.astr % opBytes p.aty == 0 && p.bcs % opBytes p.bfmt == 0

/-- The extents of the 2:4 metadata of a contraction: its steps read 8 bytes of a column for each stored chunk (R253), of which the last block of K may have fewer. -/
def metaExtents (p : TconF) : List (Nat × Nat) :=
  let kb := tconKB p
  let at_ (k n : Nat) : Nat × Nat := (p.mlm, (p.ng - 1) * p.mgs + k * p.mks + 32 * (p.n - 1) + n)
  at_ (kb - 1) (8 * Nat.min 4 ((p.k - (kb - 1) * 256) / 64)) :: (if 1 < kb then [at_ (kb - 2) 32] else [])

/-- The extents of a contraction in local memory: first address and length. -/
def tconExtents (p : TconF) (np : Nat) : List (Nat × Nat) :=
  let w := p.n / np
  let kb := tconKB p
  let g := p.ng - 1
  [(p.alm, g * p.ags + (p.m - 1) * p.astr + p.k * opBytes p.aty), (p.blm, g * p.bgs + (kb - 1) * p.bks + (w - 1) * p.bcs + colBytes p.bfmt)]
  ++ (if p.bsp = 1 then metaExtents p
      else if p.bsp = 2 then [(p.mlm, g * p.mgs + (kb - 1) * p.mks + 8 * np)] else [])
  ++ (if p.olm then [(p.out, g * p.ogs + (p.m - 1) * p.ostr + p.n * fmtBytes p.ofmt)] else [])

/-- The first misaligned address of an operand of the steps: that of the first group and block, of the next block, or of the next group. -/
def firstOff (al base ks gs : Nat) (p : TconF) : Option Nat :=
  if base % al != 0 then some base
  else if 1 < tconKB p && ks % al != 0 then some (base + ks)
  else if 1 < p.ng && gs % al != 0 then some (base + gs)
  else none

/-- The first misaligned local-memory address that the steps read (R243, R249, R256). -/
def tconOff (p : TconF) : Option Nat :=
  ((firstOff (opBytes p.aty) p.alm 0 p.ags p).or (firstOff (opBytes p.bfmt) p.blm p.bks p.bgs p)).or
    (if p.bsp = 0 then none else firstOff 8 p.mlm p.mks p.mgs p)

/-- The steps of R259. -/
inductive TStep where
  | load (e kb b : Nat)
  | mul (e row0 n kb b s half : Nat) (z : Bool)
  | ring (send recv : Nat)
  | epi (e row0 n t : Nat)
deriving DecidableEq, Repr, Inhabited

/-- The row tile for the rows left: 128, or the least menu height that holds them. -/
def tileHeight (menu left : Nat) : Nat :=
  if 128 ≤ left then 128
  else ((([16, 32, 64, 128].zip [0, 1, 2, 3]).filter (fun p => menu / 2 ^ p.2 % 2 = 1 && left ≤ p.1)).head?.map (·.1)).getD 128

/-- The row tiles of a group: first row and rows. -/
def tiles (menu rows : Nat) : Nat → Nat → List (Nat × Nat)
  | 0, _ => []
  | fuel + 1, row0 =>
    if rows ≤ row0 then []
    else
      let t := tileHeight menu (rows - row0)
      (row0, Nat.min t (rows - row0)) :: tiles menu rows fuel (row0 + t)

/-- The whole sequence of steps. -/
def tconSteps (p : TconF) (counts : List Nat) (np g : Nat) : List TStep :=
  let w := p.n / np
  (span 0 p.ng).flatMap (fun e =>
    let rows := if p.kind = 2 then Nat.min (nth 0 counts e) p.m else p.m
    (tiles p.menu rows rows 0).flatMap (fun t =>
      (span 0 (tconKB p)).flatMap (fun kb =>
        (span 0 (ceilDiv w 128)).flatMap (fun b =>
          TStep.load e kb b :: (span 0 np).flatMap (fun r =>
            TStep.mul e t.1 t.2 kb b ((g + np - r) % np) (r % 2) (kb == 0) :: (if r + 1 < np then [TStep.ring (r % 2) ((r + 1) % 2)] else []))))
      ++ (span 0 (tconNT p)).map (fun k => TStep.epi e t.1 t.2 k)))

/-! ### Starting and finishing commands (R243) -/

/-- A member accepts a TRING (R254): alone it copies its own half at once; in a gang it waits for every member. The flag says whether it is done. -/
def startRing (c : Nat) (t : Team) (recv send : Nat) (s : State) : State × Bool :=
  if gangCount t ≤ 1 then
    (updTensor c (fun x => { x with arr := { setLatch recv (latchOf x.arr send) x.arr with ring := x.arr.ring + 1 } }) s, true)
  else
    let s1 := updTensor c (fun x => { x with ringCmd := some (recv, send) }) s
    (if ringReady s1 t then post (t.gang.getD 0) .ringTransfer s1 else s1, false)

/-- The step of a captured multiply command. -/
def cmdMul (c : EngCmd) (a : ArrayState) : Option MulStep :=
  let sh : W64 := nth 0 c.ops 1
  let mk (h : RG) (ty : Nat) (half : Bool) (kind : MulKind) : MulStep :=
    { d := h.d.toNat, row := shROW sh, col := shCOL sh, m := shM sh, z := h.x, half := half.toNat, aty := ty, nch := shKCH sh, kind }
  let rest := (c.ops.drop 2).map (·.toNat)
  match c.ins with
  | .tmma h p => some (mk h p.ty.toNat p.half .dense)
  | .tmmq h p => some (mk h p.ty.toNat p.half (.affine (32 * 2 ^ p.gs.toNat) (rest.map (BitVec.ofNat 32))))
  | .tmsp h p =>
    some (mk h p.ty.toNat p.half (if p.sk then .bitmap (nth 0 rest 0)
      else .sparse ((span 0 (latchOf a p.half.toNat).nw).map (fun j =>
        (span 0 (shKCH sh)).foldl (fun acc q => acc + nth 0 rest (j * shKCH sh + q) * 2 ^ (64 * q)) 0))))
  | _ => none

/-- Positions of a step: 64 per stored chunk for 2:4, else 32. -/
def mulPositions (k : MulKind) (nch : Nat) : Nat := match k with | .sparse _ => 64 * nch | _ => 32 * nch

/-- The rows of a TEPI: how many were written whole, and the fault that ended it (R255). -/
def tepiRows (c : EngCmd) (h : RG) (p : TepiP) (s : State) : State × Nat × EngErr :=
  let sh := nth 0 c.ops 1
  let sc := nth 0 c.ops 2
  let e : Epi := {
    k := h.a.toNat, row := shROW sh, col := shCOL sh, m := shM sh, nw := shNW sh, bias := (c.ops.drop 4).map (·.toNat), act := p.act.toNat
    scale := if p.sr = 0 then none else some (sc.toNat % 2 ^ 32), bound := sc.toNat / 2 ^ 32, ofmt := p.ofmt.toNat }
  epiRows c e (getTensor s c.cluster).arr (endOf p.dl (nth 0 c.ops 0)) (shSTRIDE sh) (shM sh) 0 s

/-- An accepted command carried out; a TCON starts its steps, a TRING in a gang its wait; of one that has begun, what completes it. The flag says whether it is
complete. -/
def runCmd (c : EngCmd) (s : State) : State × Bool :=
  let x (k : Nat) : W64 := nth 0 c.ops k
  let k := c.cluster
  let upd (f : ArrayState → ArrayState) : State := if c.begun then s else updTensor k (fun t => { t with arr := f t.arr }) s
  match c.ins with
  | .tzero o => (upd (zeroAcc o.d.toNat), true)
  | .tldb _ p => (upd (loadLatch s c.team (x 0).toNat (shSTRIDE (x 1)) (shNW (x 1)) p.ty.toNat p.half.toNat), true)
  | .tring o =>
    match getTeam s c.team with
    | some t => startRing k t o.d.toNat o.a.toNat (updTensor k (fun x => { x with ringOf := some c }) s)
    | none => (s, true)
  | .tcon _ _ => (post k .tconStep (upd (fun a => { a with tcon := a.tcon.map (fun t => { t with suspended := false }) })), false)
  | .tepi h p =>
    let sh := x 1
    let r := if c.begun then (s, shM sh, none) else tepiRows c h p s
    let n := r.2.1 * shNW sh * fmtBytes p.ofmt.toNat
    let s1 := engArrive c (x 3) n p.scope.toNat (shM sh) r.1
    (match r.2.2 with
      | some (e, a) => handBack c e a r.2.1 (some (x 3)) s1
      | none => s1, true)
  | _ =>
    match cmdMul c (getTensor s k).arr with
    | some p => (upd (mulRun p (lmRows s c.team (x 0).toNat (shSTRIDE (x 1)) p.m (mulPositions p.kind p.nch * opBits p.aty / 8))), true)
    | none => (s, true)

/-- The sequencer of a cluster tries again as soon as a walk has ended or the host has answered. -/
def retrySeq (c : Nat) (s : State) : State := stallOnce c .tconStep s

/-- The accepted command that has not begun. -/
def setKept (c : Nat) (k : Option EngCmd) (s : State) : State := updTensor c (fun x => { x with arr := { x.arr with kept := k } }) s

/-- What a command writes to memory looked up before it begins (R29), and the host's answers for its release (R63); true where it must wait. -/
def cmdLook (c : EngCmd) (s : State) : State × Bool :=
  match c.ins with
  | .tepi _ p =>
    let sh := nth 0 c.ops 1
    lookBoth (rowsLook c (endOf p.dl (nth 0 c.ops 0)) (shSTRIDE sh) (shM sh) (shNW sh * fmtBytes p.ofmt.toNat)) (relLook (c.cluster / 64) p.scope.toNat) s
  | _ => (s, false)

/-- A row of a TEPI lies at a peer. -/
def rowsAfar (c : EngCmd) (s : State) : Bool :=
  match c.ins with
  | .tepi _ p =>
    let sh := nth 0 c.ops 1
    !p.dl && (span 0 (shM sh)).any (fun i => [0, shNW sh * fmtBytes p.ofmt.toNat - 1].any (fun k =>
      match (engXlat c .write (nth 0 c.ops 0 + BitVec.ofNat 64 (i * shSTRIDE sh + k)) s).2 with | .ok (.fab _ _) => true | _ => false))
  | _ => false

/-- The command is its engine's own affair from here on: its issuer does not wait for the answers of peers. -/
def ownAffair (c : EngCmd) (s : State) : Bool := s.doing.isNone && rowsAfar c s

/-- A command begins, or stays accepted where it must wait; TENSOR_COMMAND_DONE follows where it is complete. -/
def beginCmd (c : EngCmd) (s : State) : State :=
  let l := cmdLook c s
  if l.2 then retrySeq c.cluster (setKept c.cluster (some c) l.1)
  else if ownAffair c l.1 then post c.cluster .tconStep (setKept c.cluster (some c) l.1)
  else
    let r := runCmd c (setKept c.cluster none l.1)
    if r.2 then post c.cluster .tensorCommandDone r.1 else r.1

/-- The command touches nothing that the TRING waiting before it writes, and nothing of its own is what that TRING reads (R243). -/
def besideRing (x : Tensor) (c : EngCmd) : Bool :=
  !c.begun && !(x.arr.tcon.any (fun t => !t.suspended)) && (match x.ringCmd, cmdMul c x.arr with
    | some (recv, _), some p => p.half != recv
    | some _, none => (match c.ins with | .tzero _ => true | .tepi _ _ => true | _ => false)
    | none, _ => false)

/-- The rows of a TEPI can all be written; other commands write none. -/
def rowsFit (c : EngCmd) (s : State) : Bool :=
  match c.ins with
  | .tepi _ p =>
    let sh := nth 0 c.ops 1
    (rowsFault c (endOf p.dl (nth 0 c.ops 0)) (shSTRIDE sh) (shNW sh * fmtBytes p.ofmt.toNat) (span 0 (shM sh)) s).2.isNone
  | _ => true

/-- The effects of a command on accumulators and memory, without its completion. -/
def cmdEffect (c : EngCmd) (s : State) : State :=
  match c.ins with
  | .tepi h p => (tepiRows c h p s).1
  | _ => (runCmd c s).1

/-- A command accepted behind a TRING that waits begins where it touches nothing of that TRING's (R243); it completes in its turn (R245). A TEPI begins there only where
all its rows can be written: DESIGN CHOICE (log 81). -/
def beginBeside (c : EngCmd) (s : State) : State :=
  let s1 := setKept c.cluster (some c) s
  if !besideRing (getTensor s c.cluster) c then s1
  else
    let l := cmdLook c s1
    if l.2 then retrySeq c.cluster l.1
    else if ownAffair c l.1 then post c.cluster .tconStep l.1
    else if rowsFit c l.1 then setKept c.cluster (some { c with begun := true }) (cmdEffect c l.1)
    else l.1

/-- A command accepted by the sequencer (R241, R243): counted, and begun, or kept behind the one that executes. -/
def acceptCmd (n : Nat) (c : EngCmd) (s : State) : State :=
  let s1 := advance n (updTensor c.cluster (fun x => { x with left := x.left - 1, running := x.running + 1 }) s)
  if seqBusy (getTensor s1 c.cluster) then beginBeside c s1 else beginCmd c s1

/-- The sequencer goes on when nothing executes: with the accepted command; else with the holder's own contraction, at its recorded step (R262, R264); else the
lease may end. -/
def seqNext (c : Nat) (s : State) : State :=
  let x := getTensor s c
  if seqBusy x then leaseCheck c s
  else match x.arr.kept with
    | some k => beginCmd k s
    | none =>
      if x.holder.any (tconBy x.arr)
      then post c .tconStep (updTensor c (fun x => { x with arr := { x.arr with tcon := x.arr.tcon.map (fun t => { t with suspended := false }) } }) s)
      else leaseCheck c s

/-- TENSOR_COMMAND_DONE (R243): one command fewer; the sequencer goes on. -/
def execTensorCommandDone (s : State) : Out :=
  .next (seqNext s.site (updTensor s.site (fun x => { x with running := x.running - 1 }) s))

/-! ### The grant (R236, R239, R254, R262, R264) -/

/-- What a team had in the sequencer when it was pre-empted is accepted again: a TRING that had not started, and the accepted command behind it. -/
def beginAgain (c : Nat) (t : Team) (s : State) : State :=
  let s1 := updTeam t.id (fun t => { t with again := none, againRing := none }) s
  let s2 := updTensor c (fun x => { x with
    running := x.running + t.again.isSome.toNat + t.againRing.isSome.toNat
    arr := { x.arr with kept := x.arr.kept.or t.again } }) s1
  match t.againRing with
  | none => s2
  | some k => let r := runCmd k s2; if r.2 then post c .tensorCommandDone r.1 else r.1

/-- The array passes to a requester: its team's state comes into the array; its waiting lanes go on; what the team left in the sequencer begins first, and the
requester's own contraction then continues. The Chronograph's event names the wave (log 78). -/
def grantTo (c : Nat) (r : ArrReq) (w : Wave) (s : State) : State :=
  let lease := w.lease == .requesting
  let s1 := updTensor c (fun x => { x with
    reqs := x.reqs.filter (· != r), holder := some w.id, left := if lease then w.leaseN else 0, ending := !lease, since := s.clock
    running := (tconBy x.arr w.id).toNat }) (chrono (c / 64) (c % 64) 5 w.id (exchange c r.team s))
  let s2 := if lease then updWave w.id (fun w => { w with lease := .holding, lanes := w.lanes.map leaveLease }) s1 else s1
  seqNext c (match getTeam s2 r.team with | some t => beginAgain c t s2 | none => s2)

/-- LEASE_GRANT (R236, R239): the array goes to the first requesting position after the last holder's that can have it. A CPYQ's request brings its team's state
into the array, writes its scale entries, and passes the array on at once. -/
def execLeaseGrant (s : State) : Out :=
  let c := s.site
  .next (if (getTensor s c).holder.isSome then s
    else match nextGrant s c with
    | none => s
    | some r =>
      let drop := updTensor c (fun x => { x with reqs := x.reqs.filter (· != r) }) s
      match r.kind with
      | .scale =>
        let s1 := updTensor c (fun x => { x with lastPos := r.pos }) drop
        match (getCluster s1 c).copyQ with
        | e :: rest =>
          if e.wave == r.wave && e.team == r.team
          then post c .leaseGrant (scaleFinish e (updCluster c (fun x => { x with copyQ := rest }) s1)) else post c .leaseGrant s1
        | [] => post c .leaseGrant s1
      | _ => match s.waves.find? (fun w => w.id == r.wave) with
        | some w => grantTo c r w s
        | none => post c .leaseGrant drop)

/-! ### Acceptance of one command (R240, R243) -/

/-- A tensor command of the issuing subgroup: nothing where no lane is selected; the lease; room, which a requester's own contraction leaves it only when it is
complete (R262); then the checks and the command. -/
def tensorIssue (g : BitVec 4) (gn : Bool) (n : Nat) (k : List Lane → State → State) (s : State) : State :=
  let w := curWave s
  match selected s g gn with
  | [] => advance n s
  | ls =>
    match w.lease with
    | .none => instrTrap ls cLEASE 0 s
    | .requesting => waitHere .retry s
    | .lapsed => waitHere .retry (requestLease w.id w.leaseN s)
    | .holding =>
      let x := getTensor s w.cluster
      if x.left = 0 || x.ending || x.arr.kept.isSome || tconBy x.arr w.id then waitHere .retry s else k ls s

/-- A tensor command that reads or writes memory: it comes after every earlier access of its lanes (R97, R245). -/
def memIssue (g : BitVec 4) (gn : Bool) (n : Nat) (k : List Lane → State → State) (s : State) : State :=
  tensorIssue g gn n (fun ls s => if lanesPending s (curWave s) ls then waitHere .retry s else k ls s) s

/-- A check of an extent, or a trap. -/
def thenExtent (ls : List Lane) (r : Got Unit) (k : State → State) (s : State) : State := heldThen ls (s, r) (fun _ s => k s)

/-- TLEASE (R242). -/
def execTlease (o : RG) (s : State) : Out :=
  let w := curWave s
  let n := o.b.toNat + 1
  .next (match selected s o.g o.n with
    | [] => advance 1 s
    | _ =>
      match w.lease with
      | .holding => waitHere .lease (requestLease w.id n (giveUpLease w.id s))
      | .requesting => waitHere .lease (updCur (fun w => { w with leaseN := n }) s)
      | _ => waitHere .lease (requestLease w.id n s))

/-- TREL (R242). -/
def execTrel (o : RG) (s : State) : Out :=
  let w := curWave s
  .next (match selected s o.g o.n with
    | [] => advance 1 s
    | _ => if w.lease = .none then advance 1 s else giveUpLease w.id (advance 1 s))

/-- TZERO (R248). -/
def execTzero (o : RG) (s : State) : Out :=
  .next (tensorIssue o.g o.n 1 (fun ls s => acceptCmd 1 (newCmd (.tzero o) ls [] s) s) s)

/-- TRING (R254). -/
def execTring (o : RG) (s : State) : Out :=
  .next (tensorIssue o.g o.n 1 (fun ls s => acceptCmd 1 (newCmd (.tring o) ls [] s) s) s)

/-- An accumulator that a command not yet complete names (R246). -/
def accPending (x : Tensor) (k : Nat) : Bool :=
  (match x.arr.tcon with
    | some t => let p := tconF (leNat t.block); p.acc ≤ k && k < p.acc + tconNT p
    | none => false) ||
  (match x.arr.kept with
    | some c => (match c.ins with
      | .tzero o => o.d.toNat == k
      | .tmma h _ => h.d.toNat == k
      | .tmmq h _ => h.d.toNat == k
      | .tmsp h _ => h.d.toNat == k
      | .tepi h _ => h.a.toNat == k
      | .tcon _ _ => true
      | _ => false)
    | none => false)

/-- TRACC and TWACC (R245, R246, R248): the register group, the interlock, every earlier command of the requester, then the rows. -/
def accAccess (i : Instr) (o : RG) (vreg acc : Nat) (k : Nat → W64 → State → State) (s : State) : State :=
  tensorIssue o.g o.n 1 (fun ls s =>
    let w := curWave s
    let sh := wGet w o.b.toNat
    let r := 2 ^ shLG sh
    if vreg % r != 0 || decide (w.regs < vreg + r) then illOperands i ls s
    else if accPending (getTensor s w.cluster) acc || seqBusy (getTensor s w.cluster) then waitHere .retry s
    else post w.cluster .tensorCommandDone
      (advance 1 (k r sh (updTensor w.cluster (fun x => { x with left := x.left - 1, running := x.running + 1 }) s)))) s

/-- Column of an accumulator that a lane reaches (R248). -/
def laneCol (w : Wave) (sh : W64) (l : Lane) : Nat := if w.cart then shCOL sh else l.id

/-- TRACC (R248). -/
def execTracc (o : RG) (s : State) : Out :=
  let a := o.a.toNat
  .next (accAccess (.tracc o) o o.d.toNat a (fun r sh s =>
    let w := curWave s
    let x := (getTensor s w.cluster).arr
    let s1 := mapActive (fun l => if selects w o.g o.n l
      then writeVs ((span 0 r).map (fun t => (o.d.toNat + t, accGet x a ((shROW sh + t) % 128) (laneCol w sh l)))) l else l) s
    if o.x then updTensor w.cluster (fun y => { y with arr := { y.arr with acc := y.arr.acc.filter (fun p =>
      !(p.1 / 16384 == a && (span 0 r).any (fun t => (shROW sh + t) % 128 == p.1 / 128 % 128))) } }) s1 else s1) s)

/-- TWACC (R248). -/
def execTwacc (o : RG) (s : State) : Out :=
  let d := o.d.toNat
  .next (accAccess (.twacc o) o o.a.toNat d (fun r sh s =>
    let w := curWave s
    let ls := selected s o.g o.n
    updTensor w.cluster (fun y => { y with arr := (span 0 r).foldl (fun a t =>
      ls.foldl (fun a l => accPut d ((shROW sh + t) % 128) (laneCol w sh l) (vGet l (o.a.toNat + t)) a) a) y.arr }) s) s)

/-- TLDB (R249). -/
def execTldb (h : RG) (p : TldbP) (s : State) : Out :=
  .next (memIssue h.g h.n 2 (fun ls s =>
    let w := curWave s
    let a := wGet w h.a.toNat
    let sh := wGet w h.b.toNat
    let ty := p.ty.toNat
    if !extent1 (shNW sh) || shSTRIDE sh % opBytes ty != 0 then illOperands (.tldb h p) ls s
    else thenExtent ls (lmExtent (issuer s) s w a (opBytes ty) ((shNW sh - 1) * shSTRIDE sh + colBytes ty))
      (fun s => acceptCmd 2 (newCmd (.tldb h p) ls [a, sh] s) s) s) s)

/-- The checks that the multiply steps share: shape, pairing and the rows of A (R247, R250, R251), once the latch half holds what an earlier TRING brings it. -/
def mulIssue (i : Instr) (h : RG) (aty half pos : Nat) (affine : Bool) (k : List Lane → W64 → W64 → Latch → State → State) (s : State) : State :=
  memIssue h.g h.n 2 (fun ls s =>
    let w := curWave s
    let a := wGet w h.a.toNat
    let sh := wGet w h.b.toNat
    let l := latchOf (getTensor s w.cluster).arr half
    let n := pos * shKCH sh
    if (getTensor s w.cluster).ringCmd.any (fun r => r.1 == half) then waitHere .retry s
    else if !extent1 (shM sh) || l.nw = 0 || decide (128 < shROW sh + shM sh) || decide (128 < shCOL sh + l.nw) || shSTRIDE sh % opBytes aty != 0
      || !pairOk affine aty l.ty then illOperands i ls s
    else thenExtent ls (lmExtent (issuer s) s w a (opBytes aty) ((shM sh - 1) * shSTRIDE sh + n * opBytes aty)) (fun s => k ls a sh l s) s) s

/-- TMMA (R250, R251). -/
def execTmma (h : RG) (p : TldbP) (s : State) : Out :=
  .next (mulIssue (.tmma h p) h p.ty.toNat p.half.toNat 32 false (fun ls a sh _ s => acceptCmd 2 (newCmd (.tmma h p) ls [a, sh] s) s) s)

/-- The scale entries of a step (R252): numbers in the order of columns and groups. -/
def scaleIndex (sb ce nw groups : Nat) : List Nat := (span 0 nw).flatMap (fun j => (span 0 groups).map (fun g => sb + j * ce + g))

/-- The first entry that is not valid or carries another tag. -/
def badScale (a : ArrayState) (seq : Nat) (es : List Nat) : Option Nat :=
  es.find? (fun e => match a.scale.find? (fun p => p.1 == e) with
    | some (_, x) => x.toNat / 2 ^ 24 != seq
    | none => true)

/-- TMMQ (R252). -/
def execTmmq (h : RG) (p : TmmqP) (s : State) : Out :=
  .next (mulIssue (.tmmq h p) h p.ty.toNat p.half.toNat 32 true (fun ls a sh l s =>
    let g := 32 * 2 ^ p.gs.toNat
    let n := 32 * shKCH sh
    let es := scaleIndex (shSB sh) p.ce.toNat l.nw (n / g)
    let arr := (getTensor s (curWave s).cluster).arr
    if n % g != 0 || es.any (fun e => 1023 < e) then illOperands (.tmmq h p) ls s
    else match badScale arr p.seq.toNat es with
      | some e => instrTrap ls cQSEQ (BitVec.ofNat 64 e) s
      | none => acceptCmd 2 (newCmd (.tmmq h p) ls ([a, sh] ++ es.map (fun e => BitVec.ofNat 64 (aget 0 arr.scale e).toNat)) s) s) s)

/-- The first nibble of a column whose two fields are equal: its group (R253). -/
def badNibble (nib : Nat) (groups : Nat) : Option Nat := (span 0 groups).find? (fun h => nib / 2 ^ (4 * h) % 4 == nib / 2 ^ (4 * h + 2) % 4)

/-- The metadata of the columns of a 2:4 step, 8 bytes for each stored chunk. -/
def nibbleWords (s : State) (team m nw nch : Nat) : List Nat :=
  (span 0 nw).flatMap (fun j => (span 0 nch).map (fun q => leNat (lmAt s team (m + 32 * j + 8 * q) 8)))

/-- One number per column. -/
def columnNibbles (ws : List Nat) (nw nch : Nat) : List Nat :=
  (span 0 nw).map (fun j => (span 0 nch).foldl (fun acc q => acc + nth 0 ws (j * nch + q) * 2 ^ (64 * q)) 0)

/-- TVAL of the first column and group whose metadata is bad. -/
def badMeta (cols : List Nat) (nch : Nat) : Option Nat :=
  ((span 0 cols.length).filterMap (fun j => (badNibble (nth 0 cols j) (16 * nch)).map (fun h => j + h * 256))).head?

/-- TMSP (R250, R253). Its metadata address is 8-byte aligned, as a scale word's and a chunk's: with `.s24` that is DESIGN CHOICE (log 91). -/
def execTmsp (h : RG) (p : TmspP) (s : State) : Out :=
  .next (mulIssue (.tmsp h p) h p.ty.toNat p.half.toNat (if p.sk then 32 else 64) false (fun ls a sh l s =>
    let w := curWave s
    let m := wGet w p.m.toNat
    let cb := wGet w p.c.toNat
    let nch := shKCH sh
    let n := if p.sk then 8 else 32 * (l.nw - 1) + 8 * nch
    thenExtent ls (lmExtent (issuer s) s w m 8 n) (fun s =>
      heldThen ls (if p.cbv then (s, heldLocal (issuer s) (teamOf s w) cb 8 s) else (s, .done (0, 0))) (fun b s =>
        if p.cbv && (cbWord s b / 2 ^ 63 == 1) == p.phx then waitHere .retry s
        else
          let ws := if p.sk then [leNat (lmAt s w.team m.toNat 8)] else nibbleWords s w.team m.toNat l.nw nch
          match if p.sk then none else badMeta (columnNibbles ws l.nw nch) nch with
          | some v => instrTrap ls cSPMETA (BitVec.ofNat 64 v) s
          | none => acceptCmd 2 (newCmd (.tmsp h p) ls ([a, sh] ++ ws.map (BitVec.ofNat 64)) s) s)) s) s)

/-- TEPI (R255). -/
def execTepi (h : RG) (p : TepiP) (s : State) : Out :=
  .next (memIssue h.g h.n 2 (fun ls s =>
    let w := curWave s
    let d := wGet w h.d.toNat
    let sh := wGet w h.b.toNat
    let ob := fmtBytes p.ofmt.toNat
    let i := issuer s
    if !extent1 (shM sh) || !extent1 (shNW sh) || decide (128 < shROW sh + shM sh) || decide (128 < shCOL sh + shNW sh) || shSTRIDE sh % ob != 0
    then illOperands (.tepi h p) ls s
    else
      let ext : Got Unit := if p.dl then lmExtent i s w d ob ((shM sh - 1) * shSTRIDE sh + shNW sh * ob)
        else if d.toNat % ob != 0 then .trap (addrTrap i cALIGN d false) else .done ()
      thenExtent ls ext (fun s =>
        heldThen ls (s, heldLocal i (teamOf s w) (wGet w p.c.toNat) 8 s) (fun _ s =>
          let ba := wGet w p.br.toNat
          let r : State × Got (List Byte) := if p.br = 0 then (s, .done [])
            else if ba.toNat % 4 != 0 then (s, .trap (addrTrap i cALIGN ba false)) else heldReads i 4 (shNW sh) ba s
          heldThen ls r (fun bs s =>
            acceptCmd 2 (newCmd (.tepi h p) ls ([d, sh, wGet w p.sr.toNat, wGet w p.c.toNat] ++ (leWords bs).map (fun x => BitVec.ofNat 64 x.toNat)) s) s))) s) s)

/-- TCON (R256 to R258). -/
def execTcon (h : RG) (p : TconP) (s : State) : Out :=
  .next (memIssue h.g h.n 2 (fun ls s =>
    let w := curWave s
    let i := issuer s
    let a := wGet w h.a.toNat
    let t := teamOf s w
    if a.toNat % 256 != 0 then instrTrap ls cALIGN a s
    else heldThen ls (heldRead i a 1 256 s) (fun bs s =>
      let b := leNat bs
      let f := tconF b
      let np := (tconGang f t).1
      if !tconLegal b f np then illOperands (.tcon h p) ls s
      else if f.cnt % 4 != 0 then instrTrap ls cALIGN (BitVec.ofNat 64 f.cnt) s
      else if f.cbar % 8 != 0 then instrTrap ls cALIGN (BitVec.ofNat 64 f.cbar) s
      else if f.mcbv && f.mcb % 8 != 0 then instrTrap ls cALIGN (BitVec.ofNat 64 f.mcb) s
      else match tconOff f with
        | some e => instrTrap ls cALIGN (BitVec.ofNat 64 e) s
        | none =>
          let local1 (x n : Nat) : Bool := x / 2 ^ 21 % 16 = 15 && (localTarget s t x n).isSome
          if (tconExtents f np).any (fun e => !local1 e.1 e.2) || !local1 f.cbar 8 || (f.mcbv && !local1 f.mcb 8) then illOperands (.tcon h p) ls s
          else heldThen ls (if f.kind = 2 then heldReads i 4 f.ng (BitVec.ofNat 64 f.cnt) s else (s, .done [])) (fun cs s =>
            let c := newCmd (.tcon h p) ls [a] s
            let run : TconRun := { cmd := c, block := bs, counts := (leWords cs).map (·.toNat), next := f.start }
            if (getTensor s w.cluster).arr.tcon.isSome then waitHere .retry s
            else acceptCmd 2 c (updTensor w.cluster (fun x => { x with arr := { x.arr with tcon := some { run with suspended := true } } }) s)))) s)

/-! ### The events of the sequencer -/

/-- RING_TRANSFER (R254): every member's half receives the predecessor's; the ring counts advance; a member's TRING, or the step of the contraction that it runs,
is done. -/
def execRingTransfer (s : State) : Out :=
  let ms := sortBy (·.rank) (s.teams.filter (fun t => t.gang == some s.site && !t.retired))
  let half (t : Team) : Latch := let x := getTensor s t.cluster; latchOf x.arr ((x.ringCmd.getD (0, 0)).2)
  .next (match ms with
    | [] => s
    | t0 :: _ =>
      if !ringReady s t0 then s
      else (span 0 ms.length).foldl (fun s' k =>
        let me := nth t0 ms k
        let pred := nth t0 ms ((k + ms.length - 1) % ms.length)
        let x := getTensor s' me.cluster
        let recv := (x.ringCmd.getD (0, 0)).1
        let step := x.arr.tcon.any (fun t => !t.suspended)
        let s1 := updTensor me.cluster (fun x => { x with
          ringCmd := none
          ringOf := none
          arr := { setLatch recv (half pred) x.arr with ring := x.arr.ring + 1, tcon := x.arr.tcon.map (fun t => if step then { t with next := t.next + 1 } else t) } }) s'
        post me.cluster (if step then .tconStep else .tensorCommandDone) s1) s)

/-- How one step of a contraction ends: done with bytes written, waiting, or a fault. -/
inductive StepEnd where
  | done (written : Nat)
  | wait
  | ring (recv send : Nat)
  | fault (cause : Nat) (addr : W64)
deriving DecidableEq, Repr, Inhabited

/-- The metadata of a multiply step, or why it cannot run (R252, R253, R259). -/
def stepKind (s : State) (c : EngCmd) (p : TconF) (a : ArrayState) (e kb b sh nw nch : Nat) : Except (Nat × Nat) MulKind :=
  let w := p.n / (if p.ring then (match getTeam s c.team with | some t => gangCount t | none => 1) else 1)
  let j0 := sh * w + 128 * b
  if isAffine p.bfmt then
    let ce := p.k / tconG p
    let sb := p.sb + e * p.n * p.k / tconG p + j0 * ce + kb * 128 / tconG p
    let es := scaleIndex sb ce nw (32 * nch / tconG p)
    match badScale a ((p.seq0 + e) % 256) es with
    | some x => .error (cQSEQ, x)
    | none => .ok (.affine (tconG p) (es.map (aget 0 a.scale)))
  else if p.bsp = 1 then
    let m := p.mlm + e * p.mgs + kb * p.mks + 32 * j0
    let cols := columnNibbles (nibbleWords s c.team m nw nch) nw nch
    match badMeta cols nch with
    | some v => .error (cSPMETA, v)
    | none => .ok (.sparse cols)
  else if p.bsp = 2 then .ok (.bitmap (leNat (lmAt s c.team (p.mlm + e * p.mgs + kb * p.mks + 8 * sh) 8)))
  else .ok .dense

/-- One step performed (R259), or without effect where it waits or fails (R263). -/
def tconPerform (c : EngCmd) (p : TconF) (st : TStep) (s : State) : State × StepEnd :=
  let k := c.cluster
  let a := (getTensor s k).arr
  let np := if p.ring then (match getTeam s c.team with | some t => gangCount t | none => 1) else 1
  let w := p.n / np
  let upd (f : ArrayState → ArrayState) : State := updTensor k (fun t => { t with arr := f t.arr }) s
  match st with
  | .load e kb b =>
    (upd (loadLatch s c.team (p.blm + e * p.bgs + kb * p.bks + 128 * b * p.bcs) p.bcs (Nat.min 128 (w - 128 * b)) p.bfmt 0), .done 0)
  | .mul e row0 n kb b sh half z =>
    let waiting := p.mcbv && (match (getTeam s c.team).bind (fun t => localTarget s t p.mcb 8) with
      | some b => (cbWord s b / 2 ^ 63 == 1) == p.mphx
      | none => false)
    if waiting then (s, .wait)
    else
      let kl := tconKL p
      let left := p.k - kb * kl
      let nch := if p.bsp = 1 then Nat.min 4 (left / 64) else Nat.min 4 (left / 32)
      let j0 := sh * w + 128 * b
      match stepKind s c p a e kb b sh (latchOf a half).nw nch with
      | .error (cause, v) => (s, .fault cause (BitVec.ofNat 64 v))
      | .ok kind =>
        let ab := opBytes p.aty
        let m : MulStep := { d := p.acc + j0 / 128, row := 0, col := j0 % 128, m := n, z, half, aty := p.aty, nch, kind }
        (upd (mulRun m (lmRows s c.team (p.alm + e * p.ags + row0 * p.astr + kb * kl * ab) p.astr n (mulPositions kind nch * ab))), .done 0)
  | .ring send recv => (s, .ring recv send)
  | .epi e row0 n t =>
    let nw := Nat.min 128 (p.n - 128 * t)
    let ob := fmtBytes p.ofmt
    let dst := endOf p.olm (BitVec.ofNat 64 (p.out + e * p.ogs + row0 * p.ostr + 128 * t * ob))
    let ba := BitVec.ofNat 64 (p.bias + 4 * (e * p.n + 128 * t))
    let l := lookBoth (if p.bias = 0 then (fun s => (s, false)) else engLook c .read 3 ba (4 * nw)) (rowsLook c dst p.ostr n (nw * ob)) s
    if l.2 then (l.1, .wait)
    else
    let rb := if p.bias = 0 then (l.1, .ok []) else engRead c ba (4 * nw) l.1
    match rb.2 with
    | .error (x, a) => (rb.1, .fault x a)
    | .ok bs =>
      let f := rowsFault c dst p.ostr (nw * ob) (span 0 n) rb.1
      match f.2 with
      | some (x, a) => (f.1, .fault x a)
      | none =>
      let ep : Epi := {
        k := p.acc + t, row := 0, col := 0, m := n, nw, scale := if p.scl then some p.scale else none
        bias := (leWords bs).map (·.toNat), act := p.act, bound := p.clamp, ofmt := p.ofmt }
      let r := epiRows c ep a dst p.ostr n 0 f.1
      match r.2.2 with
      | some (x, a) => (r.1, .fault x a)
      | none => (r.1, .done (n * nw * ob))

/-- The scope of a contraction's arrival. -/
def tconScope (t : TconRun) : Nat := match t.cmd.ins with | .tcon _ q => q.scope.toNat | _ => 0

/-- The contraction ends: its arrival with the bytes written so far, and TENSOR_COMMAND_DONE. -/
def tconEnd (t : TconRun) (p : TconF) (s : State) : State :=
  let scope := tconScope t
  let s1 := updTensor t.cmd.cluster (fun x => { x with arr := { x.arr with tcon := none } }) s
  post t.cmd.cluster .tensorCommandDone (engArrive t.cmd (BitVec.ofNat 64 p.cbar) t.written scope t.next s1)

/-- The contraction that a cluster's array runs goes past a step that wrote n bytes. -/
def nextStep (c n : Nat) (s : State) : State :=
  post c .tconStep (updTensor c (fun x => { x with arr := { x.arr with tcon := x.arr.tcon.map (fun t => { t with next := t.next + 1, written := t.written + n }) } }) s)

/-- The contraction ends, faulty or not, once the host has answered for its release. -/
def tconStop (t : TconRun) (p : TconF) (fault : EngErr) (s : State) : State :=
  let l := relLook (t.cmd.cluster / 64) (tconScope t) s
  if l.2 then retrySeq t.cmd.cluster l.1
  else match fault with
    | none => tconEnd t p l.1
    | some (cause, a) => handBack t.cmd cause a t.next (some (BitVec.ofNat 64 p.cbar)) (tconEnd t p l.1)

/-- The next step of a contraction that runs, or its end (R259, R263). -/
def tconStep (c : Nat) (t : TconRun) (s : State) : State :=
  let p := tconF (leNat t.block)
  let g := match getTeam s t.cmd.team with | some x => tconGang p x | none => (1, 0)
  match (tconSteps p t.counts g.1 g.2)[t.next]? with
  | none => tconStop t p none s
  | some st =>
    let r := tconPerform t.cmd p st s
    match r.2 with
    | .done n => nextStep c n r.1
    | .wait => retrySeq c r.1
    | .ring recv send =>
      match getTeam r.1 t.cmd.team with
      | none => r.1
      | some tm => let q := startRing c tm recv send r.1; if q.2 then nextStep c 0 q.1 else q.1
    | .fault cause a => tconStop t p (some (cause, a)) r.1

/-- TCON_STEP (R259, R262, R263): the contraction that the array runs takes its next step; with none, an accepted command that had to wait tries again. -/
def execTconStep (s : State) : Out :=
  let c := s.site
  let x := getTensor s c
  .next (if x.ringCmd.isSome then (match x.arr.kept with | some k => beginBeside k s | none => s)
    else match x.arr.tcon.filter (fun t => !t.suspended), x.arr.kept with
    | some t, _ => tconStep c t s
    | none, some k => beginCmd k s
    | none, none => s)

end Sys2Proof.Machine
end

