-- ==== Sys2Proof/Machine/Sbe.lean ====
section
/-! DEFINITION. Structure builds: BLD and the five commands of the structure build engine (R293, R298 to R305). Where the specification states no result,
bytes are free (notes/assumptions/3.md). -/

namespace Sys2Proof.Machine

/-! ### The command (R299) -/

/-- A build as captured at its issue: addresses, n, OP, KW, RADIUS, and its barrier. -/
structure Build where
  inp : W64
  out : W64
  aux : W64
  tmp : W64
  n : Nat
  op : Nat
  kw : Bool
  radius : Nat
  cb : W64
deriving DecidableEq, Repr, Inhabited

/-- Bytes of a key record. -/
def Build.recBytes (b : Build) : Nat := if b.kw then 16 else 8

/-- The areas that a command uses: IN, AUX, TMP, OUT, in bytes; 0 where it uses none (R300). -/
def Build.areas (b : Build) : Nat × Nat × Nat × Nat :=
  match b.op with
  | 0 => (24 * b.n, 24, 0, b.recBytes * b.n)
  | 1 => (b.recBytes * b.n, 0, b.recBytes * b.n, b.recBytes * b.n)
  | 2 => (b.recBytes * b.n, 24, 64 * b.n, 32 * (b.n - 1))
  | 3 => (32 * (b.n - 1), 36 * b.n, 160 * b.n, 128 * b.n)
  | _ => (0, 24 * b.n, 0, 128 * b.n)

/-- The bytes that a command arrives with (R300). -/
def Build.bytes (b : Build) : Nat :=
  match b.op with
  | 2 => 32 * (b.n - 1)
  | 3 => 288 * b.n
  | 4 => 128 * b.n
  | _ => b.recBytes * b.n

/-- The fields of a descriptor are legal (R299, R300). -/
def Build.ok (b : Build) (rest : Nat) : Bool :=
  let a := b.areas
  let addr (x : W64) (len : Nat) : Bool := if len = 0 then x == 0 else x.toNat % 64 == 0
  rest == 0 && b.op < 5 && 1 ≤ b.n && b.n ≤ 2 ^ 26 && (if b.op = 2 || b.op = 3 then 2 ≤ b.n else true)
    && (if b.op = 2 then 1 ≤ b.radius else b.radius == 0)
    && addr b.inp a.1 && addr b.aux a.2.1 && addr b.tmp a.2.2.1 && addr b.out a.2.2.2

/-- The descriptor that 64 bytes hold. -/
def buildOf (bs : List Byte) (cb : W64) : Build :=
  let d := leNat bs
  { inp := BitVec.ofNat 64 (bitsOf d 448 64), out := BitVec.ofNat 64 (bitsOf d 384 64), aux := BitVec.ofNat 64 (bitsOf d 320 64)
    tmp := BitVec.ofNat 64 (bitsOf d 256 64), n := bitsOf d 224 32, op := bitsOf d 220 4, kw := bitsOf d 219 1 == 1, radius := bitsOf d 211 8, cb }

def Build.toOps (b : Build) (desc : W64) : List W64 :=
  [b.inp, b.out, b.aux, b.tmp, BitVec.ofNat 64 b.n, BitVec.ofNat 64 b.op, BitVec.ofNat 64 b.kw.toNat, BitVec.ofNat 64 b.radius, b.cb, desc]

def Build.ofOps (x : List W64) : Build :=
  let g (k : Nat) : W64 := nth 0 x k
  { inp := g 0, out := g 1, aux := g 2, tmp := g 3, n := (g 4).toNat, op := (g 5).toNat, kw := (g 6).toNat == 1, radius := (g 7).toNat, cb := g 8 }

/-- A build handed to the host: it becomes the head of the die's build list (R370), and the host is told by vector 6 (R360). -/
def addBuild (d : Nat) (c : EngCmd) (s : State) : State :=
  let s1 := updDie d (fun x => { x with builds := c :: x.builds }) s
  { s1 with msix := (8 * d + 6) :: s1.msix }

/-- BLD (R298, R370). -/
def execBld (h : RG) (p : EngP) (s : State) : Out :=
  let w := curWave s
  let d := w.cluster / 64
  let a := wGet w h.a.toNat
  let cb := wGet w p.cb.toNat
  .next (engIssue h cb p.rel p.scope.toNat (fun ls s =>
    heldThen ls (heldRead (issuer s) a 64 64 s) (fun bs s =>
      let b := buildOf bs cb
      let host := bit s.regs.funcmode 1
      if !b.ok (bitsOf (leNat bs) 0 211) then illOperands (.bld h p) ls s
      else if 32 ≤ (if host then (getDie s d).builds else (getDie s d).sbe).length then waitHere .retry s
      else
        let c := newCmd (.bld h p) ls (b.toOps a) s
        if host then addBuild d c (advance 2 s)
        else post d .sbeCommandDone (updDie d (fun x => { x with sbe := x.sbe ++ [c] }) (advance 2 s)))) s)

/-! ### Free bytes (R299, R305) -/

/-- n free bytes from number k on. -/
def freeBytes (k n : Nat) : List Byte := (span 0 n).map (fun i => BitVec.ofNat 8 ((Config.value (k + i / 8)).toNat / 2 ^ (8 * (i % 8))))

/-- Free bytes over an area of a command, in pieces that lie in one line each, each written or not; pieces that cannot be written are passed over. -/
def scramble (c : EngCmd) (base : W64) (n : Nat) (s : State) : State :=
  (linePieces base.toNat n).foldl (fun s p =>
    let f := s.free
    let s1 := { s with free := f + 9 }
    if Config.pick f then (endWrite c (.virt (BitVec.ofNat 64 p.1)) 0 (freeBytes (f + 1) p.2) s1).1 else s1) s

/-- A scratch area: reached for writing, its bytes free. -/
def scratch (c : EngCmd) (base : W64) (n : Nat) (s : State) : State × EngErr :=
  endWriteAll c (.virt base) (n / 4096 + 2) 0 (freeBytes s.free n) { s with free := s.free + n / 8 + 1 }

/-- Bytes written at a virtual address. -/
def sbeWrite (c : EngCmd) (va : W64) (bs : List Byte) (s : State) : State × EngErr := endWriteAll c (.virt va) (bs.length / 4096 + 2) 0 bs s

/-! ### Boxes -/

/-- min x, y, z, max x, y, z as FP32 encodings. -/
abbrev Bx := List W32

def bxAt (bs : List Byte) (o : Nat) : Bx := (span 0 6).map (fun i => word32At bs (o + 4 * i))
def bxBytes (b : Bx) : List Byte := b.foldl (fun acc x => acc ++ leBytes 4 x.toNat) []

/-- The union, taken exactly. -/
def bxUnion (a b : Bx) : Bx :=
  (span 0 6).map (fun i => BitVec.ofNat 32 (fminmaxE .fp32 (decide (3 ≤ i)) (nth 0 a i).toNat (nth 0 b i).toNat).1)

def bxFinite (b : Bx) : Bool := b.all finite32

/-- SA of R302, in units of 2^-298. -/
def bxArea (b : Bx) : Int :=
  let e (i : Nat) : Int := fix32 (nth 0 b (i + 3)) - fix32 (nth 0 b i)
  e 0 * e 1 + e 1 * e 2 + e 2 * e 0

/-- The bounds of a triangle of 36 bytes. -/
def triBounds (bs : List Byte) (o : Nat) : Bx :=
  let v (k : Nat) : Bx := let c := (span 0 3).map (fun i => word32At bs (o + 12 * k + 4 * i)); c ++ c
  bxUnion (v 0) (bxUnion (v 1) (v 2))

/-! ### MORTON and SORT (R301) -/

/-- One axis of a key. -/
def mortonAxis (b : Nat) (lo hi slo shi : W32) : Nat :=
  if !([lo, hi, slo, shi].all finite32) || decide (fix32 shi ≤ fix32 slo) then 0
  else
    let q := (fix32 lo + fix32 hi - 2 * fix32 slo) * (2 ^ b : Nat) / (2 * (fix32 shi - fix32 slo))
    if q < 0 then 0 else if ((2 ^ b : Nat) : Int) ≤ q then 2 ^ b - 1 else q.toNat

def mortonKey (kw : Bool) (scene box : Bx) : Nat :=
  let b := if kw then 20 else 10
  let q (a : Nat) : Nat := mortonAxis b (nth 0 box a) (nth 0 box (a + 3)) (nth 0 scene a) (nth 0 scene (a + 3))
  ((span 0 b).map (fun i => (q 0 / 2 ^ i % 2) * 2 ^ (3 * i) + (q 1 / 2 ^ i % 2) * 2 ^ (3 * i + 1) + (q 2 / 2 ^ i % 2) * 2 ^ (3 * i + 2))).sum

/-- A key record. -/
def keyRecord (kw : Bool) (key value : Nat) : List Byte :=
  if kw then leBytes 8 key ++ leBytes 4 value ++ leBytes 4 0 else leBytes 4 key ++ leBytes 4 value

/-- The key that orders a record, and its value. -/
def recordKey (kw : Bool) (r : List Byte) : Nat := if kw then leNat (r.take 8) else leNat (r.take 4) % 2 ^ 30
def recordValue (kw : Bool) (r : List Byte) : Nat := leNat ((r.drop (if kw then 8 else 4)).take 4)

/-- How a build ends: done, or a cause at an address with a resume offset. -/
abbrev SbeEnd := Option (Nat × W64 × Nat)

/-- The end of a write; where it failed, the outputs that the command has written so far are free (R305). -/
def sbeErr (c : EngCmd) (written : List (W64 × Nat)) (r : State × EngErr) (offset : Nat) : State × SbeEnd :=
  match r.2 with
  | none => (r.1, none)
  | some (e, a) => (written.foldl (fun s x => scramble c x.1 x.2 s) r.1, some (e, a, offset))

/-- Bytes read, then used. -/
def sbeRead (c : EngCmd) (va : W64) (n : Nat) (s : State) (k : List Byte → State → State × SbeEnd) : State × SbeEnd :=
  let r := engRead c va n s
  match r.2 with
  | .ok bs => k bs r.1
  | .error (e, a) => (r.1, some (e, a, 0))

def runMorton (c : EngCmd) (b : Build) (s : State) : State × SbeEnd :=
  sbeRead c b.aux 24 s (fun sc s => sbeRead c b.inp (24 * b.n) s (fun bs s =>
    sbeErr c [(b.out, b.recBytes * b.n)]
      (sbeWrite c b.out ((span 0 b.n).foldl (fun acc i => acc ++ keyRecord b.kw (mortonKey b.kw (bxAt sc 0) (bxAt bs (24 * i))) i) []) s) 0))

/-- SORT (R301): the records as they are, in the order of their keys, with KW = 1 the last four bytes of each as well: DEDUCED (log 92). -/
def runSort (c : EngCmd) (b : Build) (s : State) : State × SbeEnd :=
  sbeRead c b.inp (b.recBytes * b.n) s (fun bs s =>
    let sorted := (sortBy (recordKey b.kw) (chunksOf b.recBytes b.n bs)).foldl (fun acc r => acc ++ r) []
    let r := sbeErr c [(b.tmp, sorted.length)] (sbeWrite c b.tmp sorted s) 0
    match r.2 with
    | some e => (r.1, some e)
    | none => sbeErr c [(b.out, sorted.length)] (sbeWrite c b.out sorted r.1) 1)

/-! ### PLOC (R302) -/

/-- A cluster of the build: its reference and box. -/
abbrev Clu := Nat × Bx

/-- The nearest neighbour of position i within the radius: least SA, ties to the least position. -/
def nearest (radius : Nat) (cs : List Clu) (i : Nat) : Nat :=
  let here := nth default cs i
  let best := (span 0 cs.length).foldl (fun (acc : Option (Nat × Int)) j =>
    if j = i || radius < (if i < j then j - i else i - j) then acc
    else
      let a := bxArea (bxUnion here.2 (nth default cs j).2)
      match acc with
      | some (_, x) => if a < x then some (j, a) else acc
      | none => some (j, a)) none
  match best with | some (j, _) => j | none => i

/-- One pass: the next clusters, and the nodes written, each with its two references. -/
def plocPass (radius : Nat) (cs : List Clu) (next : Nat) : List Clu × List (Bx × Nat × Nat) :=
  let nn := (span 0 cs.length).map (nearest radius cs)
  let r := (span 0 cs.length).foldl (fun (acc : List Clu × List (Bx × Nat × Nat)) i =>
    let j := nth 0 nn i
    let mutual_ := nth 0 nn j == i
    let x := nth default cs i
    let y := nth default cs j
    if mutual_ && i < j then
      let u := bxUnion x.2 y.2
      (acc.1 ++ [(next + acc.2.length, u)], acc.2 ++ [(u, x.1, y.1)])
    else if !mutual_ then (acc.1 ++ [x], acc.2)
    else acc) ([], [])
  r

/-- Passes until one cluster is left. -/
def plocRun (radius : Nat) : Nat → List Clu → List (Bx × Nat × Nat) → List (Bx × Nat × Nat)
  | 0, _, nodes => nodes
  | fuel + 1, cs, nodes =>
    if cs.length ≤ 1 then nodes
    else let p := plocPass radius cs nodes.length; plocRun radius fuel p.1 (nodes ++ p.2)

def nodeBytes (x : Bx × Nat × Nat) : List Byte := bxBytes x.1 ++ leBytes 4 x.2.1 ++ leBytes 4 x.2.2

/-- The boxes of the records' values, read one by one. -/
def plocBoxes (c : EngCmd) (aux : W64) : List Nat → State → State × Except (Nat × W64) (List Bx)
  | [], s => (s, .ok [])
  | v :: vs, s =>
    let r := engRead c (aux + BitVec.ofNat 64 (24 * v)) 24 s
    match r.2 with
    | .error e => (r.1, .error e)
    | .ok bs =>
      let q := plocBoxes c aux vs r.1
      match q.2 with
      | .ok rest => (q.1, .ok (bxAt bs 0 :: rest))
      | e => (q.1, e)

def runPloc (c : EngCmd) (b : Build) (s : State) : State × SbeEnd :=
  sbeRead c b.inp (b.recBytes * b.n) s (fun bs s =>
    let vs := (chunksOf b.recBytes b.n bs).map (recordValue b.kw)
    let r := plocBoxes c b.aux vs s
    match r.2 with
    | .error (e, a) => (r.1, some (e, a, 0))
    | .ok boxes =>
      let t := scratch c b.tmp (64 * b.n) r.1
      match t.2 with
      | some (e, a) => (t.1, some (e, a, 0))
      | none =>
        if boxes.all bxFinite then
          let nodes := plocRun b.radius b.n ((span 0 b.n).map (fun k => ((2 ^ 31 + nth 0 vs k) % 2 ^ 32, nth [] boxes k))) []
          sbeErr c [(b.out, 32 * (b.n - 1))] (sbeWrite c b.out (nodes.foldl (fun acc x => acc ++ nodeBytes x) []) t.1) 0
        else sbeErr c [(b.out, 32 * (b.n - 1))] (scratch c b.out (32 * (b.n - 1)) t.1) 0)

/-! ### Wide nodes (R292, R293, R303) -/

/-- A child of a wide node as the quantiser sees it: absent; its exact box; or a box that the specification does not define. -/
inductive Kid where
  | none
  | box (b : Bx)
  | unknown
deriving DecidableEq, Repr, Inhabited

/-- The box of a child that is present; unknown where a bound is not finite. -/
def kidBox (b : Bx) : Kid := if bxFinite b then .box b else .unknown

/-- k of the exponent k - 128, the least for an extent in units of 2^-149 (R293). -/
def leastExp (extent : Int) : Nat := ((span 0 256).find? (fun k => decide (extent * (2 ^ 128 : Nat) ≤ 255 * (2 ^ (k + 149) : Nat)))).getD 255

/-- One axis quantised: origin, k, and the bounds of each child; none where a bound does not fit its byte. -/
def quantAxis (kids : List Kid) (a : Nat) : Option (W32 × Nat × List (Nat × Nat)) :=
  let bs := kids.filterMap (fun k => match k with | .box b => some b | _ => none)
  let pick (hi : Bool) (i : Nat) : W32 := match bs with
    | [] => 0
    | b :: r => r.foldl (fun x y => BitVec.ofNat 32 (fminmaxE .fp32 hi x.toNat (nth 0 y i).toNat).1) (nth 0 b i)
  let o := pick false a
  let k := leastExp (fix32 (pick true (a + 3)) - fix32 o)
  let unit : Int := (2 ^ (k + 149) : Nat)
  let qs : List (Int × Int) := kids.map (fun x => match x with
    | .box b => ((fix32 (nth 0 b a) - fix32 o) * (2 ^ 128 : Nat) / unit, -(-((fix32 (nth 0 b (a + 3)) - fix32 o) * (2 ^ 128 : Nat)) / unit))
    | _ => (0, 0))
  if qs.all (fun q => decide (0 ≤ q.1 ∧ q.1 < 256 ∧ 0 ≤ q.2 ∧ q.2 < 256)) then some (o, k, qs.map (fun q => (q.1.toNat, q.2.toNat))) else none

/-- Bytes 0 to 63 of a node (R292, R293): zero with no child present; none where the specification states no result. `pad` is byte 15. -/
def headerBytes (kids : List Kid) (pad : Byte) : Option (List Byte) :=
  if kids.any (· == .unknown) then none
  else if kids.all (· == .none) then some ((span 0 64).map (fun _ => 0))
  else match quantAxis kids 0, quantAxis kids 1, quantAxis kids 2 with
    | some x, some y, some z =>
      let ax := [x, y, z]
      some (ax.foldl (fun acc a => acc ++ leBytes 4 a.1.toNat) [] ++ ax.map (fun a => BitVec.ofNat 8 (a.2.1 + 128)) ++ [pad] ++
        (span 0 8).foldl (fun acc c => acc ++ ax.map (fun a => BitVec.ofNat 8 (nth (0, 0) a.2.2 c).1) ++ ax.map (fun a => BitVec.ofNat 8 (nth (0, 0) a.2.2 c).2)) [])
    | _, _, _ => none

/-- The header of a node, free where no result is stated; numbers from f on stand for its free bytes. -/
def headerOrFree (kids : List Kid) (f : Nat) : List Byte := (headerBytes kids (nth 0 (freeBytes f 1) 0)).getD (freeBytes (f + 1) 64)

/-! ### COLLAPSE (R303) -/

/-- What COLLAPSE reads: boxes and references of the binary nodes, and the triangles' bytes. -/
structure BinTree where
  nodes : List (Bx × Nat × Nat)
  tris : List (List Byte)
deriving DecidableEq, Repr, Inhabited

def isPrim (r : Nat) : Bool := decide (2 ^ 31 ≤ r)

/-- The primitives below a reference, left to right; the first argument bounds the depth. -/
def primsBelow (t : BinTree) : Nat → Nat → List Nat
  | 0, _ => []
  | n + 1, r =>
    if isPrim r then [r - 2 ^ 31]
    else let x := nth default t.nodes r; primsBelow t n x.2.1 ++ primsBelow t n x.2.2

/-- The member of largest SA among binary nodes with more than 4 primitives; ties to the lower node index. -/
def toSplit (t : BinTree) (ms : List Nat) : Option Nat :=
  let cand := ms.filter (fun r => !isPrim r && decide (4 < (primsBelow t t.nodes.length.succ r).length))
  let sa (r : Nat) : Int := bxArea (nth default t.nodes r).1
  match cand with
  | [] => none
  | x :: r => some (r.foldl (fun a b => if sa a < sa b || (sa a = sa b && b < a) then b else a) x)

/-- The child list of a wide node (R303 item 1). -/
def wideKids (t : BinTree) : Nat → List Nat → List Nat
  | 0, ms => ms
  | n + 1, ms =>
    if 8 ≤ ms.length then ms
    else match toSplit t ms with
      | none => ms
      | some r => let x := nth default t.nodes r; wideKids t n (ms.foldl (fun acc y => if y = r then acc ++ [x.2.1, x.2.2] else acc ++ [y]) [])

/-- The box of a member. -/
def memberBox (t : BinTree) (r : Nat) : Kid :=
  if isPrim r then kidBox (triBounds (nth [] t.tris (r - 2 ^ 31)) 0) else kidBox (nth default t.nodes r).1

/-- A leaf block of up to 4 primitives (R294). -/
def leafBytes (t : BinTree) (ps : List Nat) : List Byte :=
  (span 0 4).foldl (fun acc k => acc ++ (match ps.drop k with
    | p :: _ => (span 0 36).map (fun i => nth 0 (nth [] t.tris p) i)
    | [] => (span 0 36).map (fun _ => 0))) [] ++
  (span 0 4).foldl (fun acc k => acc ++ leBytes 4 (match ps.drop k with | p :: _ => p | [] => 2 ^ 32 - 1)) []

/-- Wide nodes made breadth-first from those still to make: the node slots and the leaf blocks, in order. `made` is the number of nodes numbered. -/
def collapseRun (t : BinTree) (b : Build) (f : Nat) : Nat → List Nat → Nat → List (List Byte) → List (List Byte) → List (List Byte) × List (List Byte)
  | 0, _, _, ns, ls => (ns, ls)
  | _, [], _, ns, ls => (ns, ls)
  | fuel + 1, x :: queue, made, ns, ls =>
    let node := nth default t.nodes x
    let ms := wideKids t 8 [node.2.1, node.2.2]
    let r := ms.foldl (fun (acc : List Nat × Nat × List (List Byte) × List Nat) m =>
      let ps := primsBelow t t.nodes.length.succ m
      if ps.length ≤ 4 then
        let k := ls.length + acc.2.2.1.length
        (acc.1, acc.2.1, acc.2.2.1 ++ [leafBytes t ps], acc.2.2.2 ++ [2 ^ 63 + (b.tmp.toNat + 160 * k) % 2 ^ 52])
      else (acc.1 ++ [m], acc.2.1 + 1, acc.2.2.1, acc.2.2.2 ++ [2 ^ 62 + (b.out.toNat + 128 * acc.2.1) % 2 ^ 52])) ([], made, [], [])
    let kids := ms.map (memberBox t)
    let bytes := headerOrFree (kids ++ (span 0 (8 - ms.length)).map (fun _ => .none)) (f + 16 * ns.length)
      ++ (span 0 8).foldl (fun acc c => acc ++ leBytes 8 (nth 0 r.2.2.2 c)) []
    collapseRun t b f fuel (queue ++ r.1) r.2.1 (ns ++ [bytes]) (ls ++ r.2.2.1)

/-- COLLAPSE (R305). Every read goes before any write, and all of OUT before TMP: DESIGN CHOICE (log 93). -/
def runCollapse (c : EngCmd) (b : Build) (s : State) : State × SbeEnd :=
  sbeRead c b.inp (32 * (b.n - 1)) s (fun ns s => sbeRead c b.aux (36 * b.n) s (fun ts s =>
    let t : BinTree := { nodes := (chunksOf 32 (b.n - 1) ns).map (fun x => (bxAt x 0, leNat ((x.drop 24).take 4), leNat ((x.drop 28).take 4)))
                         tris := chunksOf 36 b.n ts }
    if t.nodes.all (fun x => bxFinite x.1) then
      let r := collapseRun t b s.free b.n [b.n - 2] 1 [] []
      let zero := (span 0 128).map (fun _ => (0 : Byte))
      let s1 := { s with free := s.free + 16 * b.n }
      let q := sbeErr c [(b.out, 128 * b.n)] (sbeWrite c b.out ((span 0 b.n).foldl (fun acc k => acc ++ nth zero r.1 k) []) s1) 0
      match q.2 with
      | some e => (q.1, some e)
      | none => sbeErr c [(b.out, 128 * b.n), (b.tmp, 160 * b.n)]
          (sbeWrite c b.tmp ((span 0 b.n).foldl (fun acc k => acc ++ nth (leafBytes t []) r.2 k) []) q.1) 0
    else
      let q := sbeErr c [(b.out, 128 * b.n)] (scratch c b.out (128 * b.n) s) 0
      match q.2 with
      | some e => (q.1, some e)
      | none => sbeErr c [(b.out, 128 * b.n), (b.tmp, 160 * b.n)] (scratch c b.tmp (160 * b.n) q.1) 0))

/-! ### REFIT (R304) -/

/-- The bounds of the present triangles of a leaf block, joined to a box so far. -/
def blockBounds (block : List Byte) (acc : Option Bx) : Option Bx :=
  (span 0 4).foldl (fun acc t =>
    if word32At block (144 + 4 * t) = BitVec.allOnes 32 then acc
    else
      let x := triBounds block (36 * t)
      match acc with | some y => some (bxUnion y x) | none => some x) acc

/-- The bounds of consecutive leaf blocks, read now. -/
def blocksBounds (c : EngCmd) : Nat → W64 → Option Bx → State → State × Except (Nat × W64) (Option Bx)
  | 0, _, acc, s => (s, .ok acc)
  | n + 1, va, acc, s =>
    let r := engRead c va 160 s
    match r.2 with
    | .error e => (r.1, .error e)
    | .ok bs => blocksBounds c n (va + 160) (blockBounds bs acc) r.1

/-- The children of node k from child i on; `done` holds the boxes computed, by node. -/
def refitKids (c : EngCmd) (b : Build) (node : List Byte) (k : Nat) (done : List (Nat × Kid)) : List Nat → State → State × Except (Nat × W64) (List Kid)
  | [], s => (s, .ok [])
  | i :: is, s =>
    let ref := leNat ((node.drop (64 + 8 * i)).take 8)
    let kind := ref / 2 ^ 62
    let addr := canon52 (ref % 2 ^ 52)
    let r : State × Except (Nat × W64) Kid :=
      if kind = 0 then (s, .ok .none)
      else if kind = 1 then
        let off := (addr - b.out).toNat
        (s, .ok (if off % 128 = 0 && k < off / 128 && off / 128 < b.n then aget .unknown done (off / 128) else .unknown))
      else if kind = 2 then
        let q := blocksBounds c (ref / 2 ^ 52 % 256 + 1) addr none s
        (q.1, match q.2 with
          | .error e => .error e
          | .ok (some x) => .ok (kidBox x)
          | .ok none => .ok .unknown)
      else (s, .ok .unknown)
    match r.2 with
    | .error e => (r.1, .error e)
    | .ok x =>
      let q := refitKids c b node k done is r.1
      match q.2 with
      | .ok xs => (q.1, .ok (x :: xs))
      | e => (q.1, e)

/-- The box of a node: the union of its children's, where each is defined and there is one. -/
def nodeBox (kids : List Kid) : Kid :=
  if kids.any (· == .unknown) then .unknown
  else match kids.filterMap (fun k => match k with | .box b => some b | _ => none) with
    | [] => .unknown
    | x :: r => .box (r.foldl bxUnion x)

/-- What a REFIT has written once nodes k and on are done: their bytes 0 to 63, since it keeps every reference, and their boxes in AUX. -/
def refitWritten (b : Build) (k : Nat) : List (W64 × Nat) :=
  (span k (b.n - k)).map (fun i => (b.out + BitVec.ofNat 64 (128 * i), 64)) ++ [(b.aux + BitVec.ofNat 64 (24 * k), 24 * (b.n - k))]

/-- Nodes k - 1 down to 0. -/
def refitRun (c : EngCmd) (b : Build) : Nat → List (Nat × Kid) → State → State × SbeEnd
  | 0, _, s => (s, none)
  | k + 1, done, s =>
    let va := b.out + BitVec.ofNat 64 (128 * k)
    let r := engRead c va 128 s
    match r.2 with
    | .error e => sbeErr c (refitWritten b (k + 1)) (r.1, some e) 0
    | .ok node =>
      let q := refitKids c b node k done (span 0 8) r.1
      match q.2 with
      | .error e => sbeErr c (refitWritten b (k + 1)) (q.1, some e) 0
      | .ok kids =>
        let f := q.1.free
        let box := nodeBox kids
        let s1 := { q.1 with free := f + 32 }
        let held := match box with | .box x => bxBytes x | _ => freeBytes (f + 16) 24
        let a := sbeErr c (refitWritten b k) (sbeWrite c (b.aux + BitVec.ofNat 64 (24 * k)) held s1) 0
        match a.2 with
        | some e => (a.1, some e)
        | none =>
          let w := sbeErr c (refitWritten b k) (sbeWrite c va (headerOrFree kids f) a.1) 0
          match w.2 with
          | some e => (w.1, some e)
          | none => refitRun c b k (aset k box done) w.1

/-! ### Completion (R305, R370) -/

/-- Two areas overlap. -/
def overlapArea (a : W64) (n : Nat) (b : W64) (m : Nat) : Bool :=
  n != 0 && m != 0 && decide (a.toNat < b.toNat + m) && decide (b.toNat < a.toNat + n)

/-- The areas of a command overlap where they must not (R299). -/
def Build.overlaps (b : Build) : Bool :=
  let x := b.areas
  let l := [(b.inp, x.1), (b.aux, x.2.1), (b.tmp, x.2.2.1)]
  let o := (b.out, x.2.2.2)
  overlapArea b.inp x.1 b.aux x.2.1 || overlapArea b.inp x.1 b.tmp x.2.2.1 || overlapArea b.aux x.2.1 b.tmp x.2.2.1
    || l.any (fun p => overlapArea p.1 p.2 o.1 o.2 && !(b.op == 1 && p.1 == b.inp && b.inp == b.out && p.2 != 0))

/-- The areas that a command writes: OUT, and TMP or AUX where it writes them. -/
def Build.outputs (b : Build) : List (W64 × Nat) :=
  let x := b.areas
  [(b.out, x.2.2.2), (b.tmp, x.2.2.1)] ++ (if b.op = 4 then [(b.aux, x.2.1)] else [])

/-- A build performed. -/
def buildRun (c : EngCmd) (b : Build) (s : State) : State × SbeEnd :=
  match b.op with
  | 0 => runMorton c b s
  | 1 => runSort c b s
  | 2 => runPloc c b s
  | 3 => runCollapse c b s
  | _ => refitRun c b b.n [] s

/-- The scope of a build's arrival. -/
def bldScope (c : EngCmd) : Nat := match c.ins with | .bld _ p => p.scope.toNat | _ => 0

/-- The areas of a build looked up before it begins (R29), and the host's answers for what it writes and for its release (R63). -/
def buildLook (c : EngCmd) (b : Build) (s : State) : State × Bool :=
  let x := b.areas
  let look (acc : Acc) (p : W64 × Nat) : State → State × Bool := engLook c acc (p.2 / 4096 + 2) p.1 p.2
  lookAll (((if b.op = 4 then [] else [(b.inp, x.1), (b.aux, x.2.1)]).map (look .read)) ++ b.outputs.map (look .write)
    ++ [relLook (c.cluster / 64) (bldScope c)]) s

/-- A build carried out: its arrival, or its hand-back; it waits at the head of its queue where an address has to be looked up. -/
def sbeFinish (c : EngCmd) (s : State) : State :=
  let b := Build.ofOps c.ops
  let l := buildLook c b s
  if l.2 then
    stallOnce (c.cluster / 64) .sbeCommandDone (updDie (c.cluster / 64) (fun x => { x with sbe := c :: x.sbe }) l.1)
  else
  let r := buildRun c b l.1
  match r.2 with
  | none =>
    let s1 := if b.overlaps then b.outputs.foldl (fun s a => scramble c a.1 a.2 s) r.1 else r.1
    engArrive c b.cb b.bytes (bldScope c) b.bytes s1
  | some (e, a, off) => handBack c e a off (some b.cb) r.1

/-- SBE_COMMAND_DONE (R298, R300 to R305): the oldest build of the die. -/
def execSbeCommandDone (s : State) : Out :=
  let d := s.site
  .next (match (getDie s d).sbe with
    | [] => s
    | c :: rest => sbeFinish c (updDie d (fun x => { x with sbe := rest }) s))

/-- The head of a die's build list, taken (R370). -/
def takeBuild (d : Nat) (k : EngCmd → State → State) (s : State) : State :=
  match (getDie s d).builds with
  | [] => s
  | c :: rest => k c (updDie d (fun x => { x with builds := rest }) s)

/-- A command has left the host's list: the barrier of the head's command is completed with its byte count (R370). -/
def buildArrive (c : EngCmd) (s : State) : State :=
  let b := Build.ofOps c.ops
  engArrive c b.cb b.bytes (bldScope c) b.bytes s

end Sys2Proof.Machine
end

