-- ==== Sys2Proof/Machine/Subs.lean ====
section
/-! DEFINITION. Precision subscriptions: SUBSCRIBE, UNSUB, SUBUP and the home's part of them (R41, R59, R69 to R76, R81, R227, R387). -/

namespace Sys2Proof.Machine

/-- The subscription-directory set of a region within its die: slice and PA[20:15] (R69). -/
def subSet (region : Nat) : Nat := sliceOf (region * 512) * 64 + region * 512 / 2 ^ 15 % 64

/-- View-store blocks of a shadow (R41). -/
def blocksOf (fmt : BitVec 3) : Nat := if fmt = 0 then 4 else if fmt.toNat < 3 then 2 else 1

/-- Blocks of the requests of a cluster that are on their way to their homes (R74 step 2, R81 step 1). -/
def reservedBlocks (s : State) (c : Nat) : Nat :=
  (s.agenda.map (fun p => match p.2 with
    | .homeSubscriptionRequest (.subscribe k _ _ f _) => if k = c then blocksOf f else 0
    | .homeSubscriptionRequest (.subup k ctx region f) =>
      if k = c then (match (getCluster s c).shadows.find? (fun h => h.ctx == ctx && h.region == region) with
        | some h => if f.toNat < h.fmt.toNat then blocksOf f else 0
        | none => 0) else 0
    | _ => 0)).sum

/-- Free blocks of a view store of 4096 (R41). -/
def freeBlocks (s : State) (c : Nat) : Nat :=
  4096 - ((getCluster s c).shadows.map (fun h => blocksOf h.fmt)).sum - reservedBlocks s c

/-- The shadow of a region that a cluster holds in a context (R72). -/
def shadowAt (s : State) (c ctx region : Nat) : Option Shadow :=
  (getCluster s c).shadows.find? (fun h => h.ctx == ctx && h.region == region)

/-- The shadow of a region in a context replaced, or removed. -/
def putShadow (c ctx region : Nat) (h : Option Shadow) (s : State) : State :=
  updCluster c (fun x => { x with shadows := x.shadows.filter (fun y => !(y.ctx == ctx && y.region == region)) ++ h.toList }) s

/-- The status word of R73. -/
def statusWord (status : Nat) (h : Option Shadow) : W64 :=
  BitVec.ofNat 64 (status * 16 + (match h with | some x => x.inv.toNat * 8 + x.fmt.toNat | none => 0))

/-- The other dies' remote tags of a region installed or removed (R59). -/
def remoteTag (d region : Nat) (install : Bool) (s : State) : State :=
  updDie d (fun x => { x with rtags := if install then (if x.rtags.contains region then x.rtags else region :: x.rtags) else x.rtags.filter (· != region) }) s

def remoteTags (region : Nat) (install : Bool) (s : State) : State :=
  (span 0 4).foldl (fun s d => if d = homeDie (region * 512) then s else remoteTag d region install s) s

/-- MEM and INV of a cluster in every class of a region's entry recomputed (R387); empty classes and an empty entry go (R71), and with it SUB and the
remote tags (R59). -/
def recompute (c region : Nat) (s : State) : State :=
  match getSub s region with
  | none => s
  | some e =>
    let hs := (getCluster s c).shadows.filter (fun h => h.region == region)
    let ks := e.classes.map (fun k =>
      let mine := hs.filter (fun h => h.fmt == k.fmt)
      { k with mem := setBit k.mem c (!mine.isEmpty), inv := setBit k.inv c (!mine.isEmpty && mine.all (·.inv)) })
    let ks := ks.filter (fun k => k.mem != 0)
    let d := homeDie (region * 512)
    if ks.isEmpty then
      remoteTags region false (updDir region (fun x => { x with sub := false })
        (updDie d (fun x => { x with subs := x.subs.filter (fun p => p.1 != region) }) s))
    else updDie d (fun x => { x with subs := x.subs.map (fun p => if p.1 == region then (p.1, { p.2 with classes := ks }) else p) }) s

/-- The class for a requested format (R75): one of that format, a free one, or the least precise that is more precise. -/
def chooseClass (e : SubEntry) (f : BitVec 3) : Option (BitVec 3) :=
  if e.classes.any (fun k => k.fmt == f) || e.classes.length < 4 then some f
  else
    let finer := (e.classes.map (fun k => k.fmt.toNat)).filter (· < f.toNat)
    match finer with
    | [] => none
    | x :: r => some (BitVec.ofNat 3 (r.foldl (fun a b => if a < b then b else a) x))

/-- The entry of a region, allocated where there is none (R74 step 3): the tags installed, the dirty bytes pulled, SUB set. None where the set is full. -/
def needEntry (region : Nat) (s : State) : State × Bool :=
  let d := homeDie (region * 512)
  match getSub s region with
  | some _ => (s, true)
  | none =>
    if 8 ≤ ((getDie s d).subs.filter (fun p => subSet p.1 == subSet region)).length then (s, false)
    else
      let s1 := (span 0 8).foldl (fun s i => pullLine (region * 8 + i) s) (remoteTags region true (makeRoom region s))
      (updDir region (fun x => { x with sub := true })
        (updDie d (fun x => { x with subs := x.subs ++ [(region, {})] }) s1), true)

/-- The class record made if it is new. -/
def needClass (region : Nat) (f : BitVec 3) (s : State) : State :=
  updDie (homeDie (region * 512)) (fun x => { x with subs := x.subs.map (fun p =>
    if p.1 == region && !(p.2.classes.any (fun k => k.fmt == f))
    then (p.1, { p.2 with classes := p.2.classes ++ [{ fmt := f, mem := 0, inv := 0 }] }) else p) }) s

/-- HOLD of a region (R74 step 5, R76, R81): the requests already in progress on its lines are complete, and the updates they made have reached their shadows. -/
def holdRegion (region : Nat) (s : State) : State := flushData region ((span 0 8).foldl (fun s i => answerHeld (region * 8 + i) s) s)

/-- The home's part of a SUBSCRIBE (R74 steps 3 to 6): the status. -/
def homeSubscribe (c ctx region : Nat) (f : BitVec 3) (inv : Bool) (s : State) : State × Nat :=
  let r := needEntry region (holdRegion region s)
  if !r.2 then (r.1, 3)
  else match chooseClass ((getSub r.1 region).getD {}) f with
    | none => (r.1, 4)
    | some g =>
      if freeBlocks r.1 c < blocksOf g then (recompute c region r.1, 2)
      else
        let h : Shadow := { ctx, region, fmt := g, inv, count := 1, stale := false, pending := [], views := regionViews r.1 region g }
        (recompute c region (putShadow c ctx region (some h) (needClass region g r.1)), 0)

/-- The home's part of an UNSUB whose count has reached 0 (R76), and every other removal of a shadow. -/
def removeShadow (c ctx region : Nat) (s : State) : State := recompute c region (putShadow c ctx region none s)

/-- The home's part of a SUBUP (R81 steps 2 to 4): the status. -/
def homeSubup (c ctx region : Nat) (f : BitVec 3) (s : State) : State × Nat :=
  let s := holdRegion region s
  match shadowAt s c ctx region, getSub s region with
  | some h, some e =>
    match chooseClass e f with
    | none => (s, 4)
    | some g =>
      let held := blocksOf h.fmt
      let kept := if f.toNat < h.fmt.toNat then blocksOf f else 0
      let most := if held < kept then kept else held
      if g = h.fmt then (s, 0)
      else if freeBlocks s c < kept + (blocksOf g - most) then (s, 2)
      else
        let h' := { h with fmt := g, stale := false, pending := [], views := regionViews s region g }
        (recompute c region (putShadow c ctx region (some h') (needClass region g s)), 0)
  | _, _ => (s, 5)

/-- The shadows that a context holds on a cluster are removed (R41, R76). -/
def dropShadows (c ctx : Nat) (s : State) : State :=
  ((getCluster s c).shadows.filter (fun h => h.ctx == ctx)).foldl (fun s h => removeShadow c ctx h.region s) s

/-! ### The instructions (R227) -/

/-- The region an operand address names: its number, or none where it is not homed in this package's memory (R66, R74 step 1). -/
def regionOf (s : State) : Target → Option Nat
  | .loc pa _ => if inHbm pa || inTier2 s pa then some (pa / 512) else none
  | .fab _ _ => none

/-- A status known at the cluster: written, and the instruction is done. -/
def subStatus (h : RG) (status : Nat) (x : Option Shadow) (s : State) : State := advance 2 (setW h.d.toNat (statusWord status x) s)

/-- A request goes to the home: the issuing subgroup's earlier accesses to the region first (R227), then it waits for the status. -/
def subRequest (h : RG) (region : Nat) (q : SubReq) (s : State) : State :=
  let w := curWave s
  let ls := ((span 0 8).map (fun i => region * 8 + i)).filter (fun l => (rdcGet s (w.cluster / 64) l).mask != 0)
  let ask := ls.filter (asksHost s)
  if !releaseReady 1 s then releaseWait 1 (midOp s)
  else if !ask.isEmpty then waitHere .retry (askHost ask (midOp s))
  else
    let s1 := ls.foldl (fun s l => writebackAfter (w.cluster / 64) l s) s
    waitHere (.status h.d.toNat) (post w.id (.homeSubscriptionRequest q) s1)

/-- The operand address of a subscription instruction, checked as a 1-byte read (R227). -/
def subInstr (h : RG) (k : Option Nat → Wave → State → State) (s : State) : State :=
  let w := curWave s
  match selected s h.g h.n with
  | [] => advance 2 s
  | ls => heldThen ls (heldXlat (issuer s) .read (wGet w h.a.toNat) 1 false s) (fun t s => k (regionOf s t) w s)

/-- SUBSCRIBE (R72 to R74). -/
def execSubscribe (h : RG) (p : SubP) (s : State) : Out :=
  .next (subInstr h (fun r w s =>
    match r with
    | none => subStatus h 6 none s
    | some region =>
      match shadowAt s w.cluster w.ctx region with
      | some x =>
        if 65535 ≤ x.count then subStatus h 2 (some x) s
        else
          let x' := { x with count := x.count + 1 }
          subStatus h 1 (some x') (putShadow w.cluster w.ctx region (some x') s)
      | none =>
        if freeBlocks s w.cluster < blocksOf p.fmt then subStatus h 2 none s
        else subRequest h region (.subscribe w.cluster w.ctx region p.fmt p.mode) s) s)

/-- UNSUB (R76). -/
def execUnsub (h : RG) (_ : SubP) (s : State) : Out :=
  .next (subInstr h (fun r w s =>
    match r with
    | none => subStatus h 5 none s
    | some region =>
      match shadowAt s w.cluster w.ctx region with
      | none => subStatus h 5 none s
      | some x =>
        if 1 < x.count then
          let x' := { x with count := x.count - 1 }
          subStatus h 0 (some x') (putShadow w.cluster w.ctx region (some x') s)
        else subRequest h region (.unsub w.cluster w.ctx region) s) s)

/-- SUBUP (R81). -/
def execSubup (h : RG) (p : SubP) (s : State) : Out :=
  .next (subInstr h (fun r w s =>
    match r with
    | none => subStatus h 5 none s
    | some region =>
      match shadowAt s w.cluster w.ctx region with
      | none => subStatus h 5 none s
      | some x =>
        if p.fmt = x.fmt then subStatus h 0 (some x) s
        else if p.fmt.toNat < x.fmt.toNat && freeBlocks s w.cluster < blocksOf p.fmt then subStatus h 2 (some x) s
        else subRequest h region (.subup w.cluster w.ctx region p.fmt) s) s)

/-! ### Their events -/

/-- The lanes of a wave that wait for the status of a request take it (R227): the w register, and the next instruction. -/
def giveStatus (k : Nat) (x : W64) (s : State) : State :=
  let isWait (st : LaneSt) : Option Nat := match st with | .waiting (.status d) => some d | _ => none
  updWave k (fun w =>
    match w.lanes.findSome? (fun l => (isWait l.st).or (if tcCONV l.tcause then isWait l.before else none)) with
    | none => w
    | some d => { w with
        w := setNth x w.w d
        lanes := w.lanes.map (fun l =>
          if (isWait l.st).isSome then { l with st := .ready, pc := l.pc + 8 }
          else if (isWait l.before).isSome && tcCONV l.tcause then { l with before := .ready, tepc := l.tepc + 8 }
          else l) }) s

/-- HOME_SUBSCRIPTION_REQUEST (R74, R76, R81), for the wave it acts at. -/
def execHomeSubscriptionRequest (q : SubReq) (s : State) : Out :=
  .next (match q with
    | .subscribe c ctx region f inv =>
      let r := homeSubscribe c ctx region f inv s
      giveStatus s.site (statusWord r.2 (shadowAt r.1 c ctx region)) r.1
    | .unsub c ctx region => giveStatus s.site (statusWord 0 none) (removeShadow c ctx region s)
    | .subup c ctx region f =>
      let r := homeSubup c ctx region f s
      giveStatus s.site (statusWord r.2 (shadowAt r.1 c ctx region)) r.1)

/-- REMOTE_TAG_INSTALL (R59): a die's remote tag of a region installed or removed. -/
def execRemoteTagInstall (die region : Nat) (install : Bool) (s : State) : Out := .next (remoteTag die region install s)

/-- HOLD (R79, R387). -/
def execHold (cluster region : Nat) (fmt : BitVec 3) (words : List Nat) (s : State) : Out := .next (holdMsg cluster region fmt words s)

/-- DATA (R79, R387). -/
def execDataMsg (cluster region : Nat) (fmt : BitVec 3) (words : List (Nat × BitVec 32)) (s : State) : Out :=
  .next (dataMsgs cluster region fmt words s)

/-- INVAL (R80). -/
def execInval (cluster region : Nat) (fmt : BitVec 3) (s : State) : Out := .next (invalMsg cluster region fmt s)

end Sys2Proof.Machine
end

