-- ==== Sys2Proof/Machine/Save.lean ====
section
/-! DEFINITION. Pre-emption, resume and killing of a context (R264, R330, R347, R348, R363) and the bytes of the context save area (R349 to R353). -/

namespace Sys2Proof.Machine

/-! ### The registers of PCTL (R363) -/

/-- The context that a pair of ID and GEN names, if it is current. -/
def ctxByPair (s : State) (id gen : Nat) : Option Nat :=
  let ok (k : Nat) : Bool := (getCtx s k).ctxid.toNat % 2 ^ 28 == id * 65536 + gen && (getCtx s k).stat != .killed
  (s.ctxs.map (·.1) ++ [id]).find? ok

def pctlBusy (s : State) : Bool := bit s.regs.pctl 32

/-- An operation ends: BUSY 0, REF as given, vector 3. -/
def pctlEnd (ref : Bool) (s : State) : State :=
  { s with regs := { s.regs with pctl := putFld (putFld s.regs.pctl 32 1 0) 29 1 ref.toNat }, msix := 3 :: s.msix }

/-- ACCERR of a die. -/
def accErr (d : Nat) (s : State) : State := updDie d (fun x => { x with regs := { x.regs with accerr := true } }) s

/-- Boot has completed (R360). -/
def rdy (s : State) : Bool := 7 ≤ s.regs.stage

/-- A write to PCTL with OP set: ignored while the window is closed, refused while BUSY; else the fields are stored, BUSY is 1, and the operation runs
on the context named. -/
def pctlWrite (op : Nat) (value : W64) (k : Nat → State → State) (s : State) : State :=
  if !rdy s then s
  else if pctlBusy s then accErr 0 s
  else
    let s1 := { s with regs := { s.regs with pctl := BitVec.ofNat 64 (2 ^ 32 + op * 2 ^ 30 + value.toNat % 2 ^ 28) } }
    match ctxByPair s1 (fld value 16 12).toNat (fld value 0 16).toNat with
    | none => pctlEnd true s1
    | some h => k h s1

/-- PCTL_DONE (R363). -/
def execPctlDone (s : State) : Out := .next (pctlEnd false s)

/-! ### What a stopped lane keeps (R347, R350) -/

/-- The wait of a lane as it is saved: what runs again runs from its beginning. -/
def savedWait : Wait → LaneSt
  | .retry => .waiting .retry
  | .wide m => .waiting (.wide m)
  | .bar g => .waiting (.bar g)
  | .barAgain => .waiting .barAgain
  | .waita _ => .waiting .retry
  | .data k => .waiting (.data k)
  | .first k => .waiting (.first k)
  | .status _ => .waiting .retry
  | .lease => .waiting .retry
  | .posting => .waiting .posting
  | .accept => .waiting .retry
  | .eret => .waiting .eret
  | .yield _ _ => .ready

def savedSt : LaneSt → LaneSt
  | .waiting w => savedWait w
  | x => x

def savedLane (l : Lane) : Lane := { l with st := savedSt l.st, before := savedSt l.before, chainPc := none, opPc := none }

/-- A sample or ray test whose answer from a peer is still to come is issued again (R285, R291, R347). An access to a peer keeps its place among the others of its thread
(R112, R114). -/
def savedPart (i : Instr) (p : LogLane) : LogLane := if (memKind i).isNone && p.wait == .peer then { p with wait := .page none, tex := none } else p

/-- A wave as it is saved: its leases Lapsed (R240, R347). -/
def savedWave (w : Wave) : Wave :=
  { w with
    lanes := w.lanes.map savedLane
    lease := match w.lease with | .holding => .lapsed | x => x
    log := w.log.map (fun e => (e.1, { e.2 with lanes := e.2.lanes.map (savedPart e.2.ins) })) }

/-! ### The bytes of the save area (R349 to R353) -/

def zeros (n : Nat) : List Byte := (span 0 n).map (fun _ => 0)

/-- Bytes filled with zeros to a multiple of n. -/
def padTo (n : Nat) (bs : List Byte) : List Byte := bs ++ zeros ((n - bs.length % n) % n)

/-- The code of a saved lane (R347, R350): a waiting lane is saved Ready, or Handler. -/
def areaCode (l : Lane) : Nat := match l.st with | .waiting _ => (if l.h then 5 else 1) | _ => stateCode l

/-- The PC of a saved lane: that of a barrier it waits in. -/
def areaPc (l : Lane) : W64 := match l.st with | .waiting (.bar _) => l.pc - 4 | _ => l.pc

/-- A lane block (R351). -/
def laneBlock (l : Lane) : List Byte :=
  leBytes 8 (areaPc l).toNat ++ leBytes 8 l.meet.toNat ++ leBytes 8 l.link.toNat ++ leBytes 8 l.tcause.toNat ++ leBytes 8 l.tval.toNat
    ++ leBytes 8 l.tepc.toNat ++ leBytes 8 l.targ.toNat ++ leBytes 1 l.fpflags.toNat ++ leBytes 1 l.fpen.toNat ++ leBytes 1 (areaCode l)
    ++ leBytes 1 l.slot ++ leBytes 1 l.h.toNat ++ leBytes 2 l.scopeIdx.toNat ++ [0]

/-- An operand-log entry for n lanes (R352). -/
def logBytes (w : Wave) (n k : Nat) : List Byte :=
  match w.log.find? (fun e => e.1 == k) with
  | none => zeros (64 + 24 * n)
  | some (_, e) =>
    let tag := e.lanes.findSome? (fun p => match p.wait with | .page t => t | _ => none)
    leBytes 8 e.pc.toNat ++ leBytes 8 (cmdWords e.ins) ++ leBytes 16 (maskOf (e.lanes.map (·.lane))).toNat
      ++ leBytes 4 (1 + 2 * tag.isSome.toNat + 4 * (tag.getD 0)) ++ zeros 4 ++ leBytes 8 e.wop.toNat ++ zeros 16
      ++ (span 0 n).flatMap (fun i => match e.lanes.find? (fun p => p.lane == i) with
        | some p => leBytes 8 p.addr.toNat ++ leBytes 8 (nth 0 p.data 0).toNat ++ leBytes 8 (nth 0 p.data 1).toNat
        | none => zeros 24)

/-- The header of a wave or thread record, 64 bytes. -/
def waveHeader (w : Wave) (queued : Bool) (size : Nat) : List Byte :=
  let lease := match w.lease with | .none => 0 | .requesting => 1 | _ => 3
  leBytes 1 (if w.cart then 0 else w.regs / 8) ++ leBytes 1 lease ++ leBytes 1 w.leaseN ++ leBytes 1 (w.halted.toNat + 2 * queued.toNat) ++ zeros 4
    ++ leBytes 8 size ++ leBytes 8 w.recAddr.toNat ++ zeros 40

def laneAt (w : Wave) (i : Nat) : Option Lane := w.lanes.find? (fun l => l.id == i)

/-- A wave record (R351). -/
def waveBytes (w : Wave) (queued : Bool) : List Byte :=
  waveHeader w queued (22016 + 512 * w.regs) ++ zeros 448
    ++ (span 0 128).flatMap (fun i => match laneAt w i with | some l => laneBlock l | none => zeros 64)
    ++ (span 0 64).flatMap (fun k => leBytes 8 (wGet w k).toNat)
    ++ (span 0 16).flatMap (fun k => leBytes 16 (mGet w k).toNat)
    ++ (span 0 4).flatMap (logBytes w 128)
    ++ (span 0 w.regs).flatMap (fun r => (span 0 128).flatMap (fun i => match laneAt w i with | some l => leBytes 4 (vGet l r).toNat | none => zeros 4))

/-- A cart thread record (R352). -/
def threadBytes (w : Wave) (queued : Bool) : List Byte :=
  let l := (laneAt w 0).getD { id := 0 }
  let m := ((span 0 16).map (fun k => (mBit w k 0).toNat * 2 ^ k)).sum
  waveHeader w queued 1536 ++ laneBlock l ++ (span 0 64).flatMap (fun r => leBytes 4 (vGet l r).toNat)
    ++ (span 0 64).flatMap (fun k => leBytes 8 (wGet w k).toNat) ++ leBytes 2 m ++ zeros 62
    ++ (span 0 8).flatMap (fun k => leBytes 8 (mbGet w k).toNat)
    ++ (span 0 4).flatMap (fun k => logBytes w 1 k ++ zeros 40)

def memberBytes (w : Wave) (queued : Bool) : List Byte := padTo 64 (if w.cart then threadBytes w queued else waveBytes w queued)

/-- The array state of a team is no longer the initial image. -/
def usedArray (a : ArrayState) : Bool := decide (a ≠ {})

/-- A team record (R350): the members' records follow the image. -/
def teamBytes (t : Team) (subs : List Shadow) (tex : List TexSlot) (members : List (Wave × Bool)) : List Byte :=
  let kept := t.againRing.or t.again
  let image := usedArray t.arr || kept.isSome
  let list := subs.flatMap (fun h => leBytes 8 (h.region * 512) ++ leBytes 8 (h.count % 65536 + h.fmt.toNat * 65536 + h.inv.toNat * 2 ^ 19))
  let rest := padTo 4096 list ++ (if image then imageBytes { t.arr with kept } else []) ++ members.flatMap (fun p => memberBytes p.1 p.2)
  let mask (l : List Nat) : Nat := (l.map (fun i => 2 ^ i)).sum
  let slots := (span 0 8).flatMap (fun k => let x := nth {} tex k
    leBytes 8 x.addr.toNat ++ leBytes 4 x.gen.toNat ++ leBytes 4 (x.bound.toNat + 2 * x.h.toNat))
  leBytes 1 (t.cart.toNat + 2 * image.toNat + 4 * t.gang.isSome.toNat) ++ leBytes 1 members.length ++ leBytes 1 (t.rank % 16 + gangCount t % 16 * 16)
    ++ leBytes 1 (t.gw % 16 + t.gh % 16 * 16) ++ leBytes 4 t.lm ++ leBytes 4 subs.length ++ zeros 4
    ++ leBytes 8 (4096 + t.lm + rest.length) ++ leBytes 16 (mask t.bar) ++ leBytes 16 (mask t.gbar) ++ slots ++ zeros 3912
    ++ cellsRead t.mem 0 t.lm ++ rest

/-- The progress offset of an engine record: what R343 counts of the command; the bytes of a copy's granules. -/
def progressOffset (c : EngCmd) : Nat :=
  match c.ins with
  | .cpy _ _ => 4096 * c.progress
  | .cpyq _ _ => 4096 * c.progress
  | _ => c.progress

/-- The captured w operands of an engine command: the descriptor's address and the barrier, where it has a descriptor. -/
def wOperands (c : EngCmd) : List W64 :=
  match c.ins with
  | .pub _ _ => c.ops.take 2
  | .coll _ _ => c.ops.take 2
  | .bld _ _ => [nth 0 c.ops 9, nth 0 c.ops 8]
  | _ => c.ops

/-- An engine record (R353). -/
def engineBytes (s : State) (c : EngCmd) : List Byte :=
  let wid := match s.waves.find? (fun w => w.id == c.wave) with | some w => waveId w | none => 0
  leBytes 8 (cmdWords c.ins) ++ leBytes 2 c.cluster ++ leBytes 2 wid ++ leBytes 4 (nth 0 c.lanes 0) ++ leBytes 8 (progressOffset c)
    ++ (span 0 5).flatMap (fun k => leBytes 8 (nth 0 (wOperands c) k).toNat)

/-- The header page (R349). -/
def areaHeader (x : Ctx) (teams engines used : Nat) : List Byte :=
  leBytes 8 1 ++ leBytes 8 x.ctxid.toNat ++ leBytes 8 x.ptbase.toNat ++ leBytes 8 x.hwinBase.toNat ++ leBytes 8 x.hwinLimit.toNat ++ leBytes 8 x.hwinOff.toNat
    ++ leBytes 8 x.ordspill.toNat ++ leBytes 8 x.supv.toNat ++ leBytes 8 x.tvec.toNat ++ leBytes 4 teams ++ leBytes 4 engines ++ leBytes 8 used
    ++ leBytes 8 x.asked ++ leBytes 8 x.txpool.toNat ++ zeros 3992

/-- Bytes written physically, where there is HBM. -/
def physWrite (a : Nat) (bs : List Byte) (s : State) : State :=
  if decide (a + bs.length ≤ 2 ^ 39) then writeTarget (64 * homeDie a) (.loc a 1) bs s else s

/-! ### What a context has on the package -/

/-- The clusters a context works on. -/
def ctxClusters (s : State) (h : Nat) : List Nat :=
  ((s.waves.filter (fun w => w.ctx == h)).map (·.cluster) ++ (s.teams.filter (fun t => t.ctx == h && !t.retired)).map (·.cluster)
    ++ (s.clusters.filter (fun p => p.2.shadows.any (fun x => x.ctx == h) || p.2.opens.any (fun o => o.ctx == h) || p.2.releaseQ.any (fun o => o.ctx == h)
        || p.2.dispatchQ.any (fun o => o.ctx == h) || (p.2.copyQ ++ p.2.pubQ ++ p.2.collQ).any (fun e => e.ctx == h))).map (·.1)).eraseDups

/-- Resident work of a context (R363, R370): what its threads, teams, grids and units hold, and launches that are decided. A mapped queue and its records are
queued, not resident (R330): DEDUCED (log 83). -/
def hasWork (s : State) (h : Nat) : Bool :=
  s.waves.any (fun w => w.ctx == h) || s.teams.any (fun t => t.ctx == h && !t.retired) || s.grids.any (fun g => g.ctx == h) || !(ctxClusters s h).isEmpty
    || s.dies.any (fun d => (d.2.sbe ++ d.2.builds).any (fun e => e.ctx == h))
    || s.clusters.any (fun p => p.2.qmQ.any (fun x => (getDie s (p.1 / 64)).slots.any (fun q => q.1 == x.slot && q.2.ctx == h)))

/-- The mapped slots of a context. -/
def ctxSlots (s : State) (h : Nat) : List (Nat × Nat × QSlot) :=
  s.dies.flatMap (fun d => (d.2.slots.filter (fun p => p.2.ctx == h)).map (fun p => (d.1, p.1, p.2)))

/-- A slot unmapped, again after each raise of its TAIL. -/
def unmapTry (d k : Nat) : Nat → State → State × Unmapped
  | 0, s => (s, .noted)
  | n + 1, s => let r := unmapSlot d k s; if r.2 == .noted then unmapTry d k n r.1 else r

/-- A queue's place under a new name, or under none: in lanes and starts, in teams and in grids, resident or saved (R330). -/
def renameQ (h : Nat) (old : Nat × Nat) (new : Option (Nat × Nat)) (s : State) : State :=
  let fix (q : Option (Nat × Nat)) : Option (Nat × Nat) := if q == some old then new else q
  let start (x : Start) : Start := { x with queue := fix x.queue }
  let wave (w : Wave) : Wave := { w with lanes := w.lanes.map (fun l => { l with queue := fix l.queue }) }
  let team (t : Team) : Team := { t with queue := fix t.queue }
  let open_ (o : OpenWave) : OpenWave := { o with lanes := o.lanes.map start }
  let thread (o : CartStart) : CartStart := { o with start := start o.start }
  let cluster (c : Cluster) : Cluster := { c with
    opens := c.opens.map (fun o => if o.ctx == h then open_ o else o)
    releaseQ := c.releaseQ.map (fun o => if o.ctx == h then open_ o else o)
    dispatchQ := c.dispatchQ.map (fun o => if o.ctx == h then thread o else o)
    offers := c.offers.map (fun o => if o.ctx == h then { o with start := start o.start } else o) }
  let saved (v : Saved) : Saved := { v with
    waves := v.waves.map wave
    teams := v.teams.map team
    opens := v.opens.map (fun o => (o.1, open_ o.2))
    dispatch := v.dispatch.map (fun o => (o.1, thread o.2)) }
  updCtx h (fun x => { x with saved := saved x.saved }) { s with
    waves := s.waves.map (fun w => if w.ctx == h then wave w else w)
    teams := s.teams.map (fun t => if t.ctx == h then team t else t)
    grids := s.grids.map (fun g => if g.ctx == h then { g with queues := g.queues.filterMap (fun q => fix (some q)) } else g)
    clusters := s.clusters.map (fun c => (c.1, cluster c.2)) }

/-- The slot of a queue given up by a pre-emption, once the queue is unmapped or its write-back has failed finally (R319, R330): the TCB appends of its records wait
with the context; a pinned queue is remembered, under a number of its own, to be mapped again. -/
def setAside (h d k : Nat) (q : QSlot) (s : State) : State :=
  let key := 256 + s.nextId
  let s1 := updCtx h (fun x => { x with
    appends := x.appends ++ q.tcbs.map (fun t => (q.desc, t))
    saved := if q.pinned then { x.saved with pinned := x.saved.pinned ++ [(d, key, q)] } else x.saved }) { dropSlot d k s with nextId := s.nextId + 1 }
  renameQ h (d, k) (if q.pinned then some (d, key) else none) s1

/-- A slot of a context given up; false where the write-back waits for a fault service or the host. -/
def giveUpSlot (h d k : Nat) (s : State) : State × Bool :=
  match getSlot s d k with
  | none => (s, true)
  | some q =>
    let r := unmapTry d k 4 s
    if r.2 == .later then (r.1, false) else (setAside h d k q r.1, true)

/-- Every slot of a context given up. -/
def giveUpSlots (h : Nat) (s : State) : State × Bool :=
  (ctxSlots s h).foldl (fun r p => let q := giveUpSlot h p.1 p.2.1 r.1; (q.1, r.2 && q.2)) (s, true)

/-- The engine commands of a context, each with its cluster. -/
def ctxEngines (s : State) (h : Nat) : List (Nat × EngCmd) :=
  s.clusters.flatMap (fun p => ((p.2.copyQ ++ p.2.pubQ ++ p.2.collQ).filter (fun e => e.ctx == h)).map (fun e => (p.1, e)))
    ++ s.dies.flatMap (fun d => ((d.2.sbe ++ d.2.builds).filter (fun e => e.ctx == h)).map (fun e => (e.cluster, e)))

/-- A command is a contraction. -/
def isTcon (c : EngCmd) : Bool := match c.ins with | .tcon _ _ => true | _ => false

/-- The array of a cluster gives up a team of the context (R264): a TCON stops between steps, an unstarted TRING starts in no member, the accepted command is
kept, every lease lapses. An accepted TCON that has not begun is the suspended one; a TCON's RING step begins again with the TCON. -/
def stopArray (h c : Nat) (s : State) : State :=
  let x := getTensor s c
  let holderIs (k : Nat) : Bool := s.waves.any (fun w => w.id == k && w.ctx == h)
  let ours (t : Nat) : Bool := s.teams.any (fun y => y.id == t && y.ctx == h)
  let s1 := match x.team.bind (getTeam s) with
    | some t =>
      if t.ctx != h then s
      else
        let arr : ArrayState := { x.arr with tcon := x.arr.tcon.map (fun t => { t with suspended := true }), kept := none }
        let again := x.arr.kept.filter (fun k => !isTcon k)
        let againRing := if x.arr.tcon.any (fun t => !t.suspended) || x.ringCmd.isNone then none else x.ringOf
        updTensor c (fun x => { x with team := none, arr := {}, ringCmd := none, ringOf := none, running := 0 })
          (updTeam t.id (fun t => { t with arr, again, againRing, pool := none })
            { s with agenda := s.agenda.filter (fun e => !arrayEvent c e), stalled := s.stalled.filter (fun e => !arrayEvent c e) })
    | none => s
  let s2 := updTensor c (fun x => { x with reqs := x.reqs.filter (fun k => !ours k.team) }) s1
  match x.holder with
  | some k => if holderIs k then post c .leaseGrant (updTensor c (fun x => { x with holder := none, left := 0, ending := false, lastPos := posOfId s k }) s2) else s2
  | none => s2

/-- Everything of a context that stands in a cluster leaves it. -/
def clearCluster (h c : Nat) (s : State) : State :=
  updCluster c (fun x => { x with
    opens := x.opens.filter (fun o => o.ctx != h)
    offers := x.offers.filter (fun o => o.ctx != h)
    releaseQ := x.releaseQ.filter (fun o => o.ctx != h)
    dispatchQ := x.dispatchQ.filter (fun o => o.ctx != h)
    copyQ := x.copyQ.filter (fun e => e.ctx != h)
    pubQ := x.pubQ.filter (fun e => e.ctx != h)
    collQ := x.collQ.filter (fun e => e.ctx != h) }) (dropShadows c h s)

/-- Everything of a context that stands in a die leaves it, but for its held contributions. -/
def clearDie (h d : Nat) (s : State) : State :=
  let s1 := updDie d (fun x => { x with
    slots := x.slots.filter (fun p => p.2.ctx != h)
    sbe := x.sbe.filter (fun e => e.ctx != h)
    builds := x.builds.filter (fun e => e.ctx != h)
    misses := x.misses.filter (fun m => m.ctx != h) }) s
  (span 0 64).foldl (fun s j => let c := 64 * d + j
    if (getCluster s c).missq.any (fun m => m.ctx == h) then updCluster c (fun x => { x with missq := x.missq.filter (fun m => m.ctx != h) }) s else s) s1

/-! ### Pre-emption (R347) -/

/-- The lane has still to go on before its context is saved (R347): it is in the middle of a chain, or of an operation that runs to completion. -/
def goesOn (l : Lane) : Bool :=
  !l.held && (match l.st with
    | .ready => midway l
    | .waiting .retry => l.opPc == some l.pc
    | .waiting (.status _) => true
    | _ => false)

/-- A wave of the context has not stopped yet. -/
def stillRuns (s : State) (h : Nat) : Bool := s.waves.any (fun w => w.ctx == h && !w.halted && w.lanes.any goesOn)

/-- Decisions in flight for the queues and grids of a context completed (R330); false where one still waits. -/
def finishLaunches (h : Nat) (s : State) : State × Bool :=
  let s := finishAdmits h s
  let mine (s : State) (c : Nat) : Bool := (getCluster s c).qmQ.any (fun x => (getSlot s (c / 64) x.slot).any (fun q => q.ctx == h))
  let cs := (s.clusters.map (·.1)).filter (mine s)
  let s1 := cs.foldl (fun s c => finishDecisions c (((getCluster s c).qmQ.map (fun x => x.left + 1)).sum) s) s
  (s1, !(cs.any (mine s1)))

/-- Accesses of a context to package memory completed (R347): data on its way, and stores that a home holds; false where one still waits. -/
def finishAccesses (h : Nat) (s : State) : State × Bool :=
  let s1 := (s.waves.filter (fun w => w.ctx == h)).foldl (fun s w => replayLog w.id (fun p => p.wait == .data) s) s
  let ids := (s1.waves.filter (fun w => w.ctx == h)).map (·.id)
  let lines := s1.dies.flatMap (fun d => (d.2.held.filter (fun x => x.who.any (fun a => ids.contains a.1))).map (fun x => x.pa / 64))
  let data := s1.waves.any (fun w => w.ctx == h && w.log.any (fun e => e.2.lanes.any (fun p => !p.trapped && p.wait == .data)))
  (askHost lines s1, lines.isEmpty && !data)

/-- The waves an open wave will start as (R310), in the layout of a record: its lanes in the order they joined. -/
def queuedWave (s : State) (o : OpenWave) : Wave :=
  startWave 0 { cart := false, cluster := 0, unit := 0, slot := 0 } o.team none o.ctx o.lr ((span 0 o.lanes.length).map (fun i => (i, nth default o.lanes i)))
    |> fun w => { w with recAddr := o.lr.addr, id := s.nextId }
def queuedThread (s : State) (o : CartStart) : Wave :=
  { startWave s.nextId { cart := true, cluster := 0, unit := 0, slot := 0 } o.team none o.ctx o.lr [(0, o.start)] with recAddr := o.lr.addr }

/-- The context's state collected and written to its area (R348 to R353), each team's record with the subscriptions and the bindings of its cluster (R285, R350);
everything of it leaves the package's units. -/
def saveCtx (h : Nat) (s : State) : State :=
  let cs := ctxClusters s h
  let s3 := cs.foldl (fun s c => stopArray h c s) s
  let waves := (s3.waves.filter (fun w => w.ctx == h)).map savedWave
  let teams := (s3.teams.filter (fun t => t.ctx == h && !t.retired)).map (fun t => { t with pool := none })
  let at_ (c : Nat) : Cluster := getCluster s3 c
  let shadows := cs.flatMap (fun c => ((at_ c).shadows.filter (fun x => x.ctx == h)).map (fun x => (c, x)))
  let tag := (getCtx s3 h).ctxid
  let tex := cs.map (fun c => (c, (at_ c).tex.map (fun x => if x.tag == tag then x else {})))
  let opens := cs.flatMap (fun c => (((at_ c).releaseQ ++ (at_ c).opens).filter (fun o => o.ctx == h)).map (fun o => (c, o)))
  let dispatch := cs.flatMap (fun c => ((at_ c).dispatchQ.filter (fun o => o.ctx == h)).map (fun o => (c, o)))
  let engines := ctxEngines s3 h
  let x := getCtx s3 h
  let saved : Saved := { teams, waves, opens, dispatch, engines, shadows, tex, pinned := x.saved.pinned }
  let base := (fld x.csa 12 36).toNat * 4096
  let recs := teams.map (fun t =>
    let ms := ((waves.filter (fun w => w.team == t.id)).map (fun w => (w, false)))
      ++ ((opens.filter (fun o => o.2.team == t.id)).map (fun o => (queuedWave s3 o.2, true)))
      ++ ((dispatch.filter (fun o => o.2.team == t.id)).map (fun o => (queuedThread s3 o.2, true)))
    padTo 4096 (teamBytes t ((shadows.filter (fun p => p.1 == t.cluster)).map (·.2)) (aget [] tex t.cluster) ms))
  let engs := padTo 4096 (engines.flatMap (fun e => engineBytes s3 e.2))
  let body := engs ++ recs.flatten
  let s4 := physWrite base (areaHeader x teams.length engines.length (4096 + body.length) ++ body) s3
  let s5 := cs.foldl (fun s c => clearCluster h c s) s4
  let s6 := (span 0 4).foldl (fun s d => clearDie h d s) s5
  let s7 := { s6 with
    waves := s6.waves.filter (fun w => w.ctx != h)
    teams := s6.teams.filter (fun t => t.ctx != h)
    remote := s6.remote.filter (fun r => r.ctx != h || r.agent.isNone)
    answers := s6.answers.filter (fun a => match a.agent with | .part k _ _ => !(waves.any (fun w => w.id == k)) | _ => true)
    chain := none }
  chrono 0 65 3 base (updCtx h (fun x => { x with stat := .saved, saved }) s7)

/-- One step of a pre-emption after another, as far as each is done. -/
def andDone (f : State → State × Bool) (r : State × Bool) : State × Bool := if r.2 then f r.1 else r

/-- Pre-emption of a context (R114, R330, R347): chains and the operations that run to completion end; decisions in flight complete; its queues are unmapped; its
accesses to package memory complete, and every die's dirty bytes go home, as FENCE.full at .pkg has them; then it is saved. False where one of these waits: the
context is stopping already. -/
def preemptStep (h : Nat) (s : State) : State × Bool :=
  let r := andDone (devRelease (span 0 4)) (andDone (finishAccesses h) (andDone (giveUpSlots h) (andDone (finishLaunches h) (s, !stillRuns s h))))
  if r.2 then (saveCtx h r.1, true) else r

/-- The same in the name of an event, the context stopping from now on. -/
def preemptCtx (site : Nat) (e : Instr) (h : Nat) (s : State) : State × Bool :=
  attemptAs (.event site e) (preemptStep h) (updCtx h (fun x => { x with stat := .preempting, asked := if x.stat == .preempting then x.asked else s.clock }) s)

/-- A pre-emption is refused (R363). -/
def preemptRefused (s : State) (h : Nat) : Bool := !bit (getCtx s h).csa 0 || !hasWork s h || (getCtx s h).stat != .live

/-- PCTL_PREEMPT (R347, R363). While the pre-emption waits, the event is tried again with the context already stopping. -/
def execPctlPreempt (value : BitVec 64) (s : State) : Out :=
  let go (h : Nat) (s : State) : State :=
    let r := preemptCtx 1 (.pctlPreempt value) h s
    if r.2 then post 0 .pctlDone r.1 else stall 1 (.pctlPreempt value) r.1
  .next (if s.site = 1 && pctlBusy s
    then (match ctxByPair s (fld value 16 12).toNat (fld value 0 16).toNat with
      | some h => if (getCtx s h).stat == .preempting then go h s else s
      | none => s)
    else pctlWrite 1 value (fun h s =>
      if preemptRefused s h then pctlEnd true s else go h s) s)

/-! ### Killing (R330, R342, R363) -/

/-- Every unit of a context stopped, and what it worked on discarded, decrements on their way included (R10, R330). -/
def haltUnits (h : Nat) (s : State) : State :=
  let cs := ctxClusters s h
  let s1 := cs.foldl (fun s c => clearCluster h c (stopArray h c s)) (dropWork h s)
  (span 0 4).foldl (fun s d => updDie d (fun x => { x with
    shares := x.shares.filter (fun p => !(s.grids.any (fun g => g.id == p.2.grid && g.ctx == h)))
    copies := x.copies.filter (fun c => c.ctx != h) }) (clearDie h d s)) s1

/-- A context killed: its units stopped, and everything of it gone (R330). -/
def killCtx (h : Nat) (s : State) : State :=
  let s1 := haltUnits h s
  let s2 := (span 0 4).foldl (fun s d => updDie d (fun x => { x with buf := x.buf.filter (fun c => c.ctx != h) }) s) s1
  updCtx h (fun x => { x with stat := .killed, saved := {}, appends := [] }) { s2 with
    waves := s2.waves.filter (fun w => w.ctx != h)
    teams := s2.teams.filter (fun t => t.ctx != h)
    grids := s2.grids.filter (fun g => g.ctx != h)
    remote := s2.remote.filter (fun r => r.ctx != h || r.log.isNone)
    posts := s2.posts.filter (fun p => p.ctx != h)
    replays := s2.replays.filter (fun r => r.ctx != h)
    hands := s2.hands.filter (fun x => x.cmd.ctx != h)
    chain := none }

/-- PCTL_KILL (R330, R363). -/
def execPctlKill (value : BitVec 64) (s : State) : Out := .next (pctlWrite 3 value (fun h s => post 0 .pctlDone (killCtx h s)) s)

/-! ### Resume (R348) -/

/-- The order in which clusters are tried: the one saved from, then its die ascending and wrapping, then the other dies ascending and wrapping. -/
def resumeOrder (c : Nat) : List Nat :=
  (span 0 4).flatMap (fun i => let d := (c / 64 + i) % 4; if i = 0 then (span 0 64).map (fun k => 64 * d + (c + k) % 64) else (span 0 64).map (fun k => 64 * d + k))

/-- A place for one wave or thread on a cluster; members of a carriage team share the carriage given. -/
def seatOf (s : State) (c : Nat) (carriage : Option Nat) (w : Wave) : Option Seat :=
  if w.cart then (freeThreads s c).head?.map (fun p => { cart := true, cluster := c, unit := p.1, slot := p.2 })
  else
    let us := (match carriage with | some u => if w.member.isSome then [u] else span 0 4 | none => span 0 4).filter (fun u =>
      !(waveSlots s c u).isEmpty && decide (regsUsed s c u + w.regs ≤ 512))
    match us with
    | [] => none
    | u :: _ => (waveSlots s c u).head?.map (fun k => { cart := false, cluster := c, unit := u, slot := k })

/-- Saved waves placed on a cluster one after another. -/
def seatAll (c : Nat) (carriage : Option Nat) : List Wave → State → Option State
  | [], s => some s
  | w :: ws, s =>
    match seatOf s c carriage w with
    | none => none
    | some at_ => seatAll c carriage ws { s with waves := s.waves ++ [{ w with cluster := c, unit := at_.unit, slot := at_.slot }] }

/-- A saved team placed whole on a cluster, if it can be. -/
def seatTeam (t : Team) (ws : List Wave) (c : Nat) (s : State) : Option State :=
  if !lmFits s c t.lm then none
  else
    let s1 := updCluster c (fun x => { x with texc := [] }) { s with teams := s.teams ++ [{ t with cluster := c }] }
    if t.cart || !(ws.any (fun w => w.member.isSome && !w.cart)) then seatAll c none ws s1
    else (span 0 4).findSome? (fun u => seatAll c (some u) ws s1)

/-- The teams of a unit, each with its cluster, placed as one. -/
def seatUnit (ws : List Wave) (ps : List (Team × Nat)) (s : State) : Option State :=
  ps.foldl (fun acc p => acc.bind (fun s => seatTeam p.1 (ws.filter (fun w => w.team == p.1.id)) p.2 s)) (some s)

/-- The cluster that a unit starts from: its team's; for a gang, that of rank 0 in the rectangle it was saved from. -/
def unitBase (t : Team) : Nat := if t.gang.isSome then t.cluster - (t.rank % t.gw + 8 * (t.rank / t.gw)) else t.cluster

/-- Where a unit can go, in the order of R348: each team with its cluster, a member of a gang on that of its rank. -/
def placeUnit (ts : List Team) (ws : List Wave) (s : State) : Option (List (Team × Nat)) :=
  match ts with
  | [] => none
  | t :: _ =>
    (resumeOrder (unitBase t)).findSome? (fun c =>
      match if t.gang.isSome then rectangle c t.gw t.gh else some [c] with
      | none => none
      | some cs =>
        let ps := ts.map (fun t => (t, nth c cs (if t.gang.isSome then t.rank else 0)))
        (seatUnit ws ps s).map (fun _ => ps))

/-- The first address of n pieces of k bytes that cannot be read. -/
def firstBad (h c : Nat) (mode : Bool) (k : Nat) : Nat → W64 → State → W64
  | 0, va, _ => va
  | n + 1, va, s => match (devRead h c mode va k s).2 with | .fail _ => va | _ => firstBad h c mode k n (va + BitVec.ofNat 64 k) s

/-- A binding to be made again: its cluster, its slot, and what the slot is to hold; where its table cannot be read, the cause and the address for the message
of R388. -/
structure Rebound where
  cluster : Nat
  slot : Nat
  tex : TexSlot
  failed : Option (Nat × W64) := none
deriving DecidableEq, Repr, Inhabited

/-- The table of a saved binding read again (R285, R348): the slot as it is to be, or left unbound and lost. None where the read waits. -/
def readTable (h : Nat) (b : Rebound) (s : State) : State × Option Rebound :=
  let x := b.tex
  let r := devReads h b.cluster x.h 64 18 x.addr s
  let tag := (getCtx s h).ctxid
  let lost : TexSlot := { x with bound := false, lost := true, tag }
  (r.1, match r.2 with
    | .wait => none
    | .fail e => some { b with tex := lost, failed := some (e, firstBad h b.cluster x.h 64 18 x.addr s) }
    | .done bs => some { b with tex := if tableOk bs then { x with lost := false, table := bs, tag } else lost })

/-- The tables read one after another; none where a read waits, whose requests stand. -/
def readTables (h : Nat) : List Rebound → State → State × Option (List Rebound)
  | [], s => (s, some [])
  | b :: bs, s =>
    let r := readTable h b s
    match r.2 with
    | none => (r.1, none)
    | some x => let q := readTables h bs r.1; (q.1, q.2.map (x :: ·))

/-- A binding put into its slot. -/
def putBinding (h : Nat) (b : Rebound) (s : State) : State :=
  let s1 := updCluster b.cluster (fun z => { z with tex := setNth b.tex z.tex b.slot }) s
  match b.failed with
  | some (e, va) => devFailMsg h b.cluster e va s1
  | none => s1

/-- Subscriptions of a record granted again, with their counts (R348). -/
def regrant (h c : Nat) (subs : List Shadow) (s : State) : State :=
  subs.foldl (fun s x =>
    if (shadowAt s c h x.region).isSome then s
    else
      let r := homeSubscribe c h x.region x.fmt x.inv s
      if r.2 = 0 then updCluster c (fun y => { y with shadows := y.shadows.map (fun z => if z.ctx == h && z.region == x.region then { z with count := x.count } else z) }) r.1
      else r.1) s

/-- A command of a resumed context, on its new cluster and from its issuer's new position. -/
def rehome (s : State) (c : Nat) (e : EngCmd) : EngCmd := { e with cluster := c, pos := posOfId s e.wave }

/-- An engine command issued again, on a cluster. -/
def reissue (c : Nat) (e : EngCmd) (s : State) : State :=
  let e := rehome s c e
  match e.ins with
  | .pub _ _ => post c .publishDone (updCluster c (fun x => { x with pubQ := x.pubQ ++ [e] }) s)
  | .coll _ _ => post c .collectiveDone (updCluster c (fun x => { x with collQ := x.collQ ++ [e] }) s)
  | .bld _ _ =>
    if bit s.regs.funcmode 1 then addBuild (c / 64) e s
    else post (c / 64) .sbeCommandDone (updDie (c / 64) (fun d => { d with sbe := d.sbe ++ [e] }) s)
  | _ => post c .copyEngineDone (updCluster c (fun x => { x with copyQ := x.copyQ ++ [e] }) s)

/-- A resumed team's contraction and kept command, on its new cluster. -/
def rehomeTeam (s : State) (c : Nat) (t : Team) : Team :=
  { t with arr := { t.arr with tcon := t.arr.tcon.map (fun x => { x with cmd := rehome s c x.cmd }) }, again := t.again.map (rehome s c), againRing := t.againRing.map (rehome s c) }

/-- Requests for the array that a resumed team needs: for its TCON, in the issuer's name, and for what had not begun; and those that its waves had made (R240, R264). -/
def askArray (t : Team) (c : Nat) (s : State) : State :=
  let issuer := (t.arr.tcon.map (fun x => x.cmd.wave)).or (t.again.map (·.wave))
  let present (k : Nat) : Bool := s.waves.any (fun w => w.id == k)
  let some_ := (s.waves.find? (fun w => w.team == t.id)).map (·.id)
  let pick := match issuer with
    | some k => if present k then some k else some_
    | none => if t.againRing.isSome then some_ else none
  let ask (kind : ReqKind) (s : State) (k : Nat) : State := putReq c { wave := k, team := t.id, pos := posOfId s k, kind } s
  let s1 := match pick with | none => s | some k => ask .tcon s k
  ((s.waves.filter (fun w => w.team == t.id && w.lease == .requesting)).map (·.id)).foldl (ask .lease) s1

/-- What comes with a team's record to its cluster: shadows, engine commands, queued waves and threads, array requests; accesses wait to be replayed. Queued waves
and threads go behind those of the cluster's release and dispatch queues, past 16 and 64 entries too: DESIGN CHOICE (log 72). -/
def bringTeam (h : Nat) (v : Saved) (t : Team) (c : Nat) (s : State) : State :=
  let s1 := updTeam t.id (rehomeTeam s c) (regrant h c ((v.shadows.filter (fun p => p.1 == t.cluster)).map (·.2)) s)
  let s2 := (v.engines.filter (fun p => p.2.team == t.id)).foldl (fun s p => reissue c p.2 s) s1
  let s3 := updCluster c (fun x => { x with
    releaseQ := x.releaseQ ++ (v.opens.filter (fun o => o.2.team == t.id)).map (·.2)
    dispatchQ := x.dispatchQ ++ (v.dispatch.filter (fun o => o.2.team == t.id)).map (·.2) }) s2
  let s4 := askArray t c s3
  (s4.waves.filter (fun w => w.team == t.id && !w.log.isEmpty)).foldl (fun s w => post w.id .logReplay (failWave w.id (deniedPart s) s)) s4

/-- The saved bindings of a unit's teams, each for its team's new cluster (R285). -/
def unitBindings (v : Saved) (ps : List (Team × Nat)) : List Rebound :=
  ps.flatMap (fun p => (span 0 8).filterMap (fun k =>
    let x := nth {} (aget [] v.tex p.1.cluster) k
    if x.bound then some { cluster := p.2, slot := k, tex := x } else none))

/-- The units still to be placed: a gang's teams by rank, or a team alone. -/
def unitsOf : List Team → List (List Team)
  | [] => []
  | t :: r =>
    match t.gang with
    | none => [t] :: unitsOf r
    | some g => if r.any (fun x => x.gang == some g) then (unitsOf r).map (fun u => if u.any (fun x => x.gang == some g) then sortBy (·.rank) (t :: u) else u)
        else [t] :: unitsOf r

/-- One unit placed, if a cluster can take it and its tables have been read; else what the reads have asked for. -/
def placeOne (h : Nat) (v : Saved) (ts : List Team) (s : State) : State :=
  match placeUnit ts v.waves s with
  | none => s
  | some ps =>
    let r := readTables h (unitBindings v ps) s
    match r.2, seatUnit v.waves ps r.1 with
    | some bs, some s1 =>
      let ids := ts.map (·.id)
      let s3 := ps.foldl (fun s p => bringTeam h v p.1 p.2 s) (bs.foldl (fun s b => putBinding h b s) s1)
      updCtx h (fun x => { x with saved := { x.saved with
        teams := x.saved.teams.filter (fun t => !ids.contains t.id)
        waves := x.saved.waves.filter (fun w => !ids.contains w.team)
        opens := x.saved.opens.filter (fun o => !ids.contains o.2.team)
        dispatch := x.saved.dispatch.filter (fun o => !ids.contains o.2.team)
        engines := x.saved.engines.filter (fun e => !ids.contains e.2.team) } }) s3
    | _, _ => r.1

/-- A pinned queue no longer waits for a slot: lanes, teams and grids name the slot it has, if any. -/
def settlePinned (h : Nat) (p : Nat × Nat × QSlot) (new : Option (Nat × Nat)) (s : State) : State :=
  renameQ h (p.1, p.2.1) new
    (updCtx h (fun x => { x with saved := { x.saved with pinned := x.saved.pinned.filter (fun q => !(q.1 == p.1 && q.2.1 == p.2.1)) } }) s)

/-- A pinned queue mapped and pinned again (R330), or waiting for a slot or a share; where it has been mapped meanwhile, its slot is pinned.
One whose descriptor can no longer be mapped is given up, with the message of R388: DESIGN CHOICE (log 69). -/
def remapPinned (h : Nat) (p : Nat × Nat × QSlot) (s : State) : State :=
  let r := resolveQueue (.device h (64 * p.1)) p.2.2.desc s
  match r.2 with
  | .done (.ok d k) =>
    let s1 := settlePinned h p (some (d, k)) r.1
    let ts := (s1.teams.filter (fun t => t.ctx == h && t.queue == some (d, k))).map (fun t => (t.cluster, t.id))
    updSlot d k (fun q => { q with pinned := true, teams := ts }) s1
  | .done .bad => settlePinned h p none (devFailMsg h (64 * p.1) cPROT p.2.2.desc r.1)
  | .trap t => settlePinned h p none (devFailMsg h (64 * p.1) t.code t.tval r.1)
  | _ => r.1

/-- TEAM_RESUME_PLACE (R348, R330), for the context it acts at: every unit that a cluster can take is placed; once all are, the context's remaining engine
commands are issued again, its pinned queues are mapped as slots free, and the operation ends. -/
def execTeamResumePlace (s : State) : Out :=
  let h := s.site
  .next (
    if (getCtx s h).stat == .resuming then
      let v := (getCtx s h).saved
      let s1 := (unitsOf v.teams).foldl (fun s ts => placeOne h v ts s) s
      let x := (getCtx s1 h).saved
      if !x.teams.isEmpty then stallOnce h .teamResumePlace s1
      else
        let s2 := x.engines.foldl (fun s e => reissue e.1 e.2 s) s1
        let s3 := x.pinned.foldl (fun s p => remapPinned h p s) s2
        let s4 := updCtx h (fun y => { y with stat := .live, saved := { pinned := y.saved.pinned } }) s3
        let s5 := if (getCtx s4 h).saved.pinned.isEmpty then s4 else stallOnce h .teamResumePlace s4
        (span 0 4).foldl (fun s d => post d .qmDecision s) (if pctlBusy s5 then post 0 .pctlDone s5 else s5)
    else if (getCtx s h).stat == .live then
      let s1 := (getCtx s h).saved.pinned.foldl (fun s p => remapPinned h p s) s
      if (getCtx s1 h).saved.pinned.isEmpty then s1 else stallOnce h .teamResumePlace s1
    else s)

/-- A saved context starts to come back. -/
def resumeCtx (h : Nat) (s : State) : State := post h .teamResumePlace (updCtx h (fun x => { x with stat := .resuming }) s)

/-- PCTL_RESUME (R348, R363). -/
def execPctlResume (value : BitVec 64) (s : State) : Out :=
  .next (pctlWrite 2 value (fun h s => if (getCtx s h).stat == .saved then resumeCtx h s else pctlEnd true s) s)

end Sys2Proof.Machine
end

