-- ==== Sys2Proof/Machine/Home.lean ====
section
/-! DEFINITION. Events at the home of a line and in the caches around it (R51 to R65), accesses of the host and of peers (R63, R64), poison and machine checks
(R65, R372), and the miss table of a die (R28). -/

namespace Sys2Proof.Machine

/-- The host reaches the byte through its link: HBM, and the second tier where the configuration record exports it (R359, R374). -/
def hostSees (s : State) (pa : Nat) : Bool := inPackage s pa && (inHbm pa || s.boot.exported)

/-- HOME_LOAD_MISS (R52, R60): a miss reaches the home, which notes the holder and sends the line. Which L1 of the cluster asked the event leaves open. -/
def execHomeLoadMiss (from_ : Requester) (line : Nat) (s : State) : Out :=
  let far (d : Nat) : Bool := homeDie (line * 64) != d || decide (2 ^ 47 ≤ line * 64)
  .next (if !exists_ s (line * 64) then s
    else match from_ with
    | .cluster c =>
      if (getCluster s c).failed || (far (c / 64) && (getDie s (c / 64)).rdcFenced) then s
      else openFill c ((Config.value s.free).toNat % 5) (far (c / 64)) false line { s with free := s.free + 1 }
    | .rdc d => if (getDie s d).rdcFenced || !far d then s else openFill (64 * d) 5 true false line s
    | .host =>
      if s.regs.hostFenced || !hostSees s (line * 64) then s
      else updDir (line / 8) (fun e => { e with host := true }) (pullLine line (answerHeld line (makeRoom (line / 8) s))))

/-- FILL_RETURN (R60): the oldest outstanding fill of a line of a die. -/
def execFillReturn (die line : Nat) (s : State) : Out :=
  let fs := (getDie s die).fills
  .next (match fs.find? (fun f => f.line == line) with
    | none => s
    | some f => installFill die f (updDie die (fun d => { d with fills := fs.erase f }) s))

/-- A store at the home of its line (R52, R63): where the host may hold the line, it is held until the host answers. -/
def homeStoreHold (cluster pa : Nat) (bytes : List Byte) (s : State) : State :=
  let line := pa / 64
  let s1 := answerHeld line (makeRoom (line / 8) s)
  if asksHost s1 line then
    post line .backInvalidationAnswer (updDie (homeDie pa) (fun d => { d with held := d.held ++ [{ cluster, pa, bytes }] }) s1)
  else homeStoreBytes (.cluster cluster 5) true pa bytes s1

/-- HOME_STORE (R52, R63). -/
def execHomeStore (cluster pa : Nat) (bytes : List Byte) (s : State) : Out := .next (if !exists_ s pa then s else homeStoreHold cluster pa bytes s)

/-- Lines that n bytes lie in. -/
def linesIn (pa n : Nat) : List Nat := (linePieces pa n).map (fun p => p.1 / 64)

/-- An access of a peer performed at the home (R64, R368): uncached; one to reserved or unpopulated memory is refused without effect. -/
def peerDo (q : PeerReq) (s : State) : State :=
  if !inPackage s q.pa then s
  else match q.op with
    | .read n => (linesIn q.pa n).foldl (fun s l => pullLine l (answerHeld l (makeRoom (l / 8) s))) s
    | .write bs => (linePieces q.pa bs.length).foldl (fun s p => homeStoreBytes .other true p.1 ((bs.drop (p.1 - q.pa)).take p.2) s) s
    | .atomic wide op x y =>
      let n := if wide then 8 else 4
      (homeAtomicOp (homeDie q.pa) q.pa n (fun old => atomicNew op.toNat n old (x.toNat % 2 ^ (8 * n)) (y.toNat % 2 ^ (8 * n))) s).1

/-- Accesses of peers performed at a die: those of one source port in the order they arrived, so that none passes one of its port that waits for the host's answer
(R63, R64); with those kept. -/
def peerRun (d : Nat) : List PeerReq → List PeerReq → State → State
  | [], kept, s => updDie d (fun x => { x with peerQ := kept }) s
  | q :: qs, kept, s =>
    if kept.any (fun x => x.port == q.port) then peerRun d qs (kept ++ [q]) s
    else
      let r := attemptAs (.event d (.peerAccess q)) (fun s => (peerDo q s, true)) s
      peerRun d qs (if r.2 then kept else kept ++ [q]) r.1

/-- What has arrived at a die from peers is performed, as far as it can be. -/
def peerPump (d : Nat) (s : State) : State := if (getDie s d).peerQ.isEmpty then s else peerRun d (getDie s d).peerQ [] s

/-- BACK_INVALIDATION_ANSWER (R52, R63), for the line it acts at: the host holds no copy of the line's region any more, and the held stores and the accesses of
peers are performed. -/
def execBackInvalidationAnswer (s : State) : Out :=
  let s1 := updDir (s.site / 8) (fun e => { e with host := false }) s
  .next (peerPump (homeDie (s.site * 64)) (answerHeld s.site s1))

/-- An event at the home of a line that writes it: after the host's answer, where the host may hold the line (R63). -/
def afterHost (line : Nat) (e : Instr) (f : State → State) (s : State) : State :=
  if asksHost s line then post s.site e (post line .backInvalidationAnswer s) else f s

/-- HOME_ATOMIC (R57, R61, R217). -/
def execHomeAtomic (die pa : Nat) (wide : Bool) (op : BitVec 4) (x y : BitVec 64) (s : State) : Out :=
  let n := if wide then 8 else 4
  .next (if !exists_ s pa then s
    else afterHost (pa / 64) (.homeAtomic die pa wide op x y)
      (fun s => (homeAtomicOp die pa n (fun old => atomicNew op.toNat n old (x.toNat % 2 ^ (8 * n)) (y.toNat % 2 ^ (8 * n))) s).1) s)

/-- A die's dirty bytes of a line go home (R46, R52), where there are any. -/
def rdcWriteback (die line : Nat) (e : Instr) (s : State) : State :=
  if (rdcGet s die line).mask = 0 then s else afterHost line e (fun s => writebackAfter die line (makeRoom (line / 8) s)) s

/-- HOME_WRITEBACK (R46, R56, R58). -/
def execHomeWriteback (die line : Nat) (s : State) : Out := .next (rdcWriteback die line (.homeWriteback die line) s)

/-- DIRTY_NOTICE (R52, R56): a die that holds a dirty byte of the region is noted at the home. -/
def execDirtyNotice (die region : Nat) (s : State) : Out :=
  .next (if (getDie s die).rdc.any (fun p => p.1 / 8 == region && p.2.mask != 0)
    then updDir region (fun e => { e with rdcp := setBit e.rdcp die true, rdcd := setBit e.rdcd die true }) (makeRoom region s) else s)

/-- CLUSTER_PROBE (R52, R54, R55). -/
def execClusterProbe (cluster region : Nat) (mask : BitVec 8) (storer : Option Nat) (s : State) : Out :=
  .next (probeCluster region mask (fun _ => storer.getD 5) cluster s)

/-- RDC_INVALIDATE (R56). -/
def execRdcInvalidate (die line : Nat) (s : State) : Out := .next (rdcInvalidate die line (fun _ => 5) s)

/-- RDC_PULL (R47, R58): one die's dirty bytes of a line pulled to the home. -/
def execRdcPull (die line : Nat) (s : State) : Out := .next (rdcWriteback die line (.rdcPull die line) s)

/-- RDC_DRAIN_TIMER (R46 item 2). -/
def execRdcDrainTimer (die line : Nat) (s : State) : Out := .next (rdcWriteback die line (.rdcDrainTimer die line) s)

/-- ATOMO_ACCEPT (R219): a contribution reaches its ordered buffer; one that finds no room is not accepted. -/
def execAtomoAccept (ctx pa : Nat) (key value : BitVec 32) (s : State) : Out := .next (acceptAtomo ctx pa key value s).1

/-! ### The host and peers (R63, R64) -/

/-- HOST_MEM_READ (R52, R63): every line's home value after every pull, which leaves the package; the host may then hold a copy. -/
def execHostMemRead (pa size : Nat) (s : State) : Out :=
  .next (if s.regs.stage < 6 || s.regs.hostFenced || !hostSees s pa then s
    else (linesIn pa size).foldl (fun s l => updDir (l / 8) (fun e => { e with host := true }) (pullLine l (answerHeld l (makeRoom (l / 8) s)))) s)

/-- A write by the host that may cross lines, performed as device stores; the copies that the host itself holds are its own affair. -/
def hostWrite (pa : Nat) (bs : List Byte) (s : State) : State :=
  (linePieces pa bs.length).foldl (fun s p => homeStoreBytes .host true p.1 ((bs.drop (p.1 - pa)).take p.2) s) s

/-- HOST_MEM_WRITE (R52, R63). -/
def execHostMemWrite (pa : Nat) (bytes : List Byte) (s : State) : Out :=
  .next (if s.regs.stage < 6 || s.regs.hostFenced || !hostSees s pa then s else hostWrite pa bytes s)

/-- PEER_ACCESS (R64): an access of another package arrives at the home die of its address. -/
def execPeerAccess (req : PeerReq) (s : State) : Out :=
  let d := homeDie req.pa
  .next (peerPump d (updDie d (fun x => { x with peerQ := x.peerQ ++ [req] }) s))

/-! ### Errors (R65, R372) -/

/-- An event of the error log (R360, R372): recorded, and for kinds 1 to 4 a machine check with vector 1 and its trace event. -/
def logError (d kind unit addr : Nat) (s : State) : State :=
  let s1 := updDie d (fun x => { x with regs := { x.regs with
    errlog := BitVec.ofNat 64 (2 ^ 63 + kind % 8 * 2 ^ 60 + unit % 16 * 2 ^ 56 + addr % 2 ^ 52)
    mchk := x.regs.mchk || kind != 0 } }) s
  if kind = 0 then s1 else chrono d 65 9 (addr % 2 ^ 48) { s1 with msix := (8 * d + 1) :: s1.msix }

/-- CORRECTED_ERROR (R372, kind 0). -/
def execCorrectedError (die : Nat) (unit : BitVec 4) (addr : BitVec 52) (s : State) : Out := .next (logError die 0 unit.toNat addr.toNat s)

/-- UNCORRECTABLE_ERROR (R372, kind 1), for the line it acts at: the line is poisoned at its home. -/
def execUncorrectableError (s : State) : Out :=
  let line := s.site
  .next (logError (homeDie (line * 64)) 1 0 (line * 64)
    (if s.poison.contains line then s else { s with poison := sortBy id (line :: s.poison) }))

/-- Poison the lines of a list. -/
def poisonLines (ls : List Nat) (s : State) : State := { s with poison := sortBy id (s.poison ++ ls.filter (fun l => !s.poison.contains l)) }

/-- Contexts with work on a cluster. -/
def ctxsOn (s : State) (c : Nat) : List Nat :=
  ((s.waves.filter (fun w => w.cluster == c)).map (·.ctx) ++ (s.teams.filter (fun t => t.cluster == c && !t.retired)).map (·.ctx)).eraseDups

/-- A context stopped, unsaved: its waves issue nothing more and no unit works for it until it is killed (R372). -/
def stopCtx (ctx : Nat) (s : State) : State :=
  let s1 := haltUnits ctx s
  updCtx ctx (fun x => { x with stat := .stopped }) { s1 with waves := s1.waves.map (fun w => if w.ctx == ctx then { w with halted := true } else w) }

/-- Directory entries of every die changed; those that name no one go. -/
def mapDirs (f : Nat → DirEntry → DirEntry) (s : State) : State :=
  (span 0 4).foldl (fun s d => updDie d (fun x => { x with dir := (x.dir.map (fun p => (p.1, f d p.2))).filter (fun p => !dirFree p.2) }) s) s

/-- A cluster is fenced off (R65, R372): its copies count as gone and its outstanding fills are not installed, those of remote lines in its die's remote-data cache
alone. -/
def fenceCluster (c : Nat) (s : State) : State :=
  let s1 := updDie (c / 64) (fun x => { x with
    fills := x.fills.map (fun f => if f.cluster == c then (if f.forRdc then { f with unit := 5 } else { f with invalidated := true }) else f)
    rdcVec := (x.rdcVec.map (fun p => (p.1, setBit p.2 (c % 64) false))).filter (fun p => p.2 != 0) })
    (updCluster c (fun x => { x with failed := true, filter := [] }) s)
  mapDirs (fun d e => if d = c / 64 then { e with cl := setBit e.cl (c % 64) false } else e) s1

/-- A remote-data cache is fenced off (R65, R372): its lines, and the copies of remote lines in its die's L1s, count as gone; those with dirty bytes are poisoned. -/
def fenceRdc (d : Nat) (s : State) : State :=
  let dirty := ((getDie s d).rdc.filter (fun p => p.2.mask != 0)).map (·.1)
  let s1 := updDie d (fun x => { x with
    rdc := [], rdcVec := [], rdcFenced := true, fills := x.fills.map (fun f => if f.forRdc then { f with invalidated := true } else f) }) s
  let s2 := (span 0 64).foldl (fun s j =>
    if (getCluster s (64 * d + j)).filter.isEmpty then s
    else updCluster (64 * d + j) (fun x => { x with filter := x.filter.filter (fun p => homeDie (p.1 * 64) == d && decide (p.1 * 64 < 2 ^ 47)) }) s) s1
  poisonLines dirty (mapDirs (fun _ e => { e with rdcp := setBit e.rdcp d false, rdcd := setBit e.rdcd d false }) s2)

/-- PROBE_TIMEOUT (R65, R372 kind 2): the holder is fenced off, its copies are gone, lines whose dirty bytes it held are poisoned, and the access completes. What
ERRLOG[59:56] holds for a remote-data cache (its die) and for the host (8), and that the home's die logs it, is the model's choice (log 66). -/
def execProbeTimeout (holder : Requester) (line : Nat) (s : State) : Out :=
  let h := homeDie (line * 64)
  let s1 := logError h 2 (match holder with | .cluster c => c / 8 % 8 | .rdc d => d | .host => 8) (line * 64) s
  .next (match holder with
    | .cluster c => answerHeld line ((ctxsOn s1 c).foldl (fun s k => stopCtx k s) (fenceCluster c s1))
    | .rdc d => answerHeld line (fenceRdc d s1)
    | .host =>
      let s2 := mapDirs (fun _ e => { e with host := false }) { s1 with regs := { s1.regs with hostFenced := true } }
      (span 0 4).foldl (fun s d => peerPump d ((getDie s d).held.foldl (fun s x => answerHeld (x.pa / 64) s) s)) s2)

/-! ### The miss tables and the walkers (R25 to R29) -/

/-- The first of the die's clusters after one, wrapping, for which a test holds. -/
def nextCluster (d last : Nat) (p : Nat → Bool) : Option Nat := ((span 1 64).map (fun i => (last + i) % 64)).find? (fun j => p (64 * d + j))

/-- Misses admitted to the die miss table of 1024, one of a cluster at a time in rotation (R29 item 4); one for a granule that is there joins it. -/
def admitMisses (d : Nat) : Nat → State → State
  | 0, s => s
  | n + 1, s =>
    if 1024 ≤ (getDie s d).misses.length then s
    else match nextCluster d (getDie s d).lastAdmit (fun c => !(getCluster s c).missq.isEmpty) with
      | none => s
      | some j =>
        let c := 64 * d + j
        match (getCluster s c).missq with
        | [] => s
        | m :: rest =>
          let s1 := updCluster c (fun x => { x with missq := rest }) s
          let same (x : Miss) : Bool := x.ctx == m.ctx && x.granule == m.granule
          admitMisses d n (updDie d (fun x => { x with
            lastAdmit := j
            misses := if x.misses.any same then x.misses.map (fun y => if same y then joinWaits m.waits y else y) else x.misses ++ [m] }) s1)

/-- Free walkers, of 64, take misses in order of arrival, round-robin over clusters (R28). -/
def startWalks (d : Nat) : Nat → State → State
  | 0, s => s
  | n + 1, s =>
    let ms := (getDie s d).misses
    if 64 ≤ (ms.filter (·.walking)).length then s
    else match nextCluster d (getDie s d).lastWalk (fun c => ms.any (fun m => !m.walking && m.cluster == c)) with
      | none => s
      | some j =>
        match ms.find? (fun m => !m.walking && m.cluster == 64 * d + j) with
        | none => s
        | some m => startWalks d n (updDie d (fun x => { x with lastWalk := j, misses := x.misses.map (fun y => if y == m then { y with walking := true } else y) }) s)

/-- PAGE_WALK (R25, R28, R29), for the die it acts at: misses are admitted, and free walkers take them. -/
def execPageWalk (s : State) : Out :=
  let d := s.site
  let n := ((span 0 64).map (fun j => (getCluster s (64 * d + j)).missq.length)).sum
  let s1 := startWalks d 64 (admitMisses d n s)
  .next (if (getDie s1 d).misses.any (·.walking) then post d .walkComplete s1 else s1)

/-- The walk of a granule has ended for those who waited for it: they go on (log 61). -/
def noteWalked (m : Miss) (s : State) : State :=
  let ms := m.waits.map (fun x => (x.2, m.ctx, m.granule))
  { s with walked := s.walked.filter (fun x => !ms.contains x) ++ ms }

/-- The leaf that a walk left in a cluster's TLB put into another's, for a miss that joined it. -/
def shareLeaf (q : XReq) (c : Nat) (s : State) : State :=
  match tlbHit q s with
  | some e => if c = q.cluster then s else updCluster c (fun x => { x with tlb := tlbPut e x.tlb }) s
  | none => s

/-- The misses that a walk of m ends (R28): those of its granule, and of every granule that its leaf covers. -/
def coveredBy (m : Miss) (level : Option Nat) (x : Miss) : Bool :=
  x.ctx == m.ctx && (x.granule == m.granule || (match level with
    | some l => x.granule / 2 ^ (9 * l) == m.granule / 2 ^ (9 * l)
    | none => false))

/-- WALK_COMPLETE (R25, R27, R28), for the die it acts at: the oldest walk ends. A leaf is cached, with its A bit and for a write its D bit set; every miss that
it serves is over, and its access is tried again; a page that is not present is then a fault of that access, but not of a prefetch (R216). -/
def execWalkComplete (s : State) : Out :=
  let d := s.site
  .next (match (getDie s d).misses.find? (fun m => m.walking) with
    | none => s
    | some m =>
      let acc : Acc := if m.kind = 1 then .write else if m.kind = 2 then .fetch else .read
      let q : XReq := { ctx := m.ctx, cluster := m.cluster, h := m.h, acc, va := canon52 (m.granule * 65536), size := 1, engine := true }
      let r := walkNow q s
      let level := if r.2 == .pfault then none else (tlbHit q r.1).map (·.level)
      let cs := (span 0 64).map (fun j => 64 * d + j)
      let ends := ((getDie r.1 d).misses ++ cs.flatMap (fun c => (getCluster r.1 c).missq)).filter (coveredBy m level)
      let s0 := updDie d (fun x => { x with misses := x.misses.filter (fun y => !coveredBy m level y) }) r.1
      let s1 := cs.foldl (fun s c => if (getCluster s c).missq.any (coveredBy m level)
        then updCluster c (fun x => { x with missq := x.missq.filter (fun y => !coveredBy m level y) }) s else s) s0
      let s2 := ends.foldl (fun s x => noteWalked x ((x.cluster :: x.waits.map (·.1)).foldl (fun s c => shareLeaf q c s) s)) s1
      unstall (if (getDie s2 d).misses.any (·.walking) then post d .walkComplete s2 else if (getDie s2 d).misses.isEmpty then s2 else post d .pageWalk s2))

end Sys2Proof.Machine
end

