-- ==== Sys2Proof/Machine/Integer.lean ====
section
/-! DEFINITION. The integer and bit instructions (R174 to R185): one meaning per constructor over the operand forms of R164. -/

namespace Sys2Proof.Machine

/-- trunc(sgn(a) / sgn(b)) with the results of R179 for a zero divisor; the overflowing quotient wraps to a. -/
def divS (w a b : Nat) : Int := if b = 0 then -1 else Int.tdiv (sgn w a) (sgn w b)

/-- The remainder of R179: a for a zero divisor; the sign of the dividend. -/
def remS (w a b : Nat) : Int := if b = 0 then a else Int.tmod (sgn w a) (sgn w b)

def divU (a b : Nat) : Int := if b = 0 then -1 else ((a / b : Nat) : Int)
def remU (a b : Nat) : Int := if b = 0 then a else ((a % b : Nat) : Int)

/-- a * 2^n + floor(a / 2^(W-n)) (R180). -/
def rolN (w a b : Nat) : Int := let n := b % w; ((a * 2 ^ n + a / 2 ^ (w - n) : Nat) : Int)

/-- Leading zero bits (R180). -/
def clzN (w a : Nat) : Int := if a = 0 then w else (w : Int) - 1 - Nat.log2 a

/-- Trailing zero bits below bit n of a (R180). -/
def ctzFrom (a : Nat) : Nat → Nat → Nat
  | 0, k => k
  | n + 1, k => if a / 2 ^ k % 2 = 1 then k else ctzFrom a n (k + 1)

def ctzN (w a : Nat) : Int := ctzFrom a w 0

/-- One bits of a below bit w (R180). -/
def popcN (w a : Nat) : Nat := ((span 0 w).map (fun i => a / 2 ^ i % 2)).sum

/-- Bit i of the result is bit W-1-i of a (R180). -/
def brevN (w a : Nat) : Nat := ((span 0 w).map (fun i => a / 2 ^ i % 2 * 2 ^ (w - 1 - i))).sum

/-- BFE (R181); `sx` is MOD[0]. -/
def bfeN (sx : Bool) (w a b : Nat) : Int :=
  let p := b % 256
  let n := if b / 256 % 256 < w then b / 256 % 256 else w
  let f := a / 2 ^ p % 2 ^ n
  if sx && 0 < n && f / 2 ^ (n - 1) % 2 = 1 then (f : Int) - (2 ^ n : Nat) else f

/-- BFI (R181). -/
def bfiN (w a b c : Nat) : Int :=
  let p := b % 256
  let n := if b / 256 % 256 < w then b / 256 % 256 else w
  let m := (2 ^ n - 1) * 2 ^ p % 2 ^ w
  (((c &&& (2 ^ w - 1 - m)) ||| (a * 2 ^ p % 2 ^ w &&& m) : Nat) : Int)

/-- Coordinate bits of R182: 10 at width 32, 21 at width 64. -/
def bilBits (w : Nat) : Nat := if w = 64 then 21 else 10

/-- BIL (R182). -/
def bilN (w a b c : Nat) : Nat :=
  ((span 0 (bilBits w)).map (fun i => a / 2 ^ i % 2 * 2 ^ (3 * i) + b / 2 ^ i % 2 * 2 ^ (3 * i + 1) + c / 2 ^ i % 2 * 2 ^ (3 * i + 2))).sum

/-- BILX (R182): coordinate k. -/
def bilxN (k w a : Nat) : Nat := ((span 0 (bilBits w)).map (fun i => a / 2 ^ (3 * i + k) % 2 * 2 ^ i)).sum

/-- The condition of CMP (R183): MOD[2:0], signed or with MOD[3] unsigned. -/
def cmpN (md w a b : Nat) : Bool :=
  let x : Int := if md / 8 % 2 = 1 then a else sgn w a
  let y : Int := if md / 8 % 2 = 1 then b else sgn w b
  match md % 8 with
  | 0 => x == y
  | 1 => x != y
  | 2 => decide (x < y)
  | 3 => decide (x ≤ y)
  | 4 => decide (y < x)
  | _ => decide (y ≤ x)

/-- MOV (R184), an mb destination included. -/
def movResult (r : Rec) (s : State) : State :=
  match r.kd with
  | .mb =>
    let w := curWave s
    match selected s r.g r.n with
    | [] => advance r.words s
    | l :: _ => advance r.words (setMb r.d (BitVec.ofNat 64 (srcVal w l (if r.ka == .v then 32 else 64) r.ka r.a)) s)
  | .w => wResult r.g r.n r.words r.d (fun w l => (BitVec.ofNat 64 (srcVal w l 64 r.ka r.a), 0)) s
  | _ => vResult r.g r.n r.words (fun w l =>
      let x := srcVal w l (if r.ka == .v then 32 else 64) r.ka r.a
      ([(r.d, BitVec.ofNat 32 (if r.ka == .mb && r.md % 2 = 1 then x / 2 ^ 32 else x))], 0)) s

/-- MOVI (R184). -/
def moviResult (r : Rec) (s : State) : State := intResult r (fun w _ b _ => sgn w b) s

/-- MOVH (R184): the immediate into the high half, the low half kept. -/
def movhResult (r : Rec) (s : State) : State :=
  let i := r.imm.getD 0
  match r.kd with
  | .w => wResult r.g r.n r.words r.d (fun w _ => (BitVec.ofNat 64 ((wGet w r.d).toNat % 2 ^ 32 + wrap 32 i * 2 ^ 32), 0)) s
  | _ => vResult r.g r.n r.words (fun _ l => ([(r.d, BitVec.ofNat 32 ((vGet l r.d).toNat % 2 ^ 16 + wrap 16 i * 2 ^ 16))], 0)) s

/-- The address of LEA (R185). -/
def leaN (r : Rec) (w : Wave) (l : Lane) : Nat :=
  let base := srcVal w l 64 r.ka r.a
  let idx : Int := match r.kb with
    | .v => if r.md / 4 % 2 = 1 then ((vGet l r.b).toNat : Int) else sgn 32 (vGet l r.b).toNat
    | _ => ((wGet w r.b).toNat : Int)
  wrap 64 ((base : Int) + idx * (2 ^ (r.md % 4) : Nat))

def leaResult (r : Rec) (s : State) : State :=
  match r.kd with
  | .w => wResult r.g r.n r.words r.d (fun w l => (BitVec.ofNat 64 (leaN r w l), 0)) s
  | _ => vResult r.g r.n r.words (fun w l => (putV r.d 64 (leaN r w l), 0)) s

/-- CMP (R183): W is also 64 when every register source is a w register (R174). -/
def cmpResult (r : Rec) (s : State) : State :=
  let width := if r.ty = 6 || (r.ka == .w && r.kb == .w) then 64 else 32
  mResult r.g r.n r.words r.d (fun w l => (cmpN r.md width (aVal r w l width) (bVal r w l width), 0)) s

/-- SEL (R183). -/
def selResult (r : Rec) (s : State) : State :=
  let width := widthOf r
  putResult r (fun w l => (if mBit w r.c l.id then aVal r w l width else bVal r w l width, 0)) s

/-- ADD, long form (R178). -/
def execAdd (o : Alu) (s : State) : Out := .next (intResult (recAlu o) (fun _ a b _ => (a : Int) + b) s)

/-- ADD, short form RG (R178, R164). -/
def execAddRg (o : RG) (s : State) : Out := .next (intResult (recRG false o) (fun _ a b _ => (a : Int) + b) s)

/-- ADD, short form IM (R178, R164). -/
def execAddIm (o : IM) (s : State) : Out := .next (intResult (recIM o) (fun _ a b _ => (a : Int) + b) s)

/-- SUB, long form (R178). -/
def execSub (o : Alu) (s : State) : Out := .next (intResult (recAlu o) (fun _ a b _ => (a : Int) - b) s)

/-- SUB, short form RG (R178, R164). -/
def execSubRg (o : RG) (s : State) : Out := .next (intResult (recRG false o) (fun _ a b _ => (a : Int) - b) s)

/-- MUL, long form (R178). -/
def execMul (o : Alu) (s : State) : Out := .next (intResult (recAlu o) (fun _ a b _ => (a : Int) * b) s)

/-- MUL, short form RG (R178, R164). -/
def execMulRg (o : RG) (s : State) : Out := .next (intResult (recRG false o) (fun _ a b _ => (a : Int) * b) s)

/-- MULH, long form (R178). -/
def execMulh (o : Alu) (s : State) : Out := .next (intResult (recAlu o) (fun w a b _ => sgn w a * sgn w b / (2 ^ w : Nat)) s)

/-- MULHU, long form (R178). -/
def execMulhu (o : Alu) (s : State) : Out := .next (intResult (recAlu o) (fun w a b _ => ((a * b / 2 ^ w : Nat) : Int)) s)

/-- MAD, long form (R178). -/
def execMad (o : XR) (s : State) : Out := .next (intResult (recXR o) (fun _ a b c => (a : Int) * b + c) s)

/-- MAD, short form RG (R178, R164). -/
def execMadRg (o : RG) (s : State) : Out := .next (intResult (recRG true o) (fun _ a b c => (a : Int) * b + c) s)

/-- DIV, long form (R179). -/
def execDiv (o : Alu) (s : State) : Out := .next (intResult (recAlu o) (fun w a b _ => divS w a b) s)

/-- DIVU, long form (R179). -/
def execDivu (o : Alu) (s : State) : Out := .next (intResult (recAlu o) (fun _ a b _ => divU a b) s)

/-- REM, long form (R179). -/
def execRem (o : Alu) (s : State) : Out := .next (intResult (recAlu o) (fun w a b _ => remS w a b) s)

/-- REMU, long form (R179). -/
def execRemu (o : Alu) (s : State) : Out := .next (intResult (recAlu o) (fun _ a b _ => remU a b) s)

/-- AND, long form (R178). -/
def execAnd (o : Alu) (s : State) : Out := .next (intResult (recAlu o) (fun _ a b _ => ((a &&& b : Nat) : Int)) s)

/-- AND, short form RG (R178, R164). -/
def execAndRg (o : RG) (s : State) : Out := .next (intResult (recRG false o) (fun _ a b _ => ((a &&& b : Nat) : Int)) s)

/-- AND, short form IM (R178, R164). -/
def execAndIm (o : IM) (s : State) : Out := .next (intResult (recIM o) (fun _ a b _ => ((a &&& b : Nat) : Int)) s)

/-- OR, long form (R178). -/
def execOr (o : Alu) (s : State) : Out := .next (intResult (recAlu o) (fun _ a b _ => ((a ||| b : Nat) : Int)) s)

/-- OR, short form RG (R178, R164). -/
def execOrRg (o : RG) (s : State) : Out := .next (intResult (recRG false o) (fun _ a b _ => ((a ||| b : Nat) : Int)) s)

/-- OR, short form IM (R178, R164). -/
def execOrIm (o : IM) (s : State) : Out := .next (intResult (recIM o) (fun _ a b _ => ((a ||| b : Nat) : Int)) s)

/-- XOR, long form (R178). -/
def execXor (o : Alu) (s : State) : Out := .next (intResult (recAlu o) (fun _ a b _ => ((a ^^^ b : Nat) : Int)) s)

/-- XOR, short form RG (R178, R164). -/
def execXorRg (o : RG) (s : State) : Out := .next (intResult (recRG false o) (fun _ a b _ => ((a ^^^ b : Nat) : Int)) s)

/-- XOR, short form IM (R178, R164). -/
def execXorIm (o : IM) (s : State) : Out := .next (intResult (recIM o) (fun _ a b _ => ((a ^^^ b : Nat) : Int)) s)

/-- ANDN, long form (R178). -/
def execAndn (o : Alu) (s : State) : Out := .next (intResult (recAlu o) (fun w a b _ => ((a &&& (2 ^ w - 1 - b) : Nat) : Int)) s)

/-- ANDN, short form RG (R178, R164). -/
def execAndnRg (o : RG) (s : State) : Out := .next (intResult (recRG false o) (fun w a b _ => ((a &&& (2 ^ w - 1 - b) : Nat) : Int)) s)

/-- SHL, long form (R180). -/
def execShl (o : Alu) (s : State) : Out := .next (intResult (recAlu o) (fun w a b _ => ((a * 2 ^ (b % w) : Nat) : Int)) s)

/-- SHL, short form RG (R180, R164). -/
def execShlRg (o : RG) (s : State) : Out := .next (intResult (recRG false o) (fun w a b _ => ((a * 2 ^ (b % w) : Nat) : Int)) s)

/-- SHL, short form IM (R180, R164). -/
def execShlIm (o : IM) (s : State) : Out := .next (intResult (recIM o) (fun w a b _ => ((a * 2 ^ (b % w) : Nat) : Int)) s)

/-- SHR, long form (R180). -/
def execShr (o : Alu) (s : State) : Out := .next (intResult (recAlu o) (fun w a b _ => ((a / 2 ^ (b % w) : Nat) : Int)) s)

/-- SHR, short form RG (R180, R164). -/
def execShrRg (o : RG) (s : State) : Out := .next (intResult (recRG false o) (fun w a b _ => ((a / 2 ^ (b % w) : Nat) : Int)) s)

/-- SHR, short form IM (R180, R164). -/
def execShrIm (o : IM) (s : State) : Out := .next (intResult (recIM o) (fun w a b _ => ((a / 2 ^ (b % w) : Nat) : Int)) s)

/-- SRA, long form (R180). -/
def execSra (o : Alu) (s : State) : Out := .next (intResult (recAlu o) (fun w a b _ => sgn w a / (2 ^ (b % w) : Nat)) s)

/-- SRA, short form RG (R180, R164). -/
def execSraRg (o : RG) (s : State) : Out := .next (intResult (recRG false o) (fun w a b _ => sgn w a / (2 ^ (b % w) : Nat)) s)

/-- SRA, short form IM (R180, R164). -/
def execSraIm (o : IM) (s : State) : Out := .next (intResult (recIM o) (fun w a b _ => sgn w a / (2 ^ (b % w) : Nat)) s)

/-- ROL, long form (R180). -/
def execRol (o : Alu) (s : State) : Out := .next (intResult (recAlu o) (fun w a b _ => rolN w a b) s)

/-- CLZ, long form (R180). -/
def execClz (o : XR) (s : State) : Out := .next (intResult (recXR o) (fun w a _ _ => clzN w a) s)

/-- CLZ, short form RG (R180, R164). -/
def execClzRg (o : RG) (s : State) : Out := .next (intResult (recRG false o) (fun w a _ _ => clzN w a) s)

/-- CTZ, long form (R180). -/
def execCtz (o : XR) (s : State) : Out := .next (intResult (recXR o) (fun w a _ _ => ctzN w a) s)

/-- CTZ, short form RG (R180, R164). -/
def execCtzRg (o : RG) (s : State) : Out := .next (intResult (recRG false o) (fun w a _ _ => ctzN w a) s)

/-- POPC, long form (R180). -/
def execPopc (o : XR) (s : State) : Out := .next (intResult (recXR o) (fun w a _ _ => (popcN w a : Int)) s)

/-- POPC, short form RG (R180, R164). -/
def execPopcRg (o : RG) (s : State) : Out := .next (intResult (recRG false o) (fun w a _ _ => (popcN w a : Int)) s)

/-- BREV, long form (R180). -/
def execBrev (o : XR) (s : State) : Out := .next (intResult (recXR o) (fun w a _ _ => (brevN w a : Int)) s)

/-- BFE, long form (R181). -/
def execBfe (o : Alu) (s : State) : Out := .next (intResult (recAlu o) (fun w a b _ => bfeN ((recAlu o).md % 2 == 1) w a b) s)

/-- BFI, long form (R181). -/
def execBfi (o : XR) (s : State) : Out := .next (intResult (recXR o) (fun w a b c => bfiN w a b c) s)

/-- BIL, long form (R182). -/
def execBil (o : XR) (s : State) : Out := .next (intResult (recXR o) (fun w a b c => (bilN w a b c : Int)) s)

/-- BILX, long form (R182). -/
def execBilx (o : XR) (s : State) : Out := .next (intResult (recXR o) (fun w a _ _ => (bilxN ((recXR o).md % 4) w a : Int)) s)

/-- MIN, long form (R178). -/
def execMin (o : Alu) (s : State) : Out := .next (intResult (recAlu o) (fun w a b _ => if sgn w a ≤ sgn w b then (a : Int) else b) s)

/-- MIN, short form RG (R178, R164). -/
def execMinRg (o : RG) (s : State) : Out := .next (intResult (recRG false o) (fun w a b _ => if sgn w a ≤ sgn w b then (a : Int) else b) s)

/-- MAX, long form (R178). -/
def execMax (o : Alu) (s : State) : Out := .next (intResult (recAlu o) (fun w a b _ => if sgn w b ≤ sgn w a then (a : Int) else b) s)

/-- MAX, short form RG (R178, R164). -/
def execMaxRg (o : RG) (s : State) : Out := .next (intResult (recRG false o) (fun w a b _ => if sgn w b ≤ sgn w a then (a : Int) else b) s)

/-- MINU, long form (R178). -/
def execMinu (o : Alu) (s : State) : Out := .next (intResult (recAlu o) (fun _ a b _ => if a ≤ b then (a : Int) else b) s)

/-- MAXU, long form (R178). -/
def execMaxu (o : Alu) (s : State) : Out := .next (intResult (recAlu o) (fun _ a b _ => if b ≤ a then (a : Int) else b) s)

/-- ABS, long form (R178). -/
def execAbs (o : XR) (s : State) : Out := .next (intResult (recXR o) (fun w a _ _ => ((sgn w a).natAbs : Int)) s)

/-- SEL, long form (R183). -/
def execSel (o : XR) (s : State) : Out := .next (selResult (recXR o) s)

/-- CMP, long form (R183). -/
def execCmp (o : XR) (s : State) : Out := .next (cmpResult (recXR o) s)

/-- MOV, long form (R184). -/
def execMov (o : XR) (s : State) : Out := .next (movResult (recXR o) s)

/-- MOV, short form RG (R184, R164). -/
def execMovRg (o : RG) (s : State) : Out := .next (movResult (recRG false o) s)

/-- MOVI, long form (R184). -/
def execMovi (o : XI) (s : State) : Out := .next (moviResult (recXI o) s)

/-- MOVI, short form IW (R184, R164). -/
def execMoviIw (o : IW) (s : State) : Out := .next (moviResult (recIW o) s)

/-- MOVH, long form (R184). -/
def execMovh (o : XI) (s : State) : Out := .next (movhResult (recXI o) s)

/-- MOVH, short form IW (R184, R164). -/
def execMovhIw (o : IW) (s : State) : Out := .next (movhResult (recIW o) s)

/-- LEA, long form (R185). -/
def execLea (o : XR) (s : State) : Out := .next (leaResult (recXR o) s)

end Sys2Proof.Machine
end

