-- ==== Sys2Proof/Machine/System.lean ====
section
/-! DEFINITION. System instructions (R354 to R358): control registers, the return from a handler, invalidation of translations (R30, R31), the clock. -/

namespace Sys2Proof.Machine

/-! ### CSRR and CSRW (R335, R354) -/

/-- The selected lanes that the register's mode shuts out. -/
def csrDenied (a : CsrAcc) (ls : List Lane) : List Lane := if a = .handler then ls.filter (fun l => !l.h) else []

/-- The traps of lanes shut out: PROT with the number. -/
def csrTraps (n : Nat) (pc : W64) (ls : List Lane) : List (Nat × LaneTrap) :=
  ls.map (fun l => (l.id, { code := cPROT, tval := BitVec.ofNat 64 n, tepc := pc }))

/-- An instruction that breaks a rule of its encoding: ILLOP in every active lane (R158). -/
def illChain (i : Instr) (s : State) : State :=
  let word := match encode i with | some (w, _) => w | none => 0
  let pc := curPc s
  takeTraps ((active s).map (fun l => (l.id, { code := cILLOP, tval := illTval word pc, tepc := pc }))) s

/-- CSRR (R354). -/
def execCsrr (o : CR) (s : State) : Out :=
  let n := csrNum o
  let w := curWave s
  let pc := curPc s
  let ls := selected s o.g o.n
  .next (match csrRow n with
    | none => illChain (.csrr o) s
    | some r =>
      if !csrOk o false then illChain (.csrr o) s
      else
        let bad := csrDenied r.rd ls
        if o.k then
          match ls with
          | [] => advance 1 s
          | l :: _ => if bad.isEmpty then advance 1 (setW o.reg.toNat (csrRead s w l n) s) else takeConverged (csrTraps n pc bad) s
        else
          let good := (ls.filter (fun l => !(bad.any (fun b => b.id == l.id)))).map (·.id)
          takeTraps (csrTraps n pc bad) (advance 1 (mapLanes good (fun l => setV o.reg.toNat (halfOf (csrHi o) (csrRead s w l n)) l) s)))

/-- CSRW (R354). -/
def execCsrw (o : CR) (s : State) : Out :=
  let n := csrNum o
  let w := curWave s
  let pc := curPc s
  let ls := selected s o.g o.n
  .next (match csrRow n with
    | none => illChain (.csrw o) s
    | some r =>
      if !csrOk o true then illChain (.csrw o) s
      else
        let bad := csrDenied r.wr ls
        let good := (ls.filter (fun l => !(bad.any (fun b => b.id == l.id)))).map (·.id)
        let s1 :=
          if good.isEmpty then s
          else if r.lane then
            mapLanes good (fun l => csrLane n (if o.k then wGet w o.reg.toNat else withHalf (csrHi o) (vGet l o.reg.toNat) (csrRead s w l n)) l) s
          else csrWhole n (wGet w o.reg.toNat) w s
        takeTraps (csrTraps n pc bad) (advance 1 s1))

/-! ### ERET (R355, R342, R386, R389) -/

/-- What still holds a lane at its ERET, or the trap it takes there. -/
inductive EretRes where
  | go
  | wait
  | trap (t : LaneTrap)
deriving DecidableEq, Repr, Inhabited

/-- The lane is named by the entry of its TCAUSE. -/
def ownsLog (w : Wave) (l : Lane) : Bool :=
  tcLOGV l.tcause && !tcNR l.tcause && w.log.any (fun e => e.1 == tcLOG l.tcause && e.2.lanes.any (fun p => p.lane == l.id))

/-- The page answer an entry's lane awaits has come, or none is awaited. -/
def answered (s : State) (p : LogLane) : Bool :=
  match p.wait with
  | .page (some tag) => (tagAnswer s tag).isSome
  | _ => true

/-- The lane's logged access performed at its ERET, if its answer has come. -/
def eretReplay (k : Nat) (l : Lane) (s : State) : State :=
  match s.waves.find? (fun w => w.id == k) with
  | none => s
  | some w => if ownsLog w l then replayEntry k (tcLOG l.tcause) (fun p => p.lane == l.id && answered s p) true s else s

/-- Where the lane stands after its replay. -/
def eretStands (k : Nat) (i : Nat) (s : State) : EretRes :=
  match s.waves.find? (fun w => w.id == k) with
  | none => .go
  | some w =>
    match w.lanes.find? (fun l => l.id == i) with
    | none => .go
    | some l =>
      match l.atEret with
      | t :: _ => .trap t
      | [] =>
        if ownsLog w l then .wait
        else if tcPTV l.tcause then
          match tagAnswer s (tcPTAG l.tcause) with
          | none => .wait
          | some false => .go
          | some true => .trap { code := cPFAULT, tval := l.tval, tepc := l.tepc, nr := true, conv := tcCONV l.tcause && l.tval != l.tepc }
        else .go

/-- The traps of lanes that return, taken after their return: those of R337 in the converged fallback, the others subgroup by subgroup (R336). -/
def eretTraps (k : Nat) (ts : List (Nat × LaneTrap)) (s : State) : State :=
  match s.waves.find? (fun w => w.id == k) with
  | none => s
  | some w =>
    let cs := ts.filter (fun t => t.2.conv)
    let keyOf (i : Nat) : Nat := match w.lanes.find? (fun l => l.id == i) with | some l => subgroupKey l | none => 0
    let own := ts.filter (fun t => !t.2.conv)
    let keys := own.foldl (fun acc t => if acc.contains (keyOf t.1) then acc else acc ++ [keyOf t.1]) []
    let s1 := keys.foldl (fun s j => takeTrapsOf k (own.filter (fun t => keyOf t.1 == j)) s) s
    if cs.isEmpty then s1 else converged k cs s1

/-- The traps among what lanes meet at their ERETs. -/
def trapsOf (rs : List (Nat × EretRes)) : List (Nat × LaneTrap) := rs.filterMap (fun r => match r.2 with | .trap t => some (r.1, t) | _ => none)

/-- The converged handler's return, once every lane in it has executed ERET or exited: the replays, then every lane at once; lanes whose replay
failed trap again. -/
def finishEret (k : Nat) (s : State) : State :=
  match s.waves.find? (fun w => w.id == k) with
  | none => s
  | some w =>
    let cs := w.lanes.filter (fun l => alive l && tcCONV l.tcause)
    if w.halted || cs.isEmpty || !(cs.all (fun l => l.st == .waiting .eret)) then s
    else
      let s1 := cs.foldl (fun s l => eretReplay k l s) s
      let rs := cs.map (fun l => (l.id, eretStands k l.id s1))
      if rs.any (fun r => r.2 == .wait) then s1
      else
        let ids := cs.map (·.id)
        let s2 := updWave k (fun w => { w with lanes := w.lanes.map (fun l =>
          if ids.contains l.id then { returnConverged l with atEret := l.atEret.drop 1 } else { l with held := false }) }) s1
        eretTraps k (trapsOf rs) s2

/-- ERET (R355). -/
def execEret (o : Z) (s : State) : Out :=
  let k := s.cur.1
  let pc := curPc s
  let act := active s
  let ords := act.filter (fun l => !l.h)
  .next (
    if o.code != 0 || o.g != 0 || o.n then illChain (.eret o) s
    else if !ords.isEmpty then
      takeTraps (ords.map (fun l => (l.id, { code := cPROT, tval := Config.value s.free, tepc := pc }))) { s with free := s.free + 1 }
    else
      let cs := (act.filter (fun l => tcCONV l.tcause)).map (·.id)
      let ns := act.filter (fun l => !tcCONV l.tcause)
      let s1 := ns.foldl (fun s l => eretReplay k l s) s
      let rs := ns.map (fun l => (l.id, eretStands k l.id s1))
      let gone := (rs.filter (fun r => r.2 != .wait)).map (·.1)
      let wait := (rs.filter (fun r => r.2 == .wait)).map (·.1)
      let s2 := mapLanes gone (fun l => { returnLane l with atEret := l.atEret.drop 1 }) (mapLanes cs (fun l => { l with st := .waiting .eret }) s1)
      let ts := trapsOf rs
      let s3 := regroup (eretTraps k (ts.filter (fun t => !t.2.conv)) s2)
      let s4 := mapLanes wait (fun l => if l.st == .ready then { l with st := .waiting .retry } else l) s3
      finishEret k (eretTraps k (ts.filter (fun t => t.2.conv)) s4))

/-! ### TLBINV (R30, R31, R357) -/

/-- Cached translations that a test selects go, on every die, and with them what walks have found for agents that waited; the address of every sleeper is looked up again. -/
def invalidate (sel : TlbEntry → Bool) (s : State) : State :=
  let s1 := s.clusters.foldl (fun s p => updCluster p.1 (fun c => { c with
    tlb := c.tlb.filter (fun e => !sel e), l1tlb := c.l1tlb.filter (fun e => !sel e.2) }) s) s
  let s2 := s1.dies.foldl (fun s p => updDie p.1 (fun d => { d with wcache := d.wcache.filter (fun e => !sel e) }) s) s1
  let again (w : Wave) (l : Lane) (a : WaitA) : WaitA := (match (waitaAgain w l.pc a s2).2 with | .done b => b | _ => a)
  { s2 with
    walked := []
    waves := s2.waves.map (fun w => { w with lanes := w.lanes.map (fun l =>
      let anew (st : LaneSt) : LaneSt := match st with | .waiting (.waita a) => .waiting (.waita (again w l a)) | _ => st
      { l with st := anew l.st, before := anew l.before }) }) }

/-- No access that has been translated is still to be performed, by any agent: at a peer, at a home, or as data on its way (R31). -/
def accessesDone (s : State) : Bool :=
  s.remote.isEmpty && s.dies.all (fun d => d.2.held.isEmpty)
    && s.waves.all (fun w => w.log.all (fun e => e.2.lanes.all (fun p => p.trapped || p.wait != .data)))

/-- The body of the three forms: PROT in ordinary mode; then a release at .pkg, the end of every access that may have used a selected translation, its stores
performed at .pkg, and the removal. A pre-emption lets it run to completion (R347). -/
def tlbInstr (sel : TlbEntry → Bool) (s : State) : State :=
  let pc := curPc s
  let ords := (active s).filter (fun l => !l.h)
  if !ords.isEmpty then
    takeTraps (ords.map (fun l => (l.id, { code := cPROT, tval := Config.value s.free, tepc := pc }))) { s with free := s.free + 1 }
  else if !releaseReady 2 s || !accessesDone s then releaseWait 2 (midOp s)
  else
    let r := devRelease (span 0 4) s
    if r.2 then advance 1 (invalidate sel r.1) else waitHere .retry (midOp r.1)

/-- The fields that must be 0. -/
def tlbFields (o : RG) : Bool := o.g == 0 && !o.n && !o.x

/-- TLBINV.va (R30). -/
def execTlbinvVa (o : RG) (s : State) : Out :=
  let w := curWave s
  let id := (wGet w o.b.toNat).toNat % 2 ^ 28
  let va := (wGet w o.a.toNat).toNat % 2 ^ 52
  .next (if !tlbFields o then illChain (.tlbinvVa o) s
    else tlbInstr (fun e => (e.glob || e.ctxid.toNat % 2 ^ 28 == id) && e.va == va / 2 ^ pageBits e.level) s)

/-- TLBINV.ctx (R30). -/
def execTlbinvCtx (o : RG) (s : State) : Out :=
  let id := (fld (wGet (curWave s) o.b.toNat) 16 12).toNat
  .next (if !tlbFields o || o.a != 0 then illChain (.tlbinvCtx o) s
    else tlbInstr (fun e => !e.glob && (fld e.ctxid 16 12).toNat == id) s)

/-- TLBINV.all (R30). -/
def execTlbinvAll (o : RG) (s : State) : Out :=
  .next (if !tlbFields o || o.a != 0 || o.b != 0 then illChain (.tlbinvAll o) s else tlbInstr (fun _ => true) s)

/-! ### CLKRD (R358) -/

/-- CLKRD (R358). -/
def execClkrd (o : RG) (s : State) : Out :=
  .next (wResult o.g o.n 1 o.d.toNat (fun _ _ => (BitVec.ofNat 64 s.clock, 0)) s)

end Sys2Proof.Machine
end

