-- ==== Sys2Proof/Machine/Registers.lean ====
section
/-! DEFINITION. The host's register window and what its writes do (R360 to R364, R370, R371, R375, R376), boot and reset (R378), failures and power (R366, R372,
R373, R377), and the remaining events. -/

namespace Sys2Proof.Machine

/-! ### Words the host reads (R361, R370) -/

def identWord (d : Nat) : Nat := d % 4 * 2 ^ 48 + 0x00040001

def statusReg (s : State) (d : Nat) : Nat :=
  let r := (getDie s d).regs
  s.boot.devIdx.toNat * 2 ^ 48 + s.boot.domain.toNat * 2 ^ 44 + s.regs.cause % 16 * 2 ^ 12 + s.regs.stage % 16 * 2 ^ 8 + r.accerr.toNat * 2 ^ 7
    + r.mchk.toNat * 2 ^ 6 + r.pwr % 4 * 2 ^ 4 + (rdy s).toNat

/-! ### Boot and reset (R360, R372, R378) -/

/-- PWRLIM as stored (R360). -/
def pwrBound (n : Nat) : Nat := if n < 1000 then 1000 else if 3400 < n then 3400 else n

/-- The part of a record that its signature covers (R374). -/
def recordHead (r : BootRecord) : List Byte :=
  leBytes 4 1 ++ leBytes 4 r.kind ++ leBytes 8 r.version ++ (r.target ++ zeros 64).take 64 ++ leBytes 8 r.body.length ++ r.body

/-- A record as it stands on the flash (R374). -/
def recordBytes (r : BootRecord) : List Byte := recordHead r ++ (r.signature ++ zeros 4627).take 4627

/-- The SHA3-512 digest of some bytes. -/
def digest (bs : List Byte) : List Byte := (span 0 64).map (Config.sha3 bs)

/-- The package's identity public key (R375). -/
def identityKey : List Byte := (span 0 2592).map Config.identityKey

/-- A record of a kind is accepted (R374): its signature holds, it names this device, or any where it is firmware, and its security version is no less than the
minimum. -/
def recordOk (least kind : Nat) (r : BootRecord) : Bool :=
  r.kind == kind && Config.signed kind (recordHead r) r.signature
    && (r.target == digest identityKey || (kind == 1 && r.target == zeros 64)) && decide (least ≤ r.version)

/-- The firmware records checked in load order, each raising the minimum to its version, up to one that is rejected (R374). -/
def checkFirmware : Nat → List BootRecord → Nat × Bool
  | least, [] => (least, true)
  | least, r :: rs => if recordOk least 1 r then checkFirmware r.version rs else (least, false)

/-- The boot stage that fails (R378), or 7: the rejection of firmware fails stage 1, that of the device certificate, which names the key of the configuration
record, or of that record stage 2 (DEDUCED, log 76). -/
def bootStage (least : Nat) (cfg : BootCfg) : Nat :=
  let f := checkFirmware least cfg.firmware
  let other := if 1 ≤ cfg.failAt && cfg.failAt ≤ 6 then cfg.failAt else 7
  let records := if !f.2 then 1 else if recordOk f.1 3 cfg.certificate && recordOk f.1 2 cfg.config then 7 else 2
  Nat.min other records

/-- What the stages that have completed leave established (R365, R374, R378): stage 2 what the configuration record says, stage 3 the second tier, stage 5 the scope
table, stage 6 the host's memory. -/
def establish (stage : Nat) (cfg : BootCfg) : BootCfg :=
  let two := decide (2 < stage)
  { cfg with
    devIdx := if two then cfg.devIdx else 0
    domain := if two then cfg.domain else 0
    gateways := if two then cfg.gateways else []
    spares := if two then cfg.spares else []
    exported := two && cfg.exported
    tier2 := if 3 < stage then cfg.tier2 else []
    scopeTab := if 5 < stage then cfg.scopeTab else []
    hostGiB := if 6 < stage then cfg.hostGiB else 0 }

/-- The package after a boot from a flash: everything at reset, then the stages; a failing stage stays in STAGE, RDY is 0 and ERRLOG holds a cause that the manual
does not say. The clock counts from package reset (R358), free values go on, and the flash with its minimum stands (R374). -/
def booted (cfg : BootCfg) (cause : Nat) (s : State) : State :=
  let n := bootStage s.flashMin cfg
  let s0 := { State.reset with
    boot := establish n cfg, flash := cfg, flashMin := (checkFirmware s.flashMin cfg.firmware).1, peer := s.peer, free := s.free + 1
    regs := { (default : PkgRegs) with
      cause := cause
      stage := n
      pwrlim := if 2 < n then BitVec.ofNat 64 (pwrBound cfg.pwrlim) else 0
      funcmode := if 2 < n then BitVec.ofNat 64 cfg.funcmode.toNat else 0 } }
  if n = 7 then s0
  else updDie 0 (fun d => { d with regs := { d.regs with errlog := BitVec.ofNat 64 (2 ^ 63 + (Config.value s.free).toNat % 2 ^ 63) } }) s0

/-- POWER_ON (R378): what the flash holds and what discovery finds stand in the operand. -/
def execPowerOn (cfg : BootCfg) (s : State) : Out := .next (booted cfg 0 s)

/-- RESETCTL (R360). -/
def execResetctl (value : BitVec 64) (s : State) : Out :=
  .next (if rdy s && value.toNat % 256 == 0xA5 then booted s.flash 1 s else s)

/-- THERMAL_TRIP (R372, kind 4): the package resets with CAUSE 2; the event stands in the log of die 0. -/
def execThermalTrip (s : State) : Out := .next (logError 0 4 0 0 (booted s.flash 2 s))

/-! ### The window's registers (R360) -/

/-- ERRLOG_CLEAR (R360, R372): V is cleared by a 1, and MCHK with it. -/
def execErrlogClear (die : Nat) (value : BitVec 64) (s : State) : Out :=
  .next (if rdy s && bit value 63
    then updDie die (fun d => { d with regs := { d.regs with errlog := putFld d.regs.errlog 63 1 0, mchk := false } }) s else s)

/-- STATUS_ACCERR_CLEAR (R361): responds before RDY. -/
def execStatusAccerrClear (die : Nat) (value : BitVec 64) (s : State) : Out :=
  .next (if bit value 7 then updDie die (fun d => { d with regs := { d.regs with accerr := false } }) s else s)

/-- LOGN kept between bounds, in [5:1]. -/
def boundLogn (lo hi : Nat) (x : W64) : W64 :=
  let n := (fld x 1 5).toNat
  putFld x 1 5 (if n < lo then lo else if hi < n then hi else n)

/-- The requests of a die that are held posted, as far as there is room; what the ring still waits for is asked for in the name of the room's recheck. -/
def postHeld (d : Nat) (s : State) : State :=
  let r := attemptAs (.event d .pageRequestRoomRecheck) (fun s => (postReqs d (getDie s d).reqs s, true)) s
  if r.2 then r.1 else stallOnce d .pageRequestRoomRecheck r.1

/-- PRQBASE_WRITE (R360): held requests are posted once EN is 1. -/
def execPrqbaseWrite (die : Nat) (value : BitVec 64) (s : State) : Out :=
  .next (if !rdy s then s
    else
      let x := boundLogn 4 16 (keepBits (2 ^ 48 - 4096 + 63) value)
      postHeld die (updDie die (fun d => { d with regs := { d.regs with prqbase := x } }) s))

/-- FUNCMODE_WRITE (R370): takes effect only while no context has resident or saved work. -/
def execFuncmodeWrite (value : BitVec 64) (s : State) : Out :=
  let busy := !s.waves.isEmpty || s.ctxs.any (fun p => hasWork s p.1 || p.2.stat == .saved || p.2.stat == .preempting || p.2.stat == .resuming)
  .next (if !rdy s then s
    else if busy then accErr 0 s
    else { s with regs := { s.regs with funcmode := keepBits 7 value } })

/-! ### Attestation (R375) -/

/-- The report: its stated fields, the digests of the firmware records in load order, of the configuration record and of the device certificate, the identity key,
and the signature over what stands before it. -/
def attReport (s : State) : List Byte :=
  let nonce := s.regs.attnonce.flatMap (fun x => leBytes 8 x.toNat)
  let head := leBytes 8 1 ++ leBytes 8 s.clock ++ leBytes 8 (identWord 0) ++ leBytes 8 (statusReg s 0) ++ nonce
    ++ digest (s.boot.firmware.flatMap recordBytes) ++ digest (recordBytes s.boot.config) ++ digest (recordBytes s.boot.certificate) ++ identityKey
  head ++ (span 0 4627).map (Config.sign (digest head))

/-- The report written into its buffer, where there is memory. -/
def putReport (s : State) : State :=
  let a := (fld s.regs.attbuf 12 36).toNat * 4096
  let bs := attReport s
  (linePieces a bs.length).foldl (fun s p => if exists_ s p.1 then storeBytes 0 5 1 p.1 ((bs.drop (p.1 - a)).take p.2) s else s) s

/-- ATTESTATION (R375): GO sets BUSY, and the event at site 1 writes the report, clears BUSY and raises vector 5. A GO while BUSY = 1 changes nothing:
DESIGN CHOICE (log 84). -/
def execAttestation (value : BitVec 64) (s : State) : Out :=
  .next (if !rdy s || !bit value 0 then s
    else if !bit s.regs.attctl 1 then post 1 (.attestation value) { s with regs := { s.regs with attctl := putFld s.regs.attctl 1 1 1 } }
    else if s.site = 1 then
      let s1 := putReport { s with regs := { s.regs with attctl := putFld s.regs.attctl 1 1 0 } }
      { s1 with msix := 5 :: s1.msix }
    else s)

/-! ### Doorbell and host notification (R364) -/

/-- GSTAT with a status. -/
def gstatEnd (x : Nat) (s : State) : State := { s with regs := { s.regs with gstat := BitVec.ofNat 64 (x % 4) }, msix := 2 :: s.msix }

/-- LAUNCH.graph in a context for the doorbell (R324, R329, R364): its status, or a wait for a fault service. -/
def doorbell (h : Nat) (s : State) : State × Option Nat :=
  let who := Who.device h 0
  let obj := s.regs.door.1
  let patch := s.regs.door.2
  let r := gotThen (whoRead who obj 128 64 s) (fun bs s =>
    let x := leNat bs
    if !graphOk x then (s, .done 2)
    else gotThen (if patch = 0 then (s, .done []) else readMany who 8 2 patch s) (fun pb s =>
      let y := leNat pb
      if (graphOf x).pmax < recBits y 64 16 + recBits y 80 16 then (s, .done 2)
      else gotThen (launchWord who obj patch s) (fun old s =>
        let q := queueReplay h 0 obj patch old s
        (q.1, .done q.2))))
  match r.2 with
  | .done x => (r.1, some x)
  | .wait => (r.1, none)
  | .trap _ => (r.1, some 2)

/-- The doorbell under way for a value, and whether it has ended. -/
def doorTurn (value : W64) (s : State) : State × Bool :=
  match ctxByPair s (fld value 16 12).toNat (fld value 0 16).toNat with
  | none => (gstatEnd 3 s, true)
  | some h =>
    let r := doorbell h s
    match r.2 with
    | some x => (gstatEnd x r.1, true)
    | none => (r.1, false)

/-- GDOOR (R364). GOBJ and GPATCH count as they stand at the write; a doorbell that waits for a fault service is tried again at site 1. -/
def execGdoor (value : BitVec 64) (s : State) : Out :=
  let go (s : State) : State :=
    let r := attemptAs (.event 1 (.gdoor value)) (doorTurn value) s
    if r.2 then r.1 else stallOnce 1 (.gdoor value) r.1
  .next (if !rdy s then s
    else if bit s.regs.gstat 63 then (if s.site = 1 then go s else accErr 0 s)
    else go { s with regs := { s.regs with gstat := BitVec.ofNat 64 (2 ^ 63), door := (s.regs.gobj, s.regs.gpatch) } })

/-- QNC.ERR of a slot. -/
def qncErr (d k : Nat) (e : Bool) (s : State) : State :=
  updDie d (fun x => { x with regs := { x.regs with qncErr := if e then (if x.regs.qncErr.contains k then x.regs.qncErr else k :: x.regs.qncErr) else x.regs.qncErr.filter (· != k) } }) s

/-- A write to a slot's notify register carried out (R314, R364), with the descriptor address that stood beside it; false where its map waits. -/
def qncAct (die slot : Nat) (value qna : W64) (s : State) : State × Bool :=
  match ctxByPair s (fld value 32 12).toNat (fld value 48 16).toNat with
  | none => (qncErr die slot true s, true)
  | some h =>
    let add (s : State) : State :=
      post die .qmDecision (raiseTail die slot (fld value 0 32).toNat (updSlot die slot (fun q => { q with stuck := false }) (qncErr die slot false s)))
    match getSlot s die slot with
    | some q => (if q.ctx = h && q.desc == qna then add s else qncErr die slot true s, true)
    | none =>
      if (findSlot s h qna).isSome || (getDie s die).shares.any (fun p => p.1 == slot) || (getCtx s h).stat != .live then (qncErr die slot true s, true)
      else
        let r := mapInto (.device h (64 * die)) qna (fun d s => (s, .done (if d = die then some slot else none))) s
        match r.2 with
        | .done (.ok _ _) => (add r.1, true)
        | .wait => (r.1, false)
        | _ => (qncErr die slot true r.1, true)

/-- The writes to notify registers of a die that still wait. -/
def updQncQ (die : Nat) (f : List (Nat × W64 × W64) → List (Nat × W64 × W64)) (s : State) : State :=
  updDie die (fun x => { x with regs := { x.regs with qncQ := f x.regs.qncQ } }) s

/-- QNC (R364). QNA counts as it stands at the write. One whose map waits is tried again at site 1, and later writes to the same register wait behind it (R111). -/
def execQnc (die slot : Nat) (value : BitVec 64) (s : State) : Out :=
  let qna := aget 0 (getDie s die).regs.qna slot
  let turn (v q : W64) (s : State) : State × Bool := attemptAs (.event 1 (.qnc die slot v)) (qncAct die slot v q) s
  .next (if !rdy s || 256 ≤ slot then s
    else match (getDie s die).regs.qncQ.find? (fun e => e.1 == slot) with
    | none =>
      let r := turn value qna s
      if r.2 then r.1 else stallOnce 1 (.qnc die slot value) (updQncQ die (· ++ [(slot, value, qna)]) r.1)
    | some (_, v, q) =>
      if s.site != 1 then stallOnce 1 (.qnc die slot value) (updQncQ die (· ++ [(slot, value, qna)]) s)
      else
        let r := turn v q s
        let rest := (getDie r.1 die).regs.qncQ.erase (slot, v, q)
        let s1 := if r.2 then updQncQ die (fun _ => rest) r.1 else r.1
        if (if r.2 then rest.any (fun e => e.1 == slot) else true) then stallOnce 1 (.qnc die slot value) s1 else s1)

/-! ### Host-assisted queue scheduling and builds (R370) -/

/-- Items 2 and 3 of R321 for a queue. -/
def sharesAllow (s : State) (d k : Nat) (q : QSlot) : Bool :=
  let held := heldSoon s d k
  let me : Cand := { k, share := false, cart := q.cart, prio := q.prio, back := false, since := 0, pass := q.pass, held, minsh := q.minsh }
  decide (held < shareOf q.cart q.maxsh) && withinShares s d (candidates s d) me

/-- DISPATCH (R370). One that a fault service holds is tried again for the records that it has not launched. -/
def execDispatch (die : Nat) (value : BitVec 64) (s : State) : Out :=
  let k := (fld value 0 8).toNat
  let c := 64 * die + (fld value 8 6).toNat
  .next (if !rdy s then s
    else if !bit s.regs.funcmode 0 then accErr die s
    else match getSlot s die k with
    | none => accErr die s
    | some q =>
      if (getCtx s q.ctx).stat != .live || !sharesAllow s die k q || !canLaunch s q c then accErr die s
      else
        let room := shareOf q.cart q.maxsh - heldSoon s die k
        let n := Nat.min (Nat.min (Nat.min (fld value 16 8).toNat (unclaimed s die k q)) 128) room
        let r := launchTo die k c n (updSlot die k (fun q => { q with stuck := false }) s)
        let left := n - (match getSlot r.1 die k with | some x => (x.head - q.head).toNat | none => 0)
        if r.2 then stall s.site (.dispatch die (putFld value 16 8 left)) r.1 else r.1)

/-- A write to BLDDONE (R370). -/
def bldDone (d : Nat) (k : EngCmd → State → State) (s : State) : State :=
  if !rdy s then s
  else if !bit s.regs.funcmode 1 || (getDie s d).builds.isEmpty then accErr d s
  else takeBuild d k s

/-- BLDDONE with [0] = 0, for the die it acts at (R370). -/
def execBlddoneArrive (s : State) : Out := .next (bldDone s.site buildArrive s)

/-- BLDDONE with [0] = 1, for the die it acts at (R370). -/
def execBlddoneHandback (s : State) : Out :=
  .next (bldDone s.site (fun c => handBack c cPROT 0 0 (some (Build.ofOps c.ops).cb)) s)

/-! ### Plain register writes (R360) -/

/-- A register that is only stored, by its offset in a die's block. -/
def storeReg (d off : Nat) (x : W64) (s : State) : State :=
  let reg (f : HostRegs → HostRegs) : State := updDie d (fun y => { y with regs := f y.regs }) s
  let pkg (f : PkgRegs → PkgRegs) : State := if d = 0 then { s with regs := f s.regs } else s
  match off with
  | 0x030 => postHeld d (reg (fun r => { r with prqhead := x }))
  | 0x040 => pkg (fun r => { r with pctl := BitVec.ofNat 64 (r.pctl.toNat / 2 ^ 32 % 2 * 2 ^ 32 + r.pctl.toNat / 2 ^ 29 % 2 * 2 ^ 29 + x.toNat % 2 ^ 28) })
  | 0x048 => pkg (fun r => { r with pooltab := keepBits (2 ^ 48 - 4096) x })
  | 0x050 => pkg (fun r => { r with gobj := x })
  | 0x058 => pkg (fun r => { r with gpatch := x })
  | 0x070 => reg (fun r => { r with scopeq := fld x 48 14 })
  | 0x080 => reg (fun r => { r with chrbase := boundLogn 8 20 (keepBits (2 ^ 48 - 4096 + 63) x) })
  | 0x088 => reg (fun r => { r with chrctl := keepBits (2 ^ 32 - 1) x })
  | 0x098 => reg (fun r => { r with chrhead := x })
  | 0x0E0 => pkg (fun r => { r with attbuf := keepBits (2 ^ 48 - 4096) x })
  | 0x0F0 => pkg (fun r => { r with pwrlim := BitVec.ofNat 64 (pwrBound x.toNat) })
  | _ =>
    if 0x0A0 ≤ off && off < 0x0E0 then pkg (fun r => { r with attnonce := setNth x r.attnonce ((off - 0x0A0) / 8) })
    else if 0x1000 ≤ off && off < 0x2000 && off % 16 == 0 then reg (fun r => { r with qna := aset ((off - 0x1000) / 16) x r.qna })
    else s

/-- What a host read of a register of a die's block returns (R360, R361, R364, R370, R376): before RDY only IDENT and STATUS respond, and a register of
die 0 reads 0 elsewhere; an offset that the table does not list reads 0. It changes nothing. -/
def hostRead (d off : Nat) (s : State) : W64 :=
  let y := getDie s d
  let r := y.regs
  let die0 (x : W64) : W64 := if d = 0 then x else 0
  let build : Option EngCmd := if bit s.regs.funcmode 1 then y.builds.head? else none
  if off = 0 then BitVec.ofNat 64 (identWord d)
  else if off = 8 then BitVec.ofNat 64 (statusReg s d)
  else if !rdy s then 0
  else match off with
  | 0x018 => r.errlog
  | 0x020 => r.prqbase
  | 0x028 => r.prqtail
  | 0x030 => r.prqhead
  | 0x040 => die0 s.regs.pctl
  | 0x048 => die0 s.regs.pooltab
  | 0x050 => die0 s.regs.gobj
  | 0x058 => die0 s.regs.gpatch
  | 0x068 => die0 s.regs.gstat
  | 0x070 => scopeWord s r.scopeq
  | 0x078 => die0 s.regs.funcmode
  | 0x080 => r.chrbase
  | 0x088 => r.chrctl
  | 0x090 => r.chrtail
  | 0x098 => r.chrhead
  | 0x0E0 => die0 s.regs.attbuf
  | 0x0E8 => die0 s.regs.attctl
  | 0x0F0 => die0 s.regs.pwrlim
  | 0x100 => match build with | some c => BitVec.ofNat 64 (2 ^ 63 + (nth 0 c.ops 9).toNat % 2 ^ 52) | none => 0
  | 0x108 => match build with | some c => (getCtx s c.ctx).ctxid | none => 0
  | 0x118 => BitVec.ofNat 64 (hostSize s)
  | _ =>
    if 0x1000 ≤ off && off < 0x2000 && off % 16 == 0 then aget 0 r.qna ((off - 0x1000) / 16)
    else if 0x1000 ≤ off && off < 0x2000 && off % 16 == 8 then
      let k := (off - 0x1008) / 16
      BitVec.ofNat 64 ((r.qncErr.contains k).toNat * 2 ^ 63 + (match getSlot s d k with | some q => occ q | none => 0))
    else 0

/-- A host access of another shape than an aligned 8-byte one reads all ones (R360). -/
def hostReadMalformed : W64 := BitVec.allOnes 64

/-- A write whose register has a behaviour of its own: what it does. -/
def writeMeaning (d off : Nat) (x : W64) : Option (State → Out) :=
  let die0 (f : State → Out) : Option (State → Out) := if d = 0 then some f else none
  match off with
  | 0x008 => some (execStatusAccerrClear d x)
  | 0x010 => die0 (execResetctl x)
  | 0x018 => some (execErrlogClear d x)
  | 0x020 => some (execPrqbaseWrite d x)
  | 0x038 => some (execPgresp d x)
  | 0x040 => match (fld x 30 2).toNat with
    | 0 => none
    | 1 => die0 (execPctlPreempt x)
    | 2 => die0 (execPctlResume x)
    | _ => die0 (execPctlKill x)
  | 0x060 => die0 (execGdoor x)
  | 0x078 => die0 (execFuncmodeWrite x)
  | 0x0E8 => die0 (execAttestation x)
  | 0x0F8 => some (execDispatch d x)
  | 0x110 => some (fun s => if bit x 0 then execBlddoneHandback { s with site := d } else execBlddoneArrive { s with site := d })
  | _ => if 0x1000 ≤ off && off < 0x2000 && off % 16 == 8 then some (execQnc d ((off - 0x1008) / 16) x) else none

/-- HOST_REGISTER_WRITE (R360): an aligned write takes effect in this step, in the order of the host's requests to the die (R63, R111): it is stored, or does what its
register does; a malformed write sets ACCERR; a malformed read changes nothing. -/
def execHostRegisterWrite (access : HostAccess) (s : State) : Out :=
  match access with
  | .malformedRead _ _ => .next s
  | .malformedWrite d _ => .next (accErr d s)
  | .write d off x =>
    match writeMeaning d off x with
    | some f => f { s with site := 0 }
    | none => .next (if rdy s then storeReg d off x s else s)

/-! ### Failures, links, power (R366, R372, R373, R377) -/

/-- The contexts with work on a unit (R373): on a cluster or a cart core those whose waves, teams or threads stand there; on a part of HBM, over whose channels
every region's addresses spread (R43), all with resident work; on a Fleog lane those with an access under way at a peer. DEDUCED (log 85). -/
def ctxsWith (s : State) (u : FailUnit) : List Nat :=
  let all := s.ctxs.map (·.1)
  match u with
  | .cluster c => ctxsOn s c
  | .cartCore c k => ((s.waves.filter (fun w => w.cart && w.cluster == c && w.unit == k)).map (·.ctx)).eraseDups
  | .hbmRow _ _ _ => all.filter (hasWork s)
  | .hbmChannel _ _ => all.filter (hasWork s)
  | .fleogLane _ => all.filter (fun h => s.remote.any (fun r => r.ctx == h))

/-- What is lost where no spare is left: the cluster, the cart core, or the capacity of the channel or row; a port goes on at half rate. -/
def loseUnit (die : Nat) (u : FailUnit) (s : State) : State :=
  match u with
  | .cluster c => updCluster c (fun x => { x with failed := true }) s
  | .cartCore c k => updCluster c (fun x => { x with lostCarts := if x.lostCarts.contains k then x.lostCarts else k :: x.lostCarts }) s
  | _ => updDie die (fun d => { d with lost := if d.lost.contains u then d.lost else u :: d.lost }) s

/-- The spares that can stand for a unit (R373): how many the die has, and the units that share them. -/
def spareGroup (die : Nat) : FailUnit → Nat × (FailUnit → Bool)
  | .cluster _ => (4, fun u => match u with | .cluster _ => true | _ => false)
  | .cartCore c _ => (1, fun u => match u with | .cartCore x _ => x == c | _ => false)
  | .hbmRow st _ _ => (Config.spareRows (2 * die + st), fun u => match u with | .hbmRow x _ _ => x == st | _ => false)
  | .hbmChannel st _ => (2, fun u => match u with | .hbmChannel x _ => x == st | _ => false)
  | .fleogLane p => (2, fun u => match u with | .fleogLane x => x / 8 == p / 8 | _ => false)

/-- A spare is left for the unit: neither the spare map of the configuration record nor a failure since reset has used it. -/
def spareLeft (s : State) (die : Nat) (u : FailUnit) : Bool :=
  let g := spareGroup die u
  let used := (getDie s die).spared ++ (s.boot.spares.filter (fun p => p.1 == die)).map (·.2)
  decide ((used.filter g.2).length < g.1)

/-- Firmware maps a spare in for a unit, where one is left (R373). -/
def substitute (die : Nat) (u : FailUnit) (s : State) : State :=
  if spareLeft s die u then updDie die (fun d => { d with spared := u :: d.spared }) s else loseUnit die u s

/-- PCTL as an operation of the firmware on a context sets it (R363). -/
def firmwarePctl (op h : Nat) (s : State) : State :=
  { s with regs := { s.regs with pctl := BitVec.ofNat 64 (2 ^ 32 + op * 2 ^ 30 + (getCtx s h).ctxid.toNat % 2 ^ 28) } }

/-- One step of the firmware on a failed unit (R373), over the path of PCTL (R363): the next pre-emption, the spare, or the next resume. Answers what is left to
do, and whether it can go on at once. -/
def repairTurn (r : Repair) (s : State) : State × Option Repair × Bool :=
  let e := Instr.unitFailure r.die r.unit
  let preempt (h : Nat) (rest : List Nat) (s : State) : State × Option Repair × Bool :=
    let q := preemptCtx 1 e h s
    if q.2 then (pctlEnd false q.1, some { r with todo := rest, now := none, saved := r.saved ++ [h] }, true)
    else (q.1, some { r with todo := rest, now := some h }, false)
  match r.now, r.todo with
  | some h, rest => preempt h rest s
  | none, h :: rest =>
    if pctlBusy s then (s, some r, false)
    else
      let s1 := firmwarePctl 1 h s
      if preemptRefused s h then (pctlEnd true s1, some { r with todo := rest }, true) else preempt h rest s1
  | none, [] =>
    if bit s.regs.funcmode 2 && !r.mapped then (s, none, false)
    else
      let s1 := if r.mapped then s else substitute r.die r.unit s
      match r.saved with
      | [] => (s1, none, false)
      | h :: rest =>
        if pctlBusy s1 then (s1, some { r with mapped := true }, false)
        else if (getCtx s1 h).stat == .saved then (resumeCtx h (firmwarePctl 2 h s1), some { r with mapped := true, saved := rest }, false)
        else (s1, some { r with mapped := true, saved := rest }, true)

/-- The firmware's steps as far as they go at once. -/
def repairRun : Nat → Repair → State → State × Option Repair
  | 0, r, s => (s, some r)
  | n + 1, r, s =>
    let t := repairTurn r s
    match t.2 with
    | (none, _) => (t.1, none)
    | (some r', true) => repairRun n r' t.1
    | (some r', false) => (t.1, some r')

/-- The place of a failed unit in ERRLOG: the cluster row or port group, and the address (log 76). -/
def failPlace : FailUnit → Nat × Nat
  | .cluster c => (c / 8 % 8, c)
  | .cartCore c k => (c / 8 % 8, c * 16 + k)
  | .hbmRow st ch _ => (st, st * 32 + ch)
  | .hbmChannel st ch => (st, st * 32 + ch)
  | .fleogLane p => (p / 4 % 4, p)

/-- UNIT_FAILURE (R372 kind 3, R373): the firmware pre-empts the contexts with work on the unit; with ER = 0 a spare is mapped in where one is left, and they
resume; with ER = 1 the host goes on from there. At site 1 it goes on with a failure that it is acting on. -/
def execUnitFailure (die : Nat) (unit : FailUnit) (s : State) : Out :=
  let mine (r : Repair) : Bool := r.die == die && r.unit == unit
  let go (r : Repair) (others : List Repair) (s : State) : State :=
    let q := repairRun (2 * (r.todo.length + r.saved.length) + 4) r s
    match q.2 with
    | none => { q.1 with repairs := others }
    | some r' => stallOnce 1 (.unitFailure die unit) { q.1 with repairs := others ++ [r'] }
  .next (if s.site = 1 && s.repairs.any mine then
      (match s.repairs.find? mine with
      | some r => go r (s.repairs.erase r) s
      | none => s)
    else
      let s1 := logError die 3 (failPlace unit).1 (failPlace unit).2 s
      go { die, unit, todo := (ctxsWith s1 unit).filter (fun h => (getCtx s1 h).stat == CtxStat.live) } s1.repairs s1)

/-- POWER_GATING (R377): STATUS.PWR of a die; gated issue changes no result. -/
def execPowerGating (die : Nat) (level : BitVec 2) (s : State) : Out :=
  .next (updDie die (fun d => { d with regs := { d.regs with pwr := level.toNat } }) s)

/-- CLUSTER_CLOCK_STOP (R377): only a cluster with no resident team stops its clock. Every dirty byte of its die goes home first, so that the clock of the die's
remote-data cache may stop too (R46); where the host has still to answer for one, the event is tried again. -/
def execClusterClockStop (cluster : Nat) (stop : Bool) (s : State) : Out :=
  let busy := s.teams.any (fun t => t.cluster == cluster && !t.retired)
  let set (s : State) : State := updCluster cluster (fun c => { c with stopped := stop }) s
  .next (if !stop then set s
    else if busy then s
    else
      let r := devRelease [cluster / 64] s
      if r.2 then set r.1 else stallOnce s.site (.clusterClockStop cluster stop) r.1)

/-- FLIT_CRC_FAIL (R366), for a port: the flit is sent again from the replay buffer, and nothing is lost. -/
def execFlitCrcFail (s : State) : Out := .next s

/-- LINK_LANE_FAIL (R366, R376), for a port: the lane retrains or is replaced, and the port holds its traffic without loss. -/
def execLinkLaneFail (s : State) : Out :=
  let p := s.site
  .next (chrono (p / 16 % 4) (67 + p % 16 / 4) 7 p s)

/-- UNASSIGNED_MAJOR (R166): a word of no instruction traps ILLOP in every active lane of the issuing subgroup. -/
def execUnassignedMajor (word : BitVec 32) (s : State) : Out :=
  let pc := curPc s
  .next (takeTraps ((active s).map (fun l => (l.id, { code := cILLOP, tval := illTval word pc, tepc := pc }))) s)

/-- YIELD_TIMEOUT (R206), for the wave it acts at: yielding lanes are Ready again. -/
def execYieldTimeout (s : State) : Out :=
  .next (updWave s.site (fun w => { w with lanes := w.lanes.map (fun l => match l.st with
    | .waiting (.yield _ _) => { l with st := .ready }
    | _ => l) }) s)

/-- HOST_WRITE_COMPLETION (R100, R45): the host completes a store or an atomic to host memory. Each is performed at its issue here, or fails then (R13), so nothing
waits. -/
def execHostWriteCompletion (s : State) : Out := .next s

end Sys2Proof.Machine
end

