-- ==== Sys2Proof/Machine/Dispatch.lean ====
section
/-! DEFINITION. Which meaning each instruction has: one arm per constructor. -/

namespace Sys2Proof.Machine

def exec (i : Instr) (s : State) : Host.Outcome State Fault Refusal :=
  match i with
  | .add o => Sys2Proof.Machine.execAdd o s
  | .addRg o => Sys2Proof.Machine.execAddRg o s
  | .addIm o => Sys2Proof.Machine.execAddIm o s
  | .sub o => Sys2Proof.Machine.execSub o s
  | .subRg o => Sys2Proof.Machine.execSubRg o s
  | .mul o => Sys2Proof.Machine.execMul o s
  | .mulRg o => Sys2Proof.Machine.execMulRg o s
  | .mulh o => Sys2Proof.Machine.execMulh o s
  | .mulhu o => Sys2Proof.Machine.execMulhu o s
  | .mad o => Sys2Proof.Machine.execMad o s
  | .madRg o => Sys2Proof.Machine.execMadRg o s
  | .div o => Sys2Proof.Machine.execDiv o s
  | .divu o => Sys2Proof.Machine.execDivu o s
  | .rem o => Sys2Proof.Machine.execRem o s
  | .remu o => Sys2Proof.Machine.execRemu o s
  | .and o => Sys2Proof.Machine.execAnd o s
  | .andRg o => Sys2Proof.Machine.execAndRg o s
  | .andIm o => Sys2Proof.Machine.execAndIm o s
  | .or o => Sys2Proof.Machine.execOr o s
  | .orRg o => Sys2Proof.Machine.execOrRg o s
  | .orIm o => Sys2Proof.Machine.execOrIm o s
  | .xor o => Sys2Proof.Machine.execXor o s
  | .xorRg o => Sys2Proof.Machine.execXorRg o s
  | .xorIm o => Sys2Proof.Machine.execXorIm o s
  | .andn o => Sys2Proof.Machine.execAndn o s
  | .andnRg o => Sys2Proof.Machine.execAndnRg o s
  | .shl o => Sys2Proof.Machine.execShl o s
  | .shlRg o => Sys2Proof.Machine.execShlRg o s
  | .shlIm o => Sys2Proof.Machine.execShlIm o s
  | .shr o => Sys2Proof.Machine.execShr o s
  | .shrRg o => Sys2Proof.Machine.execShrRg o s
  | .shrIm o => Sys2Proof.Machine.execShrIm o s
  | .sra o => Sys2Proof.Machine.execSra o s
  | .sraRg o => Sys2Proof.Machine.execSraRg o s
  | .sraIm o => Sys2Proof.Machine.execSraIm o s
  | .rol o => Sys2Proof.Machine.execRol o s
  | .clz o => Sys2Proof.Machine.execClz o s
  | .clzRg o => Sys2Proof.Machine.execClzRg o s
  | .ctz o => Sys2Proof.Machine.execCtz o s
  | .ctzRg o => Sys2Proof.Machine.execCtzRg o s
  | .popc o => Sys2Proof.Machine.execPopc o s
  | .popcRg o => Sys2Proof.Machine.execPopcRg o s
  | .brev o => Sys2Proof.Machine.execBrev o s
  | .bfe o => Sys2Proof.Machine.execBfe o s
  | .bfi o => Sys2Proof.Machine.execBfi o s
  | .bil o => Sys2Proof.Machine.execBil o s
  | .bilx o => Sys2Proof.Machine.execBilx o s
  | .min o => Sys2Proof.Machine.execMin o s
  | .minRg o => Sys2Proof.Machine.execMinRg o s
  | .max o => Sys2Proof.Machine.execMax o s
  | .maxRg o => Sys2Proof.Machine.execMaxRg o s
  | .minu o => Sys2Proof.Machine.execMinu o s
  | .maxu o => Sys2Proof.Machine.execMaxu o s
  | .abs o => Sys2Proof.Machine.execAbs o s
  | .sel o => Sys2Proof.Machine.execSel o s
  | .cmp o => Sys2Proof.Machine.execCmp o s
  | .mov o => Sys2Proof.Machine.execMov o s
  | .movRg o => Sys2Proof.Machine.execMovRg o s
  | .movi o => Sys2Proof.Machine.execMovi o s
  | .moviIw o => Sys2Proof.Machine.execMoviIw o s
  | .movh o => Sys2Proof.Machine.execMovh o s
  | .movhIw o => Sys2Proof.Machine.execMovhIw o s
  | .lea o => Sys2Proof.Machine.execLea o s
  | .fadd o => Sys2Proof.Machine.execFadd o s
  | .faddRg o => Sys2Proof.Machine.execFaddRg o s
  | .fsub o => Sys2Proof.Machine.execFsub o s
  | .fsubRg o => Sys2Proof.Machine.execFsubRg o s
  | .fmul o => Sys2Proof.Machine.execFmul o s
  | .fmulRg o => Sys2Proof.Machine.execFmulRg o s
  | .ffma o => Sys2Proof.Machine.execFfma o s
  | .ffmaRg o => Sys2Proof.Machine.execFfmaRg o s
  | .fmin o => Sys2Proof.Machine.execFmin o s
  | .fminRg o => Sys2Proof.Machine.execFminRg o s
  | .fmax o => Sys2Proof.Machine.execFmax o s
  | .fmaxRg o => Sys2Proof.Machine.execFmaxRg o s
  | .fcmp o => Sys2Proof.Machine.execFcmp o s
  | .frcp o => Sys2Proof.Machine.execFrcp o s
  | .frcpRg o => Sys2Proof.Machine.execFrcpRg o s
  | .frsq o => Sys2Proof.Machine.execFrsq o s
  | .frsqRg o => Sys2Proof.Machine.execFrsqRg o s
  | .fsqrt o => Sys2Proof.Machine.execFsqrt o s
  | .fsqrtRg o => Sys2Proof.Machine.execFsqrtRg o s
  | .fexp2 o => Sys2Proof.Machine.execFexp2 o s
  | .fexp2Rg o => Sys2Proof.Machine.execFexp2Rg o s
  | .flog2 o => Sys2Proof.Machine.execFlog2 o s
  | .flog2Rg o => Sys2Proof.Machine.execFlog2Rg o s
  | .fsin o => Sys2Proof.Machine.execFsin o s
  | .fsinRg o => Sys2Proof.Machine.execFsinRg o s
  | .fcos o => Sys2Proof.Machine.execFcos o s
  | .fcosRg o => Sys2Proof.Machine.execFcosRg o s
  | .frnd o => Sys2Proof.Machine.execFrnd o s
  | .fclass o => Sys2Proof.Machine.execFclass o s
  | .fcvt o => Sys2Proof.Machine.execFcvt o s
  | .dot4 o => Sys2Proof.Machine.execDot4 o s
  | .dot2 o => Sys2Proof.Machine.execDot2 o s
  | .wmul o => Sys2Proof.Machine.execWmul o s
  | .quant o => Sys2Proof.Machine.execQuant o s
  | .dequant o => Sys2Proof.Machine.execDequant o s
  | .pack o => Sys2Proof.Machine.execPack o s
  | .unpack o => Sys2Proof.Machine.execUnpack o s
  | .shfl o => Sys2Proof.Machine.execShfl o s
  | .shflRg o => Sys2Proof.Machine.execShflRg o s
  | .vote o => Sys2Proof.Machine.execVote o s
  | .redux o => Sys2Proof.Machine.execRedux o s
  | .scan o => Sys2Proof.Machine.execScan o s
  | .matchv o => Sys2Proof.Machine.execMatchv o s
  | .elect o => Sys2Proof.Machine.execElect o s
  | .mpopc o => Sys2Proof.Machine.execMpopc o s
  | .mand o => Sys2Proof.Machine.execMand o s
  | .mor o => Sys2Proof.Machine.execMor o s
  | .mxor o => Sys2Proof.Machine.execMxor o s
  | .mnot o => Sys2Proof.Machine.execMnot o s
  | .mmov o => Sys2Proof.Machine.execMmov o s
  | .bra o => Sys2Proof.Machine.execBra o s
  | .call o => Sys2Proof.Machine.execCall o s
  | .setmeet o => Sys2Proof.Machine.execSetmeet o s
  | .brx o => Sys2Proof.Machine.execBrx o s
  | .ret o => Sys2Proof.Machine.execRet o s
  | .exit o => Sys2Proof.Machine.execExit o s
  | .yieldv o => Sys2Proof.Machine.execYieldv o s
  | .nop o => Sys2Proof.Machine.execNop o s
  | .trap o => Sys2Proof.Machine.execTrap o s
  | .bkpt o => Sys2Proof.Machine.execBkpt o s
  | .ld o => Sys2Proof.Machine.execLd o s
  | .st o => Sys2Proof.Machine.execSt o s
  | .ldv o => Sys2Proof.Machine.execLdv o s
  | .gather o => Sys2Proof.Machine.execGather o s
  | .scatter o => Sys2Proof.Machine.execScatter o s
  | .ldlm o => Sys2Proof.Machine.execLdlm o s
  | .stlm o => Sys2Proof.Machine.execStlm o s
  | .lmbc o => Sys2Proof.Machine.execLmbc o s
  | .prefetch o => Sys2Proof.Machine.execPrefetch o s
  | .atom o => Sys2Proof.Machine.execAtom o s
  | .atomo o => Sys2Proof.Machine.execAtomo o s
  | .stc o => Sys2Proof.Machine.execStc o s
  | .fence o => Sys2Proof.Machine.execFence o s
  | .drain o => Sys2Proof.Machine.execDrain o s
  | .bar o => Sys2Proof.Machine.execBar o s
  | .gbar o => Sys2Proof.Machine.execGbar o s
  | .waita o => Sys2Proof.Machine.execWaita o s
  | .cbinit o => Sys2Proof.Machine.execCbinit o s
  | .cbexpect o => Sys2Proof.Machine.execCbexpect o s
  | .cbarrive o => Sys2Proof.Machine.execCbarrive o s
  | .cbwait o => Sys2Proof.Machine.execCbwait o s
  | .cbtest o => Sys2Proof.Machine.execCbtest o s
  | .subscribe h p => Sys2Proof.Machine.execSubscribe h p s
  | .unsub h p => Sys2Proof.Machine.execUnsub h p s
  | .subup h p => Sys2Proof.Machine.execSubup h p s
  | .cpy h p => Sys2Proof.Machine.execCpy h p s
  | .cpyq h p => Sys2Proof.Machine.execCpyq h p s
  | .pub h p => Sys2Proof.Machine.execPub h p s
  | .coll h p => Sys2Proof.Machine.execColl h p s
  | .cflush h p => Sys2Proof.Machine.execCflush h p s
  | .cinv h p => Sys2Proof.Machine.execCinv h p s
  | .cinvI h p => Sys2Proof.Machine.execCinvI h p s
  | .tlease o => Sys2Proof.Machine.execTlease o s
  | .trel o => Sys2Proof.Machine.execTrel o s
  | .tzero o => Sys2Proof.Machine.execTzero o s
  | .tring o => Sys2Proof.Machine.execTring o s
  | .tracc o => Sys2Proof.Machine.execTracc o s
  | .twacc o => Sys2Proof.Machine.execTwacc o s
  | .tldb h p => Sys2Proof.Machine.execTldb h p s
  | .tmma h p => Sys2Proof.Machine.execTmma h p s
  | .tmmq h p => Sys2Proof.Machine.execTmmq h p s
  | .tmsp h p => Sys2Proof.Machine.execTmsp h p s
  | .tepi h p => Sys2Proof.Machine.execTepi h p s
  | .tcon h p => Sys2Proof.Machine.execTcon h p s
  | .rast h p => Sys2Proof.Machine.execRast h p s
  | .hizupd o => Sys2Proof.Machine.execHizupd o s
  | .discard o => Sys2Proof.Machine.execDiscard o s
  | .tbind o => Sys2Proof.Machine.execTbind o s
  | .tbindFlush o => Sys2Proof.Machine.execTbindFlush o s
  | .tex h p => Sys2Proof.Machine.execTex h p s
  | .texg h p => Sys2Proof.Machine.execTexg h p s
  | .texq h p => Sys2Proof.Machine.execTexq h p s
  | .ibox h p => Sys2Proof.Machine.execIbox h p s
  | .itri h p => Sys2Proof.Machine.execItri h p s
  | .bld h p => Sys2Proof.Machine.execBld h p s
  | .spawn h p => Sys2Proof.Machine.execSpawn h p s
  | .launchGrid h p => Sys2Proof.Machine.execLaunchGrid h p s
  | .launchGraph h p => Sys2Proof.Machine.execLaunchGraph h p s
  | .launchArm h p => Sys2Proof.Machine.execLaunchArm h p s
  | .mbpost h p => Sys2Proof.Machine.execMbpost h p s
  | .reorder h p => Sys2Proof.Machine.execReorder h p s
  | .migrate h p => Sys2Proof.Machine.execMigrate h p s
  | .cplflush o => Sys2Proof.Machine.execCplflush o s
  | .cplflushPc o => Sys2Proof.Machine.execCplflushPc o s
  | .cplflushKey o => Sys2Proof.Machine.execCplflushKey o s
  | .qnotify o => Sys2Proof.Machine.execQnotify o s
  | .csrr o => Sys2Proof.Machine.execCsrr o s
  | .csrw o => Sys2Proof.Machine.execCsrw o s
  | .eret o => Sys2Proof.Machine.execEret o s
  | .sysc o => Sys2Proof.Machine.execSysc o s
  | .tlbinvVa o => Sys2Proof.Machine.execTlbinvVa o s
  | .tlbinvCtx o => Sys2Proof.Machine.execTlbinvCtx o s
  | .tlbinvAll o => Sys2Proof.Machine.execTlbinvAll o s
  | .clkrd o => Sys2Proof.Machine.execClkrd o s
  | .fillReturn die line => Sys2Proof.Machine.execFillReturn die line s
  | .homeLoadMiss from_ line => Sys2Proof.Machine.execHomeLoadMiss from_ line s
  | .homeStore cluster pa bytes => Sys2Proof.Machine.execHomeStore cluster pa bytes s
  | .homeAtomic die pa wide op x y => Sys2Proof.Machine.execHomeAtomic die pa wide op x y s
  | .homeWriteback die line => Sys2Proof.Machine.execHomeWriteback die line s
  | .dirtyNotice die region => Sys2Proof.Machine.execDirtyNotice die region s
  | .clusterProbe cluster region mask storer => Sys2Proof.Machine.execClusterProbe cluster region mask storer s
  | .rdcInvalidate die line => Sys2Proof.Machine.execRdcInvalidate die line s
  | .rdcPull die line => Sys2Proof.Machine.execRdcPull die line s
  | .rdcDrainTimer die line => Sys2Proof.Machine.execRdcDrainTimer die line s
  | .remoteTagInstall die region install => Sys2Proof.Machine.execRemoteTagInstall die region install s
  | .hold cluster region fmt words => Sys2Proof.Machine.execHold cluster region fmt words s
  | .dataMsg cluster region fmt words => Sys2Proof.Machine.execDataMsg cluster region fmt words s
  | .inval cluster region fmt => Sys2Proof.Machine.execInval cluster region fmt s
  | .probeTimeout holder line => Sys2Proof.Machine.execProbeTimeout holder line s
  | .atomoAccept ctx pa key value => Sys2Proof.Machine.execAtomoAccept ctx pa key value s
  | .notifyFold die slot => Sys2Proof.Machine.execNotifyFold die slot s
  | .tcbDecrement ctx die tcb by_ => Sys2Proof.Machine.execTcbDecrement ctx die tcb by_ s
  | .remoteResponse index ok => Sys2Proof.Machine.execRemoteResponse index ok s
  | .peerAccess req => Sys2Proof.Machine.execPeerAccess req s
  | .hostMemRead pa size => Sys2Proof.Machine.execHostMemRead pa size s
  | .hostMemWrite pa bytes => Sys2Proof.Machine.execHostMemWrite pa bytes s
  | .pgresp die value => Sys2Proof.Machine.execPgresp die value s
  | .pctlPreempt value => Sys2Proof.Machine.execPctlPreempt value s
  | .pctlResume value => Sys2Proof.Machine.execPctlResume value s
  | .pctlKill value => Sys2Proof.Machine.execPctlKill value s
  | .gdoor value => Sys2Proof.Machine.execGdoor value s
  | .qnc die slot value => Sys2Proof.Machine.execQnc die slot value s
  | .dispatch die value => Sys2Proof.Machine.execDispatch die value s
  | .funcmodeWrite value => Sys2Proof.Machine.execFuncmodeWrite value s
  | .prqbaseWrite die value => Sys2Proof.Machine.execPrqbaseWrite die value s
  | .resetctl value => Sys2Proof.Machine.execResetctl value s
  | .errlogClear die value => Sys2Proof.Machine.execErrlogClear die value s
  | .statusAccerrClear die value => Sys2Proof.Machine.execStatusAccerrClear die value s
  | .attestation value => Sys2Proof.Machine.execAttestation value s
  | .hostRegisterWrite access => Sys2Proof.Machine.execHostRegisterWrite access s
  | .correctedError die unit addr => Sys2Proof.Machine.execCorrectedError die unit addr s
  | .unitFailure die unit => Sys2Proof.Machine.execUnitFailure die unit s
  | .powerGating die level => Sys2Proof.Machine.execPowerGating die level s
  | .clusterClockStop cluster stop => Sys2Proof.Machine.execClusterClockStop cluster stop s
  | .powerOn cfg => Sys2Proof.Machine.execPowerOn cfg s
  | .unassignedMajor word => Sys2Proof.Machine.execUnassignedMajor word s
  | .homeSubscriptionRequest req => Sys2Proof.Machine.execHomeSubscriptionRequest req s
  | .loadReturn => Sys2Proof.Machine.execLoadReturn s
  | .pageWalk => Sys2Proof.Machine.execPageWalk s
  | .walkComplete => Sys2Proof.Machine.execWalkComplete s
  | .pageCopyDone => Sys2Proof.Machine.execPageCopyDone s
  | .logReplay => Sys2Proof.Machine.execLogReplay s
  | .engineHandback => Sys2Proof.Machine.execEngineHandback s
  | .fpParkAction => Sys2Proof.Machine.execFpParkAction s
  | .supvPostRetry => Sys2Proof.Machine.execSupvPostRetry s
  | .waitaWake => Sys2Proof.Machine.execWaitaWake s
  | .waitaPeerPoll => Sys2Proof.Machine.execWaitaPeerPoll s
  | .couplerAccept => Sys2Proof.Machine.execCouplerAccept s
  | .couplerTimeout => Sys2Proof.Machine.execCouplerTimeout s
  | .waveAdmit => Sys2Proof.Machine.execWaveAdmit s
  | .cartDispatch => Sys2Proof.Machine.execCartDispatch s
  | .teamAdmit => Sys2Proof.Machine.execTeamAdmit s
  | .qmDecision => Sys2Proof.Machine.execQmDecision s
  | .leaseGrant => Sys2Proof.Machine.execLeaseGrant s
  | .leaseExpiry => Sys2Proof.Machine.execLeaseExpiry s
  | .tensorCommandDone => Sys2Proof.Machine.execTensorCommandDone s
  | .tconStep => Sys2Proof.Machine.execTconStep s
  | .ringTransfer => Sys2Proof.Machine.execRingTransfer s
  | .copyEngineDone => Sys2Proof.Machine.execCopyEngineDone s
  | .publishDone => Sys2Proof.Machine.execPublishDone s
  | .collectiveDone => Sys2Proof.Machine.execCollectiveDone s
  | .sbeCommandDone => Sys2Proof.Machine.execSbeCommandDone s
  | .remoteAccessTimeout => Sys2Proof.Machine.execRemoteAccessTimeout s
  | .pctlDone => Sys2Proof.Machine.execPctlDone s
  | .teamResumePlace => Sys2Proof.Machine.execTeamResumePlace s
  | .blddoneArrive => Sys2Proof.Machine.execBlddoneArrive s
  | .blddoneHandback => Sys2Proof.Machine.execBlddoneHandback s
  | .uncorrectableError => Sys2Proof.Machine.execUncorrectableError s
  | .thermalTrip => Sys2Proof.Machine.execThermalTrip s
  | .flitCrcFail => Sys2Proof.Machine.execFlitCrcFail s
  | .linkLaneFail => Sys2Proof.Machine.execLinkLaneFail s
  | .yieldTimeout => Sys2Proof.Machine.execYieldTimeout s
  | .backInvalidationAnswer => Sys2Proof.Machine.execBackInvalidationAnswer s
  | .hostWriteCompletion => Sys2Proof.Machine.execHostWriteCompletion s
  | .pageRequestRoomRecheck => Sys2Proof.Machine.execPageRequestRoomRecheck s

end Sys2Proof.Machine
end

