-- ==== Sys2Proof/Machine/Legal.lean ====
section
/-! DEFINITION. What an instruction uses: its pipe, the registers it reads and writes, and whether its fields break a rule that traps ILLOP (R142, R156
to R165, R167, R174 to R176 and the forms of each instruction); the checks of a chain (R157, R158). -/

namespace Sys2Proof.Machine

/-- A register as R157 counts it. -/
inductive Res where
  | v (k : Nat) | w (k : Nat) | m (k : Nat) | mb (k : Nat) | acc (k : Nat) | csr (k : Nat)
deriving DecidableEq, Repr, Inhabited

/-- The pipes of R156; NOP belongs to none. -/
inductive Pipe where
  | s | v | m | x | none
deriving DecidableEq, Repr, Inhabited

/-- What one instruction uses. `ok`: no rule of its own makes it trap ILLOP. -/
structure Use where
  ok : Bool := true
  pipe : Pipe
  reads : List Res := []
  writes : List Res := []
  xfer : Bool := false
  waveOnly : Bool := false
  /-- what TRACC and TWACC count in a chain beside these (R248) -/
  chainReads : List Res := []
  chainWrites : List Res := []
deriving DecidableEq, Repr, Inhabited

/-- The register exists on the executor (R142, R159): v below the allocation, mb on a cart. -/
def resOk (cart : Bool) (regs : Nat) : Res → Bool
  | .v k => k < regs
  | .w k => k < 64
  | .m k => k < 16
  | .mb k => cart && k < 8
  | .acc k => k < 8
  | .csr _ => true

/-- n consecutive v registers from k; n registers of another class from k. -/
def regGroup (c : Cls) (k n : Nat) : List Res :=
  (span k n).map (fun i => match c with | .v => Res.v i | .w => .w i | .m => .m i | .mb => .mb i)

/-- A guard (R159): G = 0 with GN = 1 is illegal. -/
def guardOk (g : BitVec 4) (n : Bool) : Bool := !(g == 0 && n)

def guardReads (g : BitVec 4) : List Res := if g = 0 then [] else [.m g.toNat]

/-- The instruction fits the executor: R159's register ranges. -/
def Use.fits (u : Use) (cart : Bool) (regs : Nat) : Bool := u.ok && u.reads.all (resOk cart regs) && u.writes.all (resOk cart regs)

/-! ### Arithmetic (R162, R177, R186, R190, R195) -/

/-- An operand field: whether it is read, its class and number, and how many registers it is on v. -/
structure Opd where
  read : Bool
  k : Cls
  f : Nat
  n : Nat := 1
deriving DecidableEq, Repr, Inhabited

/-- A source field obeys R162: unread means class 0 and number 0; read means v or w, or the class given; a group is aligned (R115, R175). -/
def Opd.ok (o : Opd) (kd : Cls) (cls : Cls → Bool) : Bool :=
  if o.read then cls o.k && (kd != .w || o.k == .w) && (o.k != .v || o.f % o.n == 0) else o.k == .v && o.f == 0

def Opd.res (o : Opd) : List Res := if o.read then regGroup o.k o.f (if o.k == .v then o.n else 1) else []

/-- Class v or w. -/
def vOrW (c : Cls) : Bool := c == .v || c == .w

/-- An arithmetic instruction: its pipe, how many sources it reads (A; A and B; A, B and C), the registers of a v operand for D, A, B and C, types and
modifiers it accepts, whether it rounds, and whether it also reads D. -/
def aluUse (r : Rec) (pipe : Pipe) (srcs : Nat) (nd na nb nc : Nat) (tys : List Nat) (mods rounds readD : Bool) (kcm : Bool := false) : Use :=
  let a : Opd := { read := 1 ≤ srcs, k := r.ka, f := r.a, n := na }
  let b : Opd := { read := 2 ≤ srcs, k := r.kb, f := r.b, n := nb }
  let c : Opd := { read := 3 ≤ srcs, k := r.kc, f := r.c, n := nc }
  let d : Opd := { read := true, k := r.kd, f := r.d, n := nd }
  { ok := guardOk r.g r.n && !r.zero && tys.contains r.ty && mods && (rounds || r.rm == .rne) && vOrW r.kd && d.ok .v vOrW
      && (if r.imm.isSome && srcs = 0 then r.a == 0 else a.ok r.kd vOrW) && (r.imm.isSome || b.ok r.kd vOrW)
      && c.ok r.kd (if kcm then (· == .m) else vOrW)
    pipe
    reads := guardReads r.g ++ a.res ++ (if r.imm.isSome then [] else b.res) ++ c.res ++ (if readD then d.res else [])
    writes := d.res }

/-- Pipe V, or S where the destination is w (R167). -/
def vsPipe (r : Rec) : Pipe := if r.kd == .w then .s else .v

/-- The registers of a v operand of an integer function: a pair with TY 6 (R174). -/
def intN (r : Rec) : Nat := if r.ty = 6 then 2 else 1

/-- An integer function with the first `srcs` sources. -/
def intUse (r : Rec) (srcs : Nat) (mods : Bool := r.md == 0) : Use :=
  let n := intN r
  aluUse r (vsPipe r) srcs n n n n [0, 6] mods false false

/-- CMP and FCMP, whose D is an m register (R183, R188). -/
def cmpUse (r : Rec) (n : Nat) (tys : List Nat) (mods : Bool) : Use :=
  let u := aluUse { r with kd := .v, d := 0 } .v 2 1 n n n tys mods false false
  { u with ok := u.ok && r.kd == .m, writes := [.m r.d] }

/-- SEL: C is an m register and D is v (R183). -/
def selUse (r : Rec) : Use :=
  let n := intN r
  let u := aluUse r .v 3 n n n 1 [0, 6] (r.md == 0) false false true
  { u with ok := u.ok && r.kd == .v }

/-- MOV's class combinations (R184). -/
def movUse (r : Rec) : Use :=
  let good := match r.kd, r.ka with
    | .v, .v => true | .v, .w => true | .w, .w => true | .v, .mb => true | .w, .mb => true | .mb, .v => true | .mb, .w => true
    | _, _ => false
  { ok := guardOk r.g r.n && !r.zero && r.ty == 0 && r.rm == .rne && good && (r.md == 0 || (r.md == 1 && r.kd == .v && r.ka == .mb))
      && r.kb == .v && r.b == 0 && r.kc == .v && r.c == 0
    pipe := vsPipe r
    reads := guardReads r.g ++ regGroup r.ka r.a 1
    writes := regGroup r.kd r.d 1 }

/-- MOVI and MOVH (R184): A is 0; MOVH into a v register takes 16 bits and reads D. -/
def moviUse (r : Rec) (high : Bool) : Use :=
  let u := aluUse r (vsPipe r) 0 1 1 1 1 [0] true false high
  let i := r.imm.getD 0
  { u with ok := u.ok && (!high || r.kd == .w || decide (0 ≤ i ∧ i < 65536)) }

/-- LEA (R185): D and A are w registers or pairs, B one register. -/
def leaUse (r : Rec) : Use := aluUse r (vsPipe r) 2 2 2 1 1 [0] (r.md < 8) false false

/-- The floating pipe of R167. -/
def fltPipe (fn : Nat) (r : Rec) : Pipe := if 7 ≤ fn && fn ≤ 13 then .x else vsPipe r

/-- A floating function (R186): a w destination takes TY 0 only. -/
def fltUse (fn : Nat) (r : Rec) (srcs : Nat) (tys : List Nat) (rounds : Bool) : Use :=
  let u := aluUse r (fltPipe fn r) srcs 1 1 1 1 tys (r.md == 0) rounds false
  { u with ok := u.ok && (r.kd != .w || r.ty == 0) }

/-- FCVT (R189). -/
def fcvtUse (r : Rec) : Use :=
  let t := cvtTypes r
  let ws := t.1.width
  let wd := t.2.width
  let na := if wd < ws then ws / wd else 1
  let nd := if ws < wd then wd / ws else 1
  let onW (t : NumTy) : Bool := match t with | .fl f => f == .fp32 | _ => true
  let u := aluUse r (vsPipe r) 1 nd na 1 1 [0, 2, 3, 4, 5] (r.md / 16 % 4 == 0 && (numTyOf (r.md % 16)).isSome) true false
  { u with ok := u.ok && t.1 != t.2 && r.kd == r.ka && (r.kd != .w || (onW t.1 && onW t.2)) }

/-- DOT4 and DOT2 (R190, R191). -/
def dotUse (r : Rec) (four : Bool) : Use :=
  aluUse r (vsPipe r) 3 1 1 1 1 (if four then [4, 5, 7] else [2, 3]) (if r.ty = 7 then r.md < 4 else r.md == 0) (r.ty != 7) false

/-- A packed function whose D, or A, is a group (R190): D is v, and a group is of v registers (R175). A source that is one register may be a w register, whose low
word counts in every lane: DEDUCED (log 57). -/
def packedUse (r : Rec) (srcs nd na : Nat) (tys : List Nat) (mods rounds : Bool) : Use :=
  let u := aluUse r .v srcs nd na 1 1 tys mods rounds false
  { u with ok := u.ok && r.kd == .v && (na == 1 || r.ka == .v) && nd != 0 && na != 0 }

def wmulUse (r : Rec) : Use := packedUse r 2 2 1 [2, 3, 7] (if r.ty = 7 then r.md < 4 else r.md == 0) (r.ty != 7)

/-- The ratios 1 and 8 are illegal in QUANT and DEQUANT (R193). -/
def quantOk (r : Rec) : Bool := r.md < 2 && (quantRatio r == 2 || quantRatio r == 4)
def quantUse (r : Rec) : Use := packedUse r 3 1 (quantRatio r) [0, 2, 3] (quantOk r) true
def dequantUse (r : Rec) : Use := packedUse r 3 (quantRatio r) 1 [0, 2, 3] (quantOk r) true
def packUse (r : Rec) : Use := packedUse r 1 1 (2 * 2 ^ (r.md % 4)) [0] (r.md < 3) false
def unpackUse (r : Rec) : Use := packedUse r 1 (2 * 2 ^ (r.md % 4)) 1 [0] (r.md < 8 && r.md % 4 != 3) false

/-- A lane function (R195): member mask from KC; the classes that D, A and B may have. -/
def laneUse (r : Rec) (kd ka : Cls → Bool) (a b : Bool) (nd na : Nat) (tys : List Nat) (mods rounds : Bool) : Use :=
  let oa : Opd := { read := a, k := r.ka, f := r.a, n := na }
  let ob : Opd := { read := b, k := r.kb, f := r.b }
  let od : Opd := { read := true, k := r.kd, f := r.d, n := nd }
  { ok := guardOk r.g r.n && !r.zero && tys.contains r.ty && mods && (rounds || r.rm == .rne) && kd r.kd && oa.ok .v ka && ob.ok .v vOrW && od.ok .v kd
      && (r.kc == .m || (r.kc == .v && r.c == 0))
    pipe := .v
    reads := guardReads r.g ++ oa.res ++ ob.res ++ (if r.kc == .m then [.m r.c] else [])
    writes := od.res }

def shflUse (r : Rec) : Use :=
  let rd := r.md == 4
  laneUse r (fun k => if rd then k == .w else k == .v) (· == .v) true true 1 1 [0] (r.md < 5 && (!rd || r.kb == .w)) false
def voteUse (r : Rec) : Use :=
  laneUse r (fun k => k == .m || k == .w) (· == .m) true false 1 1 [0] (r.md < 8 && (r.md < 4 || (r.md == 7 && r.kd == .w))) false
def reduxUse (r : Rec) : Use :=
  let n := intN r
  laneUse r vOrW (· == .v) true false n n [0, 1, 6] (r.md ≤ 10 && (r.md < 8 || r.ty == 0)) (r.md == 8)
def scanUse (r : Rec) : Use :=
  let n := intN r
  laneUse r (· == .v) (· == .v) true false n n [0, 1, 6] (r.md < 32 && r.md % 16 ≤ 10 && (r.md % 16 < 8 || r.ty == 0)) (r.md % 16 == 8)
def matchUse (r : Rec) : Use := laneUse r (· == .v) (· == .v) true false 1 (intN r) [0, 6] (r.md == 0) false
def electUse (r : Rec) : Use := laneUse r (fun k => k == .w || k == .m) (· == .v) false false 1 1 [0] (r.md == 0) false
def mpopcUse (r : Rec) : Use := laneUse r vOrW (· == .m) true false 1 1 [0] (r.md < 2 && (r.md == 0 || r.kd == .v)) false

/-- A mask instruction (R200). -/
def maskUse (o : RG) (two : Bool) : Use :=
  { ok := guardOk o.g o.n && !o.x && (two || o.b == 0)
    pipe := .s
    reads := guardReads o.g ++ [.m o.a.toNat] ++ (if two then [.m o.b.toNat] else [])
    writes := [.m o.d.toNat] }

/-! ### Control (R201) -/

/-- CSR numbers of MEET and LINK (R354). -/
def csrMeet := 0x10
def csrLink := 0x11

/-- BRA, CALL and SETMEET: what else they read and write. -/
def brUse (o : BR) (xfer : Bool) (ws : List Res) (u : Bool) : Use :=
  { ok := guardOk o.g o.n && u, pipe := .x, reads := guardReads o.g, writes := ws, xfer }

/-- BRX and RET: U is B[0]. -/
def brxUse (o : RG) (rs : List Res) (fields : Bool) : Use :=
  { ok := guardOk o.g o.n && o.d == 0 && o.b.toNat < 2 && fields, pipe := .x, reads := guardReads o.g ++ rs, xfer := true }

/-- The Z format: YIELD and NOP are unguarded and without code. -/
def zUse (o : Z) (pipe : Pipe) (xfer plain bare : Bool) : Use :=
  { ok := guardOk o.g o.n && (!plain || o.code == 0) && (!bare || (o.g == 0 && !o.n)), pipe, reads := guardReads o.g, xfer }

/-! ### Memory (R165, R208 to R219, R228) -/

/-- The data registers of an access: a w register, a v register or a pair (R211). -/
def dataRes (o : MA) (wide : Bool) : List Res :=
  if o.h.x then [.w o.h.d.toNat] else regGroup .v o.h.d.toNat (if wide then 2 else 1)

/-- An MA instruction's address fields and common rules (R165); `loc` for the local-memory majors. That NB = 1 needs SCL = 0 and KB = 0 too, which R217 says of its
example, is read for every MA major: DEDUCED (log 73). -/
def maOk (o : MA) (loc : Bool) (acq rel : Bool) (szs : List Nat) (opx xOk : Bool) : Bool :=
  guardOk o.h.g o.h.n && szs.contains o.sz.toNat && opx && (xOk || !o.h.x)
    && (match o.ord with | .plain => true | .acq => acq | .rel => rel | .ar => acq && rel)
    && (!o.nb || (o.h.b == 0 && o.scl == 0 && !o.kb))
    && (if loc then !o.p64 else (o.ka != o.p64) && (!o.p64 || o.h.a.toNat % 2 == 0))

def maReads (o : MA) : List Res :=
  guardReads o.h.g ++ (if o.p64 then regGroup .v o.h.a.toNat 2 else if o.ka then [.w o.h.a.toNat] else [.v o.h.a.toNat])
    ++ (if o.nb then [] else if o.kb then [.w o.h.b.toNat] else [.v o.h.b.toNat])

/-- D of an access of 8 bytes on v is a pair (R211). -/
def dataPair (o : MA) : Bool := o.h.x || o.sz != 3 || o.h.d.toNat % 2 == 0

/-- .sx is legal below the width of D (R211). -/
def sxOk (o : MA) : Bool := !bit o.opx 0 || (if o.h.x then o.sz.toNat < 3 else o.sz.toNat < 2)

def loadUse (o : MA) (loc acq : Bool) (szs : List Nat) (opx xOk : Bool) : Use :=
  { ok := maOk o loc acq false szs opx xOk && dataPair o, pipe := .m, reads := maReads o, writes := dataRes o (o.sz == 3) }

def storeUse (o : MA) (loc rel : Bool) (xOk : Bool) : Use :=
  { ok := maOk o loc false rel [0, 1, 2, 3] (o.opx == 0) xOk && dataPair o, pipe := .m, reads := maReads o ++ dataRes o (o.sz == 3) }

/-- GATHER and SCATTER: one address source is per lane (R212). -/
def perLane (o : MA) : Bool := (!o.ka && o.p64) || (!o.nb && !o.kb)

/-- PREFETCH (R216). -/
def prefetchUse (o : MA) : Use :=
  { ok := maOk o false false false [0] (o.opx.toNat < 3) false && o.h.d == 0, pipe := .m, reads := maReads o }

/-- ATOM (R217): the operand group, and the first register or pair written. -/
def atomUse (o : MA) : Use :=
  let d := o.h.d.toNat
  let cas := o.opx == 9
  let n := (if o.sz = 3 then 2 else 1) * (if cas then 2 else 1)
  { ok := maOk o false true true [2, 3] (if o.sz = 3 then o.opx.toNat < 10 else o.opx.toNat < 13) true
      && (if o.h.x then !cas || d ≤ 62 else d % n == 0)
    pipe := .m
    reads := maReads o ++ (if o.h.x then regGroup .w d (if cas then 2 else 1) else regGroup .v d n)
    writes := dataRes o (o.sz == 3)
    chainWrites := if o.h.x then regGroup .w d (if cas then 2 else 1) else regGroup .v d n }

/-- ATOMO (R218). -/
def atomoUse (o : MA) : Use :=
  let d := o.h.d.toNat
  { ok := maOk o false false true [2] (o.opx == 0) true && (if o.h.x then d ≤ 62 else d % 2 == 0)
    pipe := .m, reads := maReads o ++ regGroup (if o.h.x then .w else .v) d 2 }

/-- STC (R228): KA is 1 and w[A + 1] holds the address of the task control block. -/
def stcUse (o : MA) : Use :=
  { ok := maOk o false false true [0, 1, 2, 3] (o.opx == 0) true && dataPair o && o.ka
    pipe := .m, reads := maReads o ++ dataRes o (o.sz == 3) ++ [.w (o.h.a.toNat + 1)] }

/-! ### Synchronisation and engines (R208, R221 to R227, R229 to R234) -/

def syUse (_o : SY) (ok : Bool) (rs ws : List Res) : Use := { ok, pipe := .m, reads := rs, writes := ws }

def noOrd (o : SY) : Bool := o.ord == .plain && o.scope == 0

def fenceUse (o : SY) : Use := syUse o (o.ord != .plain && o.d == 0 && o.a == 0 && o.b == 0 && !o.x) [] []
def drainUse (o : SY) : Use := syUse o (noOrd o && o.d == 0 && o.a == 0 && o.b == 0 && !o.x) [] []
def barUse (o : SY) (gang : Bool) : Use :=
  syUse o (o.ord == .plain && o.d == 0 && o.b == 0 && !o.x && (!gang || o.scope != 0)) [.m o.a.toNat] []
def waitaUse (o : SY) : Use :=
  syUse o (o.ord == .plain || o.ord == .acq) [.w o.d.toNat, .w o.a.toNat, .w o.b.toNat] [.w o.d.toNat]
def cbUse (o : SY) (withScope count dest phase : Bool) : Use :=
  syUse o (o.ord == .plain && (withScope || o.scope == 0) && (dest || o.d == 0) && (count || o.b == 0) && (phase || !o.x))
    ([.w o.a.toNat] ++ (if count then [.w o.b.toNat] else [])) (if dest then [.w o.d.toNat] else [])

/-- An XP instruction whose operands are w registers. -/
def xpUse (h : RG) (pipe : Pipe) (ok : Bool) (rs ws : List Res) : Use :=
  { ok := guardOk h.g h.n && ok, pipe, reads := guardReads h.g ++ rs, writes := ws }

def subUse (h : RG) (p : SubP) (fmt mode : Bool) : Use :=
  xpUse h .m (h.b == 0 && !h.x && (if fmt then p.fmt.toNat < 5 else p.fmt == 0) && (mode || !p.mode)) [.w h.a.toNat] [.w h.d.toNat]
def cpyUse (h : RG) (p : CpyP) : Use := xpUse h .m (!h.x) [.w h.d.toNat, .w h.a.toNat, .w h.b.toNat, .w p.cb.toNat] []
def cpyqUse (h : RG) (p : CpyqP) : Use :=
  xpUse h .m (!h.x && p.gs != 3) [.w h.d.toNat, .w h.a.toNat, .w h.b.toNat, .w p.cb.toNat, .w p.s.toNat] []
def engUse (h : RG) (p : EngP) : Use := xpUse h .m (h.d == 0 && h.b == 0 && !h.x) [.w h.a.toNat, .w p.cb.toNat] []
def cacheUse (h : RG) : Use := xpUse h .m (h.d == 0 && !h.x) [.w h.a.toNat, .w h.b.toNat] []

/-! ### The tensor array (R242, R248 to R250, R254 to R256) -/

/-- An RG instruction of the X, M or S pipe with its rule on the fields. -/
def rgUse (o : RG) (pipe : Pipe) (ok : Bool) (rs ws : List Res) : Use := xpUse o pipe ok rs ws

def tleaseUse (o : RG) : Use := rgUse o .x (o.d == 0 && o.a == 0 && !o.x) [] []
def trelUse (o : RG) : Use := rgUse o .x (o.d == 0 && o.a == 0 && o.b == 0 && !o.x) [] []
def tzeroUse (o : RG) : Use := rgUse o .x (o.a == 0 && o.b == 0 && !o.x) [] [.acc o.d.toNat]
def tringUse (o : RG) : Use := rgUse o .x (o.d.toNat < 2 && o.a.toNat < 2 && o.d != o.a && o.b == 0 && !o.x) [] []

/-- The eight registers, or those at or below v63, that R248 counts. -/
def eightFrom (k : Nat) : List Res := regGroup .v k (Nat.min 8 (64 - k))

def traccUse (o : RG) : Use :=
  { rgUse o .x true [.acc o.a.toNat, .w o.b.toNat] (.v o.d.toNat :: (if o.x then [.acc o.a.toNat] else [])) with chainWrites := eightFrom o.d.toNat }
def twaccUse (o : RG) : Use :=
  { rgUse o .x (!o.x) [.v o.a.toNat, .w o.b.toNat] [.acc o.d.toNat] with chainReads := eightFrom o.a.toNat }
def tldbUse (h : RG) (p : TldbP) : Use := xpUse h .x (h.d == 0 && !h.x && p.ty.toNat < 6) [.w h.a.toNat, .w h.b.toNat] []

/-- The three multiply steps (R250). -/
def multUse (h : RG) (ok : Bool) (rs : List Res) : Use :=
  xpUse h .x ok ((if h.x then [] else [.acc h.d.toNat]) ++ [.w h.a.toNat, .w h.b.toNat] ++ rs) [.acc h.d.toNat]

def tmmaUse (h : RG) (p : TldbP) : Use := multUse h (p.ty.toNat < 4) []
def tmmqUse (h : RG) (p : TmmqP) : Use := multUse h (p.ty.toNat < 4 && p.gs != 3 && p.ce != 0) []
def tmspUse (h : RG) (p : TmspP) : Use :=
  multUse h (p.ty.toNat < 4 && (p.cbv || (p.c == 0 && !p.phx))) (.w p.m.toNat :: (if p.cbv then [.w p.c.toNat] else []))
def tepiUse (h : RG) (p : TepiP) : Use :=
  xpUse h .x (!h.x && p.ofmt.toNat < 5 && p.act != 3 && (p.act != 2 || p.sr != 0))
    ([.w h.d.toNat, .acc h.a.toNat, .w h.b.toNat, .w p.c.toNat] ++ (if p.sr = 0 then [] else [.w p.sr.toNat])
      ++ (if p.br = 0 then [] else [.w p.br.toNat])) []
def tconUse (h : RG) : Use := xpUse h .x (h.d == 0 && h.b == 0 && !h.x) [.w h.a.toNat] []

/-! ### Rendering (R265, R277, R278, R284, R286, R295, R298) -/

def rastUse (h : RG) (p : RastP) : Use :=
  { xpUse h .x (!h.x && p.spp != 3 && p.cull != 3 && (p.hiz || (!p.ez && p.hr == 0)))
      (regGroup .w h.a.toNat 6 ++ [.w h.b.toNat, .w p.s.toNat] ++ (if p.hiz then [.w p.hr.toNat] else []))
      (regGroup .v h.d.toNat 5 ++ [.w h.b.toNat]) with waveOnly := true }
def hizupdUse (o : RG) : Use := { rgUse o .x (o.d == 0 && !o.x) [.w o.a.toNat, .w o.b.toNat] [] with waveOnly := true }
def discardUse (o : RG) : Use := { rgUse o .x (o.d == o.a && o.b == 0) [.v o.a.toNat] [.v o.a.toNat] with waveOnly := true }
def tbindUse (o : RG) : Use := rgUse o .x (o.d.toNat < 8 && o.b == 0 && !o.x) [.w o.a.toNat] []
def tbindFlushUse (o : RG) : Use := rgUse o .x (o.d == 0 && o.a == 0 && o.b == 0 && o.x) [] []
def texUse (h : RG) (p : TexP) (lod chan : Bool) : Use :=
  { xpUse h .x (!h.x && h.d.toNat % 4 == 0 && (lod || !p.lod) && (chan || p.ch == 0))
      (regGroup .v h.a.toNat (2 + p.lod.toNat) ++ [.w h.b.toNat]) (regGroup .v h.d.toNat 4) with waveOnly := true }

/-- IBOX writes a group of 2 and ITRI one of 4 (R295). -/
def rayUse (h : RG) (n : Nat) : Use :=
  xpUse h .x (h.d.toNat % n == 0 && h.a.toNat % 8 == 0 && (h.x || h.b.toNat % 2 == 0))
    (regGroup .v h.a.toNat 8 ++ (if h.x then [.w h.b.toNat] else regGroup .v h.b.toNat 2)) (regGroup .v h.d.toNat n)
def bldUse (h : RG) (p : EngP) : Use := xpUse h .m (h.d == 0 && h.b == 0 && !h.x) [.w h.a.toNat, .w p.cb.toNat] []

/-! ### Work creation (R308, R312, R315, R319, R324) -/

def mbpostUse (h : RG) (p : MbpostP) : Use :=
  xpUse h .m (h.b == 0 && (h.x || h.d == 0)) (.w h.a.toNat :: regGroup .mb 0 (p.n.toNat + 1)) (if h.x then [.w h.d.toNat] else [])
def reorderUse (h : RG) : Use :=
  { xpUse h .m (h.d == 0 && !h.x) [.v h.a.toNat, .w h.b.toNat] [] with xfer := true, waveOnly := true }
def migrateUse (h : RG) : Use :=
  { xpUse h .m (h.b == 0 && (h.x || h.d == 0)) [.w h.a.toNat] (if h.x then [.v h.d.toNat] else []) with xfer := true }
def spawnUse (h : RG) (p : SpawnP) : Use :=
  xpUse h .m ((p.rel || p.scope == 0) && (h.x || h.d == 0)) (.w h.a.toNat :: regGroup .v h.b.toNat (4 * (p.nrs.toNat + 1)))
    (if h.x then [.w h.d.toNat] else [])
def launchUse (h : RG) (graph : Bool) : Use :=
  xpUse h .m (!h.x && (graph || h.b == 0)) (.w h.a.toNat :: (if graph then [.w h.b.toNat] else [])) [.w h.d.toNat]

/-- An RG instruction whose guard must be 0. -/
def unguarded (o : RG) : Bool := o.g == 0 && !o.n

/-- CPLFLUSH: B, the form, is 0, 1 or 2. -/
def cplflushUse (o : RG) (form : Nat) : Use :=
  rgUse o .m (o.d == 0 && unguarded o && !o.x && o.b.toNat == form && (form != 0 || o.a == 0)) (if form = 0 then [] else [.w o.a.toNat]) []
def qnotifyUse (o : RG) : Use := rgUse o .m (o.d == 0 && unguarded o && !o.x) [.w o.a.toNat, .w o.b.toNat] []

/-! ### The system (R335, R354 to R358) -/

def csrReg (o : CR) : Res := if o.k then .w o.reg.toNat else .v o.reg.toNat
def csrrUse (o : CR) : Use :=
  { ok := guardOk o.g o.n && csrOk o false, pipe := .s, reads := guardReads o.g ++ [.csr (csrNum o)], writes := [csrReg o] }
def csrwUse (o : CR) : Use :=
  { ok := guardOk o.g o.n && csrOk o true, pipe := .s, reads := guardReads o.g ++ [csrReg o], writes := [.csr (csrNum o)] }
/-- TLBINV: D is the form. -/
def tlbinvUse (o : RG) (form : Nat) (a b : Bool) : Use :=
  rgUse o .m (unguarded o && !o.x && o.d.toNat == form && (a || o.a == 0) && (b || o.b == 0)) ((if a then [.w o.a.toNat] else []) ++ (if b then [.w o.b.toNat] else [])) []
def clkrdUse (o : RG) : Use := rgUse o .s (o.a == 0 && o.b == 0 && !o.x) [] [.w o.d.toNat]

/-! ### Every instruction -/

/-- What an instruction uses; an event uses nothing (R156, R157). An unassigned major is an event that traps (R166). -/
def use : Instr → Option Use
  | .add o => some (intUse (recAlu o) 2)
  | .addRg o => some (intUse (recRG false o) 2)
  | .addIm o => some (intUse (recIM o) 2)
  | .sub o => some (intUse (recAlu o) 2)
  | .subRg o => some (intUse (recRG false o) 2)
  | .mul o => some (intUse (recAlu o) 2)
  | .mulRg o => some (intUse (recRG false o) 2)
  | .mulh o => some (intUse (recAlu o) 2)
  | .mulhu o => some (intUse (recAlu o) 2)
  | .mad o => some (intUse (recXR o) 3)
  | .madRg o => some (intUse (recRG true o) 3)
  | .div o => some (intUse (recAlu o) 2)
  | .divu o => some (intUse (recAlu o) 2)
  | .rem o => some (intUse (recAlu o) 2)
  | .remu o => some (intUse (recAlu o) 2)
  | .and o => some (intUse (recAlu o) 2)
  | .andRg o => some (intUse (recRG false o) 2)
  | .andIm o => some (intUse (recIM o) 2)
  | .or o => some (intUse (recAlu o) 2)
  | .orRg o => some (intUse (recRG false o) 2)
  | .orIm o => some (intUse (recIM o) 2)
  | .xor o => some (intUse (recAlu o) 2)
  | .xorRg o => some (intUse (recRG false o) 2)
  | .xorIm o => some (intUse (recIM o) 2)
  | .andn o => some (intUse (recAlu o) 2)
  | .andnRg o => some (intUse (recRG false o) 2)
  | .shl o => some (intUse (recAlu o) 2)
  | .shlRg o => some (intUse (recRG false o) 2)
  | .shlIm o => some (intUse (recIM o) 2)
  | .shr o => some (intUse (recAlu o) 2)
  | .shrRg o => some (intUse (recRG false o) 2)
  | .shrIm o => some (intUse (recIM o) 2)
  | .sra o => some (intUse (recAlu o) 2)
  | .sraRg o => some (intUse (recRG false o) 2)
  | .sraIm o => some (intUse (recIM o) 2)
  | .rol o => some (intUse (recAlu o) 2)
  | .clz o => some (intUse (recXR o) 1)
  | .clzRg o => some (intUse (recRG false o) 1)
  | .ctz o => some (intUse (recXR o) 1)
  | .ctzRg o => some (intUse (recRG false o) 1)
  | .popc o => some (intUse (recXR o) 1)
  | .popcRg o => some (intUse (recRG false o) 1)
  | .brev o => some (intUse (recXR o) 1)
  | .bfe o => some (intUse (recAlu o) 2 (decide ((recAlu o).md < 2)))
  | .bfi o => some (intUse (recXR o) 3)
  | .bil o => some (intUse (recXR o) 3)
  | .bilx o => some (intUse (recXR o) 1 (decide ((recXR o).md < 3)))
  | .min o => some (intUse (recAlu o) 2)
  | .minRg o => some (intUse (recRG false o) 2)
  | .max o => some (intUse (recAlu o) 2)
  | .maxRg o => some (intUse (recRG false o) 2)
  | .minu o => some (intUse (recAlu o) 2)
  | .maxu o => some (intUse (recAlu o) 2)
  | .abs o => some (intUse (recXR o) 1)
  | .sel o => some (selUse (recXR o))
  | .cmp o => some (cmpUse (recXR o) (intN (recXR o)) [0, 6] (decide ((recXR o).md < 16) && decide ((recXR o).md % 8 < 6) && ((recXR o).md < 8 || 2 ≤ (recXR o).md % 8)))
  | .mov o => some (movUse (recXR o))
  | .movRg o => some (movUse (recRG false o))
  | .movi o => some (moviUse (recXI o) false)
  | .moviIw o => some (moviUse (recIW o) false)
  | .movh o => some (moviUse (recXI o) true)
  | .movhIw o => some (moviUse (recIW o) true)
  | .lea o => some (leaUse (recXR o))
  | .fadd o => some (fltUse 0 (recAlu o) 2 [0, 2, 3] true)
  | .faddRg o => some (fltUse 0 (recRG false o) 2 [0, 2, 3] true)
  | .fsub o => some (fltUse 1 (recAlu o) 2 [0, 2, 3] true)
  | .fsubRg o => some (fltUse 1 (recRG false o) 2 [0, 2, 3] true)
  | .fmul o => some (fltUse 2 (recAlu o) 2 [0, 2, 3] true)
  | .fmulRg o => some (fltUse 2 (recRG false o) 2 [0, 2, 3] true)
  | .ffma o => some (fltUse 3 (recXR o) 3 [0, 2, 3] true)
  | .ffmaRg o => some (fltUse 3 (recRG true o) 3 [0, 2, 3] true)
  | .fmin o => some (fltUse 4 (recAlu o) 2 [0, 2, 3] false)
  | .fminRg o => some (fltUse 4 (recRG false o) 2 [0, 2, 3] false)
  | .fmax o => some (fltUse 5 (recAlu o) 2 [0, 2, 3] false)
  | .fmaxRg o => some (fltUse 5 (recRG false o) 2 [0, 2, 3] false)
  | .fcmp o => some (cmpUse (recXR o) 1 [0] (decide ((recXR o).md < 8)))
  | .frcp o => some (fltUse 7 (recXR o) 1 [0] true)
  | .frcpRg o => some (fltUse 7 (recRG false o) 1 [0] true)
  | .frsq o => some (fltUse 8 (recXR o) 1 [0] true)
  | .frsqRg o => some (fltUse 8 (recRG false o) 1 [0] true)
  | .fsqrt o => some (fltUse 9 (recXR o) 1 [0] true)
  | .fsqrtRg o => some (fltUse 9 (recRG false o) 1 [0] true)
  | .fexp2 o => some (fltUse 10 (recXR o) 1 [0] true)
  | .fexp2Rg o => some (fltUse 10 (recRG false o) 1 [0] true)
  | .flog2 o => some (fltUse 11 (recXR o) 1 [0] true)
  | .flog2Rg o => some (fltUse 11 (recRG false o) 1 [0] true)
  | .fsin o => some (fltUse 12 (recXR o) 1 [0] true)
  | .fsinRg o => some (fltUse 12 (recRG false o) 1 [0] true)
  | .fcos o => some (fltUse 13 (recXR o) 1 [0] true)
  | .fcosRg o => some (fltUse 13 (recRG false o) 1 [0] true)
  | .frnd o => some (fltUse 14 (recXR o) 1 [0, 2, 3] true)
  | .fclass o => some (fltUse 15 (recXR o) 1 [0, 2, 3, 4, 5] false)
  | .fcvt o => some (fcvtUse (recXR o))
  | .dot4 o => some (dotUse (recXR o) true)
  | .dot2 o => some (dotUse (recXR o) false)
  | .wmul o => some (wmulUse (recXR o))
  | .quant o => some (quantUse (recXR o))
  | .dequant o => some (dequantUse (recXR o))
  | .pack o => some (packUse (recXR o))
  | .unpack o => some (unpackUse (recXR o))
  | .shfl o => some (shflUse (recXR o))
  | .shflRg o => some (shflUse (recRG false o))
  | .vote o => some (voteUse (recXR o))
  | .redux o => some (reduxUse (recXR o))
  | .scan o => some (scanUse (recXR o))
  | .matchv o => some (matchUse (recXR o))
  | .elect o => some (electUse (recXR o))
  | .mpopc o => some (mpopcUse (recXR o))
  | .mand o => some (maskUse o true)
  | .mor o => some (maskUse o true)
  | .mxor o => some (maskUse o true)
  | .mnot o => some (maskUse o false)
  | .mmov o => some (maskUse o false)
  | .bra o => some (brUse o true [] true)
  | .call o => some (brUse o true [.csr csrLink] true)
  | .setmeet o => some (brUse o false [.csr csrMeet] (!o.u))
  | .brx o => some (brxUse o (if o.x then [.w o.a.toNat] else regGroup .v o.a.toNat 2) (o.x || o.a.toNat % 2 == 0))
  | .ret o => some (brxUse o [.csr csrLink] (o.a == 0 && !o.x))
  | .exit o => some (zUse o .x true true false)
  | .yieldv o => some (zUse o .x true true true)
  | .nop o => some (zUse o .none false true true)
  | .trap o => some (zUse o .x true false false)
  | .bkpt o => some (zUse o .x true false false)
  | .ld o => some (loadUse o false true [0, 1, 2, 3] (o.opx.toNat < 2 && sxOk o) true)
  | .st o => some (storeUse o false true true)
  | .ldv o => some (loadUse o false true [2] (decide (o.opx.toNat < 5)) true)
  | .gather o => some (loadUse o false false [0, 1, 2, 3] (o.opx.toNat < 4 && sxOk o && perLane o) false)
  | .scatter o => some (let u := storeUse o false false false; { u with ok := u.ok && perLane o })
  | .ldlm o => some (loadUse o true true [0, 1, 2, 3] (o.opx.toNat < 2 && sxOk o) true)
  | .stlm o => some (storeUse o true true true)
  | .lmbc o => some (storeUse o true true true)
  | .prefetch o => some (prefetchUse o)
  | .atom o => some (atomUse o)
  | .atomo o => some (atomoUse o)
  | .stc o => some (stcUse o)
  | .fence o => some (fenceUse o)
  | .drain o => some (drainUse o)
  | .bar o => some (barUse o false)
  | .gbar o => some (barUse o true)
  | .waita o => some (waitaUse o)
  | .cbinit o => some (cbUse o false true false false)
  | .cbexpect o => some (cbUse o false true false false)
  | .cbarrive o => some (cbUse o true true false false)
  | .cbwait o => some (cbUse o true false false true)
  | .cbtest o => some (cbUse o true false true true)
  | .subscribe h p => some (subUse h p true true)
  | .unsub h p => some (subUse h p false false)
  | .subup h p => some (subUse h p true false)
  | .cpy h p => some (cpyUse h p)
  | .cpyq h p => some (cpyqUse h p)
  | .pub h p => some (engUse h p)
  | .coll h p => some (engUse h p)
  | .cflush h _ => some (cacheUse h)
  | .cinv h _ => some (cacheUse h)
  | .cinvI h _ => some (cacheUse h)
  | .tlease o => some (tleaseUse o)
  | .trel o => some (trelUse o)
  | .tzero o => some (tzeroUse o)
  | .tring o => some (tringUse o)
  | .tracc o => some (traccUse o)
  | .twacc o => some (twaccUse o)
  | .tldb h p => some (tldbUse h p)
  | .tmma h p => some (tmmaUse h p)
  | .tmmq h p => some (tmmqUse h p)
  | .tmsp h p => some (tmspUse h p)
  | .tepi h p => some (tepiUse h p)
  | .tcon h _ => some (tconUse h)
  | .rast h p => some (rastUse h p)
  | .hizupd o => some (hizupdUse o)
  | .discard o => some (discardUse o)
  | .tbind o => some (tbindUse o)
  | .tbindFlush o => some (tbindFlushUse o)
  | .tex h p => some (texUse h p true false)
  | .texg h p => some (texUse h p true true)
  | .texq h p => some (texUse h p false false)
  | .ibox h _ => some (rayUse h 2)
  | .itri h _ => some (rayUse h 4)
  | .bld h p => some (bldUse h p)
  | .spawn h p => some (spawnUse h p)
  | .launchGrid h _ => some (launchUse h false)
  | .launchGraph h _ => some (launchUse h true)
  | .launchArm h _ => some (launchUse h false)
  | .mbpost h p => some (mbpostUse h p)
  | .reorder h _ => some (reorderUse h)
  | .migrate h _ => some (migrateUse h)
  | .cplflush o => some (cplflushUse o 0)
  | .cplflushPc o => some (cplflushUse o 1)
  | .cplflushKey o => some (cplflushUse o 2)
  | .qnotify o => some (qnotifyUse o)
  | .csrr o => some (csrrUse o)
  | .csrw o => some (csrwUse o)
  | .eret o => some (zUse o .x true true true)
  | .sysc o => some (zUse o .x true false false)
  | .tlbinvVa o => some (tlbinvUse o 0 true true)
  | .tlbinvCtx o => some (tlbinvUse o 1 false true)
  | .tlbinvAll o => some (tlbinvUse o 2 false false)
  | .clkrd o => some (clkrdUse o)
  | .fillReturn _ _ => none
  | .homeLoadMiss _ _ => none
  | .homeStore _ _ _ => none
  | .homeAtomic _ _ _ _ _ _ => none
  | .homeWriteback _ _ => none
  | .dirtyNotice _ _ => none
  | .clusterProbe _ _ _ _ => none
  | .rdcInvalidate _ _ => none
  | .rdcPull _ _ => none
  | .rdcDrainTimer _ _ => none
  | .remoteTagInstall _ _ _ => none
  | .hold _ _ _ _ => none
  | .dataMsg _ _ _ _ => none
  | .inval _ _ _ => none
  | .probeTimeout _ _ => none
  | .atomoAccept _ _ _ _ => none
  | .notifyFold _ _ => none
  | .tcbDecrement _ _ _ _ => none
  | .remoteResponse _ _ => none
  | .peerAccess _ => none
  | .hostMemRead _ _ => none
  | .hostMemWrite _ _ => none
  | .pgresp _ _ => none
  | .pctlPreempt _ => none
  | .pctlResume _ => none
  | .pctlKill _ => none
  | .gdoor _ => none
  | .qnc _ _ _ => none
  | .dispatch _ _ => none
  | .funcmodeWrite _ => none
  | .prqbaseWrite _ _ => none
  | .resetctl _ => none
  | .errlogClear _ _ => none
  | .statusAccerrClear _ _ => none
  | .attestation _ => none
  | .hostRegisterWrite _ => none
  | .correctedError _ _ _ => none
  | .unitFailure _ _ => none
  | .powerGating _ _ => none
  | .clusterClockStop _ _ => none
  | .powerOn _ => none
  | .unassignedMajor _ => none
  | .homeSubscriptionRequest _ => none
  | .loadReturn => none
  | .pageWalk => none
  | .walkComplete => none
  | .pageCopyDone => none
  | .logReplay => none
  | .engineHandback => none
  | .fpParkAction => none
  | .supvPostRetry => none
  | .waitaWake => none
  | .waitaPeerPoll => none
  | .couplerAccept => none
  | .couplerTimeout => none
  | .waveAdmit => none
  | .cartDispatch => none
  | .teamAdmit => none
  | .qmDecision => none
  | .leaseGrant => none
  | .leaseExpiry => none
  | .tensorCommandDone => none
  | .tconStep => none
  | .ringTransfer => none
  | .copyEngineDone => none
  | .publishDone => none
  | .collectiveDone => none
  | .sbeCommandDone => none
  | .remoteAccessTimeout => none
  | .pctlDone => none
  | .teamResumePlace => none
  | .blddoneArrive => none
  | .blddoneHandback => none
  | .uncorrectableError => none
  | .thermalTrip => none
  | .flitCrcFail => none
  | .linkLaneFail => none
  | .yieldTimeout => none
  | .backInvalidationAnswer => none
  | .hostWriteCompletion => none
  | .pageRequestRoomRecheck => none

/-! ### Chains (R157, R158) -/

/-- One word of a chain as decoded: the instruction, what it uses, its chain bit and the words it takes, its word index within the packet and its first
word. -/
structure ChainWord where
  ins : Instr
  use : Use
  c : Bool
  words : Nat
  idx : Nat
  word : W32
deriving DecidableEq, Repr, Inhabited

/-- The chain bit of an instruction's first word. -/
def chainBit (w : W32) : Bool := bit w 31

/-- An instruction against those before it in its chain: a pipe twice, a register read or written after an earlier write, a control transfer with C = 1, or
a chain that would leave its packet (R157). -/
def chainBroken (pipes : List Pipe) (written : List Res) (x : ChainWord) : Bool :=
  (x.use.pipe != .none && pipes.contains x.use.pipe)
    || (x.use.reads ++ x.use.chainReads ++ x.use.writes ++ x.use.chainWrites).any written.contains
    || (x.use.xfer && x.c)
    || (x.c && 4 ≤ x.idx + x.words)

/-- The failing instruction of an ILLCHAIN: the first word that breaks R157 with the words before it, so the later of two that share a pipe or a destination:
DEDUCED (log 88). -/
def chainFault : List Pipe → List Res → List ChainWord → Option ChainWord
  | _, _, [] => none
  | pipes, written, x :: r =>
    if chainBroken pipes written x then some x
    else chainFault (x.use.pipe :: pipes) (x.use.writes ++ x.use.chainWrites ++ written) r

/-- The first word of a chain on a cart that only a wave may execute (R139). -/
def waveOnlyFault (cart : Bool) (l : List ChainWord) : Option ChainWord := if cart then l.find? (fun x => x.use.waveOnly) else none

end Sys2Proof.Machine
end

