-- ==== Sys2Proof/Machine/Fetch.lean ====
section
/-! DEFINITION. From a subgroup that issues to an instruction that runs: merging before issue (R144), the fetch of a packet (R40, R154, R389), the checks of a
chain (R157, R158) and the wait on pending registers (R210, R339). -/

namespace Sys2Proof.Machine

/-! ### Which subgroup issues (R139, R140) -/

/-- The carriage (0 to 3) or cart (4 to 19) of a wave, in its cluster. -/
def unitIn (w : Wave) : Nat := if w.cart then 4 + w.unit else w.unit

/-- The carriages and carts of the package, 20 for each cluster. -/
def unitKey (w : Wave) : Nat := 20 * w.cluster + unitIn w

/-- The lane may issue now: it is Ready, and no converged handler holds it (R337). -/
def mayIssue (l : Lane) : Bool := l.st == .ready && !l.held

/-- The lane may issue in its context as this stands: while it stops, only to end a chain or an operation (R347). -/
def mayIssueIn (s : State) (w : Wave) (l : Lane) : Bool :=
  mayIssue l && (!ctxAway s w.ctx || ((getCtx s w.ctx).stat == .preempting && midway l))

/-- The wave has a subgroup that may issue. -/
def waveReady (s : State) (w : Wave) : Bool := !w.halted && w.lanes.any (mayIssueIn s w)

/-- The first element of a list after one whose key is k, in the order of the keys, wrapping. -/
def nextAfter {α : Type} (key : α → Nat) (k : Nat) (l : List α) : Option α :=
  let o := sortBy key l
  match o.find? (fun x => decide (k < key x)) with
  | some x => some x
  | none => o.head?

/-- The slot of a carriage or cart that issued last; before the first, the highest. -/
def lastIssued (s : State) (w : Wave) : Nat := aget 15 (getCluster s w.cluster).lastSlots (unitIn w)

/-- The subgroup that issues next. Carriages and carts take turns; in one, the first Ready wave or thread after the one that issued last there (R139, R140); in that,
the first Ready subgroup after its last (R140). -/
def nextIssue (s : State) : Option (Nat × Nat) :=
  let ws := s.waves.filter (waveReady s)
  match nextAfter unitKey s.lastUnit ws with
  | none => none
  | some u =>
    match nextAfter (·.slot) (lastIssued s u) (ws.filter (fun w => unitKey w == unitKey u)) with
    | none => none
    | some w => (nextAfter id w.lastSlot ((w.lanes.filter (mayIssueIn s w)).map (·.slot))).map (fun k => (w.id, k))

/-- Wave k has issued from a slot. -/
def noteIssue (k slot : Nat) (s : State) : State :=
  match s.waves.find? (fun w => w.id == k) with
  | none => s
  | some w =>
    updCluster w.cluster (fun c => { c with lastSlots := aset (unitIn w) w.slot c.lastSlots })
      (updWave k (fun w => { w with lastSlot := slot }) { s with lastUnit := unitKey w })

/-- The value that all lanes hold, if they agree. -/
def commonMeet : List Lane → Option W64
  | [] => none
  | l :: r => if r.all (fun x => x.meet == l.meet) then some l.meet else none

/-- Before a subgroup issues, it merges with every other Ready subgroup of its wave with the same PC and the same MP in all lanes, into the lower
slot (R144 item 5). Handlers do not merge. -/
def mergeSame (k slot : Nat) (s : State) : State :=
  match s.waves.find? (fun w => w.id == k) with
  | none => s
  | some w =>
    let own := w.lanes.filter (issuing slot)
    match own, commonMeet own with
    | l :: _, some mt =>
      let others := (w.lanes.filter (fun x => x.st == .ready && x.slot != slot && !x.held && x.pc == l.pc && x.h == l.h)).map (·.slot)
      let fits (j : Nat) : Bool := commonMeet (w.lanes.filter (issuing j)) == some mt
      let slots := others.filter fits
      if slots.isEmpty then { s with cur := (k, slot) }
      else
        let low := (least (slot :: slots)).getD slot
        { updWave k (fun w => { w with lanes := w.lanes.map (fun x => if x.st == .ready && slots.contains x.slot || issuing slot x then { x with slot := low } else x) }) s
          with cur := (k, low) }
    | _, _ => { s with cur := (k, slot) }

/-! ### The fetch (R40, R154, R389) -/

/-- The instruction cache of a wave: its carriage's, or its cart group's. -/
def icacheOf (w : Wave) : Nat := if w.cart then 4 + w.unit / 4 else w.unit

/-- Lines of 64 bytes that an instruction cache holds (R34): 32 KiB of a carriage, 16 KiB of a cart group. -/
def icacheLines (c : Nat) : Nat := if c < 4 then 512 else 256

/-- A line put into an instruction cache, in place of an older copy; where the cache is full another line goes, the manual leaves open which. -/
def icachePut (cluster c line : Nat) (bs : List Byte) (s : State) : State :=
  let others := (getCluster s cluster).icache.filter (fun e => e.1 == c && e.2.1 != line)
  let o := if others.length < icacheLines c then (s, []) else freeOrder (others.map (·.2.1)) s
  let gone (e : Nat × Nat × List Byte) : Bool := e.1 == c && (e.2.1 == line || (o.2.take (others.length + 1 - icacheLines c)).contains e.2.1)
  updCluster cluster (fun x => { x with icache := (c, line, bs) :: x.icache.filter (fun e => !gone e) }) o.1

/-- Sixteen bytes of a line. -/
def packetIn (off : Nat) (bs : List Byte) : List Byte := (bs.drop off).take 16

/-- A packet at a physical address: from the line in the instruction cache, whose packet may be an older one (R40), or from memory, whose whole line is cached. -/
def readPacket (w : Wave) (mt pa : Nat) (s : State) : State × List Byte :=
  let line := pa / 64 * 64
  let off := pa % 64
  let fresh := peekBytes (w.cluster / 64) mt line 64 s
  let new := packetIn off fresh
  let c := icacheOf w
  match (getCluster s w.cluster).icache.find? (fun e => e.1 == c && e.2.1 == line) with
  | none => (icachePut w.cluster c line fresh s, new)
  | some e =>
    let old := packetIn off e.2.2
    if old == new then (s, new)
    else
      let s1 := { s with free := s.free + 1 }
      if Config.pick s.free then (s1, old) else (icachePut w.cluster c line (e.2.2.take off ++ new ++ e.2.2.drop (off + 16)) s1, new)

/-- The fetch of the packet at the issuing subgroup's PC: its bytes, a wait, or the trap of every lane, whose TVAL and TEPC hold the PC (R389). -/
def fetchPacket (s : State) : State × Got (List Byte) :=
  let i := issuer s
  let w := curWave s
  let r := xlat { ctx := i.ctx, cluster := i.cluster, h := (active s).all (·.h), acc := .fetch, va := packetOf i.pc, size := 16, unit := i.unit } s
  match r.2 with
  | .miss => (r.1, .wait)
  | .trap c mal => (r.1, .trap (addrTrap i c i.pc mal))
  | .ok (.fab _ _) => (r.1, .trap (addrTrap i cPROT i.pc false))
  | .ok (.loc pa mt) =>
    if poisoned r.1 pa then (r.1, .trap (addrTrap i cPROT i.pc false))
    else let q := readPacket w mt pa r.1; (q.1, .done q.2)
  | .pfault =>
    let v := serve (i.cluster / 64) i.ctx ((packetOf i.pc).toNat % 2 ^ 52 / 65536) 2 r.1
    match v.2 with
    | .copying => (v.1, .wait)
    | .asked tag => (v.1, .trap { addrTrap i cPFAULT i.pc false with ptag := some tag })
    | .unresolved => (v.1, .trap (addrTrap i cPFAULT i.pc false))
    | .malformed => (v.1, .trap (addrTrap i cPROT i.pc true))

/-! ### The chain at a PC (R157 to R159) -/

/-- The words of the chain that begins at word `idx` of a packet, as far as they are legal, and the first illegal one. -/
def chainAt (cart : Bool) (regs : Nat) : Nat → List W32 → Nat → List ChainWord × Option (W32 × Nat)
  | 0, _, _ => ([], none)
  | _ + 1, [], _ => ([], none)
  | n + 1, w :: r, idx =>
    match decode w r.head? with
    | .error _ => ([], some (w, idx))
    | .ok i =>
      match use i with
      | none => ([], some (w, idx))
      | some u =>
        if !u.fits cart regs then ([], some (w, idx))
        else
          let x : ChainWord := { ins := i, use := u, c := chainBit w, words := i.words, idx, word := w }
          if x.c && decide (idx + x.words < 4) then
            let q := chainAt cart regs n (r.drop (x.words - 1)) (idx + x.words)
            (x :: q.1, q.2)
          else ([x], none)

/-- The first failure of a chain, in R158's order: its cause, the word and its index. -/
def chainTrap (cart : Bool) (q : List ChainWord × Option (W32 × Nat)) : Option (Nat × W32 × Nat) :=
  match q.2 with
  | some (w, k) => some (cILLOP, w, k)
  | none =>
    match chainFault [] [] q.1 with
    | some x => some (cILLCHAIN, x.word, x.idx)
    | none => (waveOnlyFault cart q.1).map (fun x => (cILLEXEC, x.word, x.idx))

/-! ### Pending registers (R210, R339) -/

/-- An entry of the operand log still has to write a register that the instruction reads or writes, in one of the subgroup's lanes. -/
def pendingIn (act : List Lane) (rs : List Res) (e : LogEntry) : Bool :=
  match use e.ins with
  | none => false
  | some u => u.writes.any (fun r => rs.contains r && (match r with
    | .v _ => e.lanes.any (fun p => act.any (fun l => l.id == p.lane))
    | _ => !e.lanes.isEmpty))

/-- The chain waits for a register. -/
def chainPending (w : Wave) (act : List Lane) (xs : List ChainWord) : Bool :=
  !w.log.isEmpty && w.log.any (fun e => pendingIn act (xs.flatMap (fun x => x.use.reads ++ x.use.writes ++ x.use.chainReads ++ x.use.chainWrites)) e.2)

/-! ### Issue -/

/-- What the issuing subgroup does in this step: an instruction, whether it is tied to the next, and the chain's later words; or nothing more, because it trapped or
waits. -/
inductive Issue where
  | run (i : Instr) (c : Bool) (rest : List ChainWord)
  | done
deriving DecidableEq, Repr, Inhabited

/-- Every lane of the issuing subgroup takes the trap (R158, R336, R389). -/
def trapAll (t : LaneTrap) (s : State) : State := takeTraps ((active s).map (fun l => (l.id, t))) s

/-- The lanes that an illegal RAST or HIZUPD traps in the converged fallback: of a RAST those its guard selects, where it selects any (R265, log 82); of a HIZUPD every
active lane (R158, R278). -/
def convergedIll (word : W32) (next : Option W32) (s : State) : List Lane :=
  let rast := majorOf word == 0x77 && (next.getD 0).toNat / 2 ^ 28 == 0
  let h := RG.ofWord word
  if majorOf word == 0x56 then active s else if rast then selected s h.g h.n else []

/-- What the issuing subgroup does with a chain that R158 turns away: every active lane traps; those of an illegal RAST or HIZUPD in the converged
fallback. -/
def chainTrapped (code : Nat) (word : W32) (idx : Nat) (next : Option W32) (s : State) : State :=
  let t : LaneTrap := { code, tval := BitVec.ofNat 64 (idx * 2 ^ 32 + word.toNat), tepc := curPc s }
  match if code = cILLOP then convergedIll word next s else [] with
  | [] => trapAll t s
  | ls => convergeAll ls (fun _ => t) s

/-- The fetched packet, decoded and checked at the PC. -/
def issuePacket (bs : List Byte) (s : State) : State × Issue :=
  let w := curWave s
  let pc := curPc s
  let idx := pc.toNat % 16 / 4
  let q := chainAt w.cart w.regs 4 ((leWords bs).drop idx) idx
  match (leWords bs).drop idx with
  | [] => (s, .done)
  | x :: _ =>
    if unassigned (majorOf x) then (s, .run (.unassignedMajor x) false [])
    else match chainTrap w.cart q with
      | some (c, word, k) => (chainTrapped c word k ((leWords bs)[k + 1]?) s, .done)
      | none => match q.1 with
        | [] => (s, .done)
        | y :: ys => if chainPending w (active s) q.1 then (waitHere .retry s, .done) else (s, .run y.ins y.c ys)

/-- The issuing subgroup's packet fetched and checked. -/
def fetchChecked (s : State) : State × Issue :=
  let r := fetchPacket s
  match r.2 with
  | .wait => (waitHere .retry r.1, .done)
  | .trap t => (trapAll t r.1, .done)
  | .done bs => issuePacket bs r.1

/-- A subgroup comes to issue: merged, its packet fetched and checked. -/
def prepare (k slot : Nat) (s : State) : State × Issue :=
  let s1 := mergeSame k slot s
  let r := fetchChecked s1
  if r.2 == .done || !r.1.asks.isEmpty then (commitIssue s1 r.1, .done) else r

/-- The state in which a subgroup comes to issue: no chain and no event is under way. -/
def startIssue (s : State) : State := { s with chain := none, doing := none, asks := [] }

/-- The subgroup that issues is held in a wait after its attempt. -/
def blocked (s : State) : Bool :=
  (curWave s).lanes.any (fun l => l.slot == s.cur.2 && (match l.st with
    | .waiting .retry => true
    | .waiting (.wide _) => true
    | _ => false))

/-- A wave after a chain with a split gather, whose words stood from `start` to `last` and which the given lanes have executed: while data is still on its way the
subgroup waits for the first of it, and comes to its split point where some is there (R146). -/
def splitGather (ids : List Nat) (start last : Nat) (w : Wave) : Wave :=
  let ran (l : Lane) : Bool := l.st == .ready && ids.contains l.id
  match if w.cart then none else w.log.find? (fun e =>
      isSplit e.2.ins && decide (start ≤ e.2.pc.toNat ∧ e.2.pc.toNat ≤ last) && w.lanes.any (fun l => ran l && lateIn w e.1 l)) with
  | none => w
  | some (idx, _) =>
    splitPoints { w with lanes := w.lanes.map (fun l =>
      if ran l && w.lanes.any (fun x => ran x && x.slot == l.slot && lateIn w idx x) then { l with st := .waiting (.first idx) } else l) }

/-- After an instruction: the lanes that executed it lose the mark of R346, and the chain goes on where the instruction is
tied to the word that the subgroup has come to (R157); once it is over, a gather in it may split the subgroup (R146). -/
def afterIssue (i : Instr) (c : Bool) (s0 s : State) : State :=
  let k := s0.cur.1
  let slot := if s.cur.1 = k then s.cur.2 else s0.cur.2
  let pc := curPc s0
  let start := chainStart s0
  let ids := (active s0).map (·.id)
  let next := pc + BitVec.ofNat 64 (4 * i.words)
  let moved (l : Lane) : Bool := ids.contains l.id && l.pc != pc
  let s1 := updWave k (fun w => { w with lanes := w.lanes.map (fun l =>
    if moved l then { l with noFpe := false, opPc := none, chainPc := if c && l.pc == next && issuing slot l then some start else none } else l) })
    { s with cur := (k, slot) }
  if c && (active s1).any (fun l => ids.contains l.id && l.pc == next) then { s1 with chain := some (k, slot) }
  else updWave k (fun w => splitGather (((w.lanes.filter moved).map (·.id))) start.toNat pc.toNat w) { s1 with chain := none }

/-- A chain in issue can go on: its subgroup is still there. -/
def chainReady (s : State) : Option (Nat × Nat) :=
  s.chain.filter (fun p => s.waves.any (fun w => w.id == p.1 && !w.halted && w.lanes.any (fun l => issuing p.2 l && mayIssueIn s w l)))

end Sys2Proof.Machine
end

