-- ==== Sys2Proof/Machine/Settle.lean ====
section
/-! DEFINITION. What follows every step without an instruction of its own: parking and merging at meeting points (R143), slots for Overflowed groups (R144),
waits that may be over, lanes and waves that are done, teams that retire (R137, R138), barriers, grids and replays; and the timers and arbiters that move when
no instruction does. -/

namespace Sys2Proof.Machine

/-! ### Meeting points and subgroup slots (R143, R144) -/

/-- The lane parks: it stands at word 0 of the packet that its MP names, before it executes it (R143 item 1, R155). An Overflowed lane does so once it has a slot
(R143 item 3). -/
def atMeeting (l : Lane) : Bool :=
  l.st == .ready && l.meet != 0 && l.pc.toNat % 16 == 0 && packetBits l.pc == packetBits l.meet

def parkLane (l : Lane) : Lane := if atMeeting l then { l with st := .parked } else l

/-- The MP values of a wave's lanes that have not exited. -/
def meetings (w : Wave) : List W64 := distinct ((w.lanes.filter (fun l => alive l && l.meet != 0)).map (fun l => packetBits l.meet))

/-- Every lane that holds the MP has parked (R143 items 2 and 3). -/
def allParked (w : Wave) (m : W64) : Bool := w.lanes.all (fun l => !alive l || packetBits l.meet != m || l.meet == 0 || l.st == .parked)

/-- The lanes parked at an MP become one subgroup, in the lowest of the slots that they alone hold, else in a free one; MEET is 0 again. With neither, since their
slots serve other groups (log 77), they merge as soon as one is free. -/
def mergeMeeting (w : Wave) (m : W64) : Wave :=
  let here (l : Lane) : Bool := l.st == .parked && l.meet != 0 && packetBits l.meet == m
  let rest := (w.lanes.filter (fun l => alive l && l.st != .overflowed && !here l)).map (·.slot)
  let own := (w.lanes.filter here).map (·.slot)
  let free := (span 0 16).filter (fun k => !rest.contains k)
  match (free.filter own.contains).head?.or free.head? with
  | some k => { w with lanes := w.lanes.map (fun l => if here l then { l with st := .ready, slot := k, meet := 0 } else l) }
  | none => w

/-- The slots that an Overflowed group may take: a free one; with none, one that only Parked lanes hold, which cannot issue before their meeting: DEDUCED (log 77). -/
def grantable (w : Wave) : List Nat :=
  if (freeSlots w).isEmpty then (span 0 16).filter (fun k => w.lanes.all (fun l => !slotted l || l.slot != k)) else freeSlots w

/-- A slot goes to the Overflowed group whose lowest lane is lowest (R144 item 4), for each of n slots. -/
def grantSlots : Nat → Wave → Wave
  | 0, w => w
  | n + 1, w =>
    match w.lanes.find? (fun l => l.st == .overflowed), (grantable w).head? with
    | some l, some k =>
      grantSlots n { w with lanes := w.lanes.map (fun x => if x.st == .overflowed && x.ovGroup == l.ovGroup then { x with st := .ready, slot := k } else x) }
    | _, _ => w

/-- Every meeting that is complete merges; one that had to wait for a slot, once another has left it. -/
def mergeMeetings (w : Wave) : Wave :=
  let ms := (meetings w).filter (allParked w)
  ms.foldl (fun w _ => ms.foldl mergeMeeting w) w

def parkLanes (w : Wave) : Wave := { w with lanes := w.lanes.map parkLane }

/-- Lanes parked, meetings merged, slots granted, again where a group has been granted a slot at its meeting point (R143 item 3). -/
def settleRounds : Nat → Wave → Wave
  | 0, w => w
  | n + 1, w =>
    let w1 := grantSlots 16 (mergeMeetings (parkLanes w))
    if w1.lanes.any atMeeting then settleRounds n w1 else w1

/-- What becomes of a wave's lanes between steps; Ready lanes that a return has left in one slot at different PCs split first (R144). -/
def settleWave (w : Wave) : Wave := settleRounds 129 ((span 0 16).foldl (fun w k => regroupIn k w) (parkLanes w))

/-! ### Waits that may be over -/

/-- A lane that tries again; at a wave-wide instruction, once its gathering is over (R147). -/
def wakeLane (w : Wave) (l : Lane) : Lane :=
  match l.st with
  | .waiting .retry => { l with st := .ready }
  | .waiting (.wide _) => if gatherOver w l then { l with st := .ready } else l
  | _ => l

def wakeWave (w : Wave) : Wave := { w with lanes := w.lanes.map (wakeLane w) }

/-- A yielding lane, once subgroup `slot` of wave k has issued (R206). -/
def yieldLane (s : State) (w : Wave) (k slot : Nat) (l : Lane) : Lane :=
  match l.st with
  | .waiting (.yield a b) =>
    let a := a.filter (fun j => !(w.id == k && j == slot) && w.lanes.any (fun x => x.st == .ready && x.slot == j))
    let b := b.filter (fun j => j != k && s.waves.any (fun x => x.id == j && waveReady s x))
    { l with st := if a.isEmpty && b.isEmpty then .ready else .waiting (.yield a b) }
  | _ => l

def wakeYields (k slot : Nat) (s : State) : State :=
  { s with waves := s.waves.map (fun w => { w with lanes := w.lanes.map (yieldLane s w k slot) }) }

/-- Lanes held by a converged handler that no lane runs any more are free (R337). -/
def freeHeld (w : Wave) : Wave :=
  if w.lanes.any (fun l => l.held) && !(w.lanes.any (fun l => alive l && (tcCONV l.tcause || (l.h && !l.held))))
  then { w with lanes := w.lanes.map (fun l => { l with held := false }) } else w

/-- A converged return that waited may go on. -/
def finishErets (s : State) : State :=
  (s.waves.filter (fun w => w.lanes.any (fun l => l.st == .waiting .eret))).foldl (fun s w => finishEret w.id s) s

/-! ### What is done (R37, R41, R137, R138, R205, R327) -/

/-- The lane has exited, every access it made is performed, and a task control block waits for it (R327). -/
def tcbDone (s : State) (w : Wave) (l : Lane) : Bool := l.st == .exited && l.tcb.isSome && !lanesPending s w [l]

/-- The task control blocks whose lanes have exited retire (R327). -/
def retireLanes (s : State) : State :=
  let done := s.waves.flatMap (fun w => w.lanes.filterMap (fun l => if tcbDone s w l then l.tcb.map (fun t => (w.cluster / 64, t)) else none))
  if done.isEmpty then s
  else done.foldl (fun s t => retireTcb t.2.1 t.1 t.2.2 s) { s with waves := s.waves.map (fun w => { w with lanes := w.lanes.map (fun l =>
    if tcbDone s w l then { l with tcb := none } else l) }) }

/-- The array is asked for in the wave's name, for a contraction or a command that it has still to carry out (R262, R264). -/
def tconOf (s : State) (w : Wave) : Bool :=
  (getTensor s w.cluster).reqs.any (fun r => r.wave == w.id && (r.kind == .tcon || tconBy (arrOf s w.cluster w.team) w.id))

/-- The wave is Done, and nothing of it is left: no logged access, no lease, no contraction in its name, no task control block that waits for a lane. -/
def waveOver (s : State) (w : Wave) : Bool :=
  w.lanes.all (fun l => !alive l && l.tcb.isNone) && w.log.isEmpty && (getTensor s w.cluster).holder != some w.id && !tconOf s w

def removeWaves (s : State) : State :=
  let gone := (s.waves.filter (waveOver s)).map (·.id)
  if gone.isEmpty then s else { s with waves := s.waves.filter (fun w => !gone.contains w.id) }

/-- The team still has a lane, or a start on its way (R138, R310). -/
def teamBusy (s : State) (t : Team) : Bool :=
  s.waves.any (fun w => w.team == t.id && w.lanes.any alive) ||
    (let c := getCluster s t.cluster
     c.opens.any (fun o => o.team == t.id) || c.releaseQ.any (fun o => o.team == t.id) || c.dispatchQ.any (fun o => o.team == t.id)
      || c.offers.any (fun o => o.team == t.id) || c.qmQ.any (fun x => x.team == t.id))

/-- A team retires (R138): its local memory, array image and pool slot go; with the last team of its context on the cluster, the context's shadows (R41); with
the last team of its gang, or alone, one team of its grid is done. -/
def retireTeam (t : Team) (s : State) : State :=
  let s1 := chrono (t.cluster / 64) (t.cluster % 64) 1 t.id { s with teams := s.teams.map (fun x => if x.id == t.id then { x with retired := true, mem := [], arr := {}, pool := none } else x) }
  let mates := s1.teams.filter (fun x => x.id == t.id || (t.gang.isSome && x.gang == t.gang))
  let s2 := if s1.teams.any (fun x => x.ctx == t.ctx && x.cluster == t.cluster && !x.retired) then s1 else dropShadows t.cluster t.ctx s1
  if mates.all (·.retired) then
    let ids := mates.map (·.id)
    let s3 := { s2 with teams := s2.teams.filter (fun x => !ids.contains x.id) }
    match t.grid with
    | some g => updGrid g (fun x => { x with alive := x.alive - 1 }) s3
    | none => s3
  else s2

def retireTeams (s : State) : State := (s.teams.filter (fun t => !t.retired && !teamBusy s t)).foldl (fun s t => retireTeam t s) s

/-- An array whose team has retired holds no team's state (R236). -/
def clearArrays (s : State) : State :=
  s.clusters.foldl (fun s p =>
    let x := getTensor s p.1
    if x.team.isSome && x.holder.isNone && (arrayTeam s p.1).isNone then updTensor p.1 (fun x => { x with team := none, arr := {} }) s else s) s

/-- Leases whose holder is Done and whose commands are complete end (R241). -/
def checkLeases (s : State) : State :=
  (s.waves.filter (fun w => w.lanes.all (fun l => !alive l) && (getTensor s w.cluster).holder == some w.id)).foldl (fun s w => leaseCheck w.cluster s) s

/-- Hand-backs that can be delivered, and traps of logged accesses that can be taken, move next. -/
def postReady (s : State) : State :=
  let hs := (s.hands.filter (fun h => handReady s h && !s.agenda.any (fun e => e.1 == h.id && e.2 == .engineHandback))).map (·.id)
  let ws := (s.waves.filter (fun w => !w.halted && w.lanes.any dueReady && !s.agenda.any (fun e => e.1 == w.id && e.2 == .logReplay))).map (·.id)
  { s with agenda := s.agenda ++ hs.map (fun k => (k, .engineHandback)) ++ ws.map (fun k => (k, .logReplay)) }

/-- Every wave's lanes parked, merged and granted slots: the last change to lanes in a step. -/
def settleWaves (s : State) : State := { s with waves := s.waves.map settleWave }

/-- Everything that follows a step; `wake` where lanes that wait may try again. -/
def settleAll (wake : Bool) (s : State) : State :=
  let s0 := if wake then { s with waves := s.waves.map wakeWave } else s
  let s1 := completeBars (finishErets s0)
  let s2 := { s1 with waves := s1.waves.map freeHeld }
  let s3 := retireTeams (removeWaves (retireLanes (checkLeases s2)))
  postReady (settleWaves (completeGrids (clearArrays s3)))

/-- What follows a step; where a part of it has to ask the host first, the requests alone, and it follows the next step. No event is under way after it. -/
def settle (wake : Bool) (s : State) : State :=
  let t := settleAll wake s
  { (if t.asks.isEmpty then t else settleWaves (askAll t.asks s)) with doing := none, asks := [] }

/-! ### The words of a chain (R140, R157) -/

/-- Meanings, by instruction. -/
abbrev Meaning := Instr → State → Out

/-- The issuing subgroup stands at a later word of its chain; with it the subgroups that wait at the chain for a wave-wide word of it (R147). -/
def atWord (start word : W64) (s : State) : State :=
  updCur (fun w => { w with lanes := w.lanes.map (fun l =>
    if issuing s.cur.2 l || gatheredAt start l then { l with pc := word, chainPc := some (l.chainPc.getD l.pc) } else l) }) s

/-- The PC of a chain's word. -/
def wordPc (s : State) (x : ChainWord) : W64 := packetOf (curPc s) + BitVec.ofNat 64 (4 * x.idx)

/-- Why a lane of the issuing subgroup of `s` cannot go on in `t` yet: it is to try again, or its wave-wide instruction has not gathered. -/
def heldWhy (s t : State) : Option Wait :=
  (curWave { t with cur := s.cur }).lanes.findSome? (fun l => if (active s).any (fun x => x.id == l.id) then (match l.st with
    | .waiting .retry => some .retry
    | .waiting (.wide m) => some (.wide m)
    | _ => none) else none)

/-- What an attempt at a later word has asked for in `t` stands, and the subgroup of `s` waits at its chain. -/
def backTo (why : Wait) (s t : State) : State :=
  updWave s.cur.1 (fun w => { w with lanes := (curWave s).lanes.map (fun l => if issuing s.cur.2 l then { l with st := .waiting why } else l) }) { t with cur := s.cur }

/-- A chain is tried before it issues: where one of its later words has to wait, the whole chain waits for it. -/
def holdChain (x : Meaning) (s : State) : List ChainWord → Option State
  | [] => none
  | y :: ys =>
    match x y.ins (atWord (curPc s) (wordPc s y) s) with
    | .next t =>
      if !t.asks.isEmpty then some (waitHere .retry (askAll t.asks s))
      else match heldWhy s t with
        | some why => some (backTo why s t)
        | none => holdChain x s ys
    | _ => holdChain x s ys

/-- One of the later words is wave-wide, and has gathered the subgroups that wait for it at the chain. -/
def gathersChain (x : Meaning) (s : State) (ys : List ChainWord) : Bool :=
  (curWave s).lanes.any (gatheredAt (curPc s)) && ys.any (fun y =>
    match x y.ins (atWord (curPc s) (wordPc s y) s) with
    | .next t => (curWave { t with cur := s.cur }).lanes.all (fun l => !gatheredAt (wordPc s y) l)
    | _ => false)

/-- The subgroups that wait at the chain merge with the one that issues, into the lowest of their slots (R147). -/
def mergeChain (s : State) : State :=
  let here (l : Lane) : Bool := issuing s.cur.2 l || gatheredAt (curPc s) l
  let slot := (least (((curWave s).lanes.filter here).map (·.slot))).getD s.cur.2
  let t := updCur (fun w => { w with lanes := w.lanes.map (fun l => if here l then { l with st := .ready, slot } else l) }) s
  { t with cur := (s.cur.1, slot) }

/-- The words of a chain, one after another, until one of them ends it. -/
def runWords (x : Meaning) : List (Instr × Bool) → State → Out
  | [], s => .next s
  | (i, c) :: rest, s =>
    match x i s with
    | .next t => let u := afterIssue i c s t; if u.chain.isSome then runWords x rest u else .next u
    | o => o

/-- A chain of several words issues whole: nothing else of the machine moves between its words. Where a later word cannot go on, none of them takes effect. -/
def issueChain (x : Meaning) (i : Instr) (c : Bool) (rest : List ChainWord) (s : State) : Out :=
  match holdChain x s rest with
  | some t => .next t
  | none =>
    let s1 := if gathersChain x s rest then mergeChain s else s
    andThen (fun t =>
      if t.asks.isEmpty && (heldWhy s1 t).isSome && (curWave t).lanes.any (fun l => (active s1).any (fun y => y.id == l.id) && l.chainPc.isSome)
      then waitHere .retry s else commitIssue s { t with chain := none }) (runWords x ((i, c) :: rest.map (fun y => (y.ins, y.c))) s1)

/-- An instruction issues, or the chain that it begins. -/
def issueWords (x : Meaning) (i : Instr) (c : Bool) (rest : List ChainWord) (s : State) : Out :=
  if rest.isEmpty then andThen (fun t => commitIssue s (afterIssue i c s t)) (x i s) else issueChain x i c rest s

/-! ### Timers and arbiters -/

/-- The events of a cluster that may move by themselves (R149, R150, R152, R153, R241, R239). -/
def clusterEvents (s : State) (c : Nat) : List (Nat × Instr) :=
  let x := getCluster s c
  let t := x.tensor
  let when_ (b : Bool) (e : Instr) : List (Nat × Instr) := if b then [(c, e)] else []
  when_ (t.holder.isSome && decide (t.since + 8192 ≤ s.clock) && (!t.ending || seqBusy t)) .leaseExpiry
    ++ when_ (t.holder.isNone && !t.reqs.isEmpty && (nextGrant s c).isSome) .leaseGrant
    ++ when_ (x.opens.any (fun o => decide (o.since + o.timeout ≤ s.clock))) .couplerTimeout
    ++ when_ (couplerWork x) .couplerAccept
    ++ when_ (!x.releaseQ.isEmpty) .waveAdmit
    ++ when_ (!x.dispatchQ.isEmpty || !x.offers.isEmpty) .cartDispatch
    ++ when_ (!x.copyQ.isEmpty) .copyEngineDone
    ++ when_ (!x.pubQ.isEmpty) .publishDone
    ++ when_ (!x.collQ.isEmpty) .collectiveDone

/-- The events of a die (R28, R46, R320, R322, R329, R341, R345). -/
def dieEvents (s : State) (d : Nat) : List (Nat × Instr) :=
  let x := getDie s d
  let when_ (b : Bool) (e : Instr) : List (Nat × Instr) := if b then [(d, e)] else []
  when_ (!(eligible s d).isEmpty || !s.tcbWork.isEmpty || !s.replays.isEmpty || x.slots.any (fun p => p.2.headDue)) .qmDecision
    ++ (x.slots.filter (fun p => p.2.notify != 0)).map (fun p => (d, .notifyFold d p.1))
    ++ when_ (x.reqs.any (fun q => !q.posted)) .pageRequestRoomRecheck
    ++ when_ (x.misses.any (fun m => !m.walking) || s.clusters.any (fun p => p.1 / 64 == d && !p.2.missq.isEmpty)) .pageWalk
    ++ when_ (x.misses.any (·.walking)) .walkComplete
    ++ when_ (!x.copies.isEmpty) .pageCopyDone
    ++ when_ (!x.sbe.isEmpty) .sbeCommandDone
    ++ (x.rdc.filter (fun p => p.2.mask != 0)).map (fun p => (d, .rdcDrainTimer d p.1))

/-- The events of a wave (R108, R206, R210, R223, R346). -/
def waveEvents (s : State) (w : Wave) : List (Nat × Instr) :=
  let when_ (b : Bool) (e : Instr) : List (Nat × Instr) := if b && !w.halted && !ctxAway s w.ctx then [(w.id, e)] else []
  let logged (b : Bool) (e : Instr) : List (Nat × Instr) := if b && !w.halted then [(w.id, e)] else []
  when_ ((sleepers w).any (fun p => waitaOver s p.2)) .waitaWake
    ++ when_ ((sleepers w).any (fun p => p.2.place == 1)) .waitaPeerPoll
    ++ when_ (w.lanes.any (fun l => l.st == .fpParked)) .fpParkAction
    ++ when_ (w.lanes.any (fun l => match l.st with | .waiting (.yield _ _) => true | _ => false)) .yieldTimeout
    ++ logged (w.log.any (fun e => e.2.lanes.any (fun p => p.wait == .data))) .loadReturn
    ++ logged (w.log.any (fun e => e.2.lanes.any (fun p => !p.trapped && pageReady s p))) .logReplay

/-- Every event that may move when no instruction does. -/
def idleEvents (s : State) : List (Nat × Instr) :=
  s.clusters.flatMap (fun p => clusterEvents s p.1) ++ s.dies.flatMap (fun p => dieEvents s p.1) ++ s.waves.flatMap (waveEvents s)
    ++ (if s.remote.isEmpty then [] else [(0, .remoteResponse 0 true)])
    ++ ((span 0 s.posts.length).filter (fun i => (s.posts[i]?).any (fun p => !postSaved s p))).map (fun i => (i, .supvPostRetry))
    ++ (s.ctxs.filter (fun p => p.2.stat == .resuming || (p.2.stat == .live && !p.2.saved.pinned.isEmpty))).map (fun p => (p.1, .teamResumePlace))

/-- One of them, in turn. -/
def idleEvent (s : State) : Option (Nat × Instr) :=
  let es := idleEvents s
  es[s.polls % es.length]?

/-! ### The next move -/

/-- What moves next: a subgroup issues, an event happens, or nothing but time. -/
inductive Move where
  | issue (wave slot : Nat)
  | event (site : Nat) (e : Instr)
  | idle
deriving DecidableEq, Repr, Inhabited

/-- Time passes: the periods that a step takes (R2, R358), and the turn of the timers, which also lets the events that wait be tried again. -/
def tick (s : State) : State :=
  let s1 := { s with clock := s.clock + Config.periods s.free, free := s.free + 1, turn := s.turn + 1 }
  if s1.turn % 64 = 0 then unstall s1 else s1

/-- With nothing to do, at least one period passes, and the events that wait are tried again. -/
def idleTick (s : State) : State := unstall { s with clock := s.clock + 1 }

/-- The move of a state whose chain and agenda are empty: in every 64th step a timer or arbiter first, else the next Ready subgroup, else a timer. -/
def freeMove (s : State) : Move :=
  let timer : Option Move := (idleEvent s).map (fun p => .event p.1 p.2)
  let issue : Option Move := (nextIssue s).map (fun p => .issue p.1 p.2)
  let first := if s.turn % 64 = 0 then timer else none
  ((first.orElse (fun _ => issue)).orElse (fun _ => timer)).getD .idle

/-- A chain in issue goes on; else the oldest event; else as freeMove says. -/
def nextMove (s : State) : Move :=
  match chainReady s with
  | some (k, slot) => .issue k slot
  | none => match s.agenda with
    | (site, e) :: _ => .event site e
    | [] => freeMove s

/-- The state in which an event happens: its place in `site`, and it no longer on the agenda, where it stood there. -/
def takeEvent (site : Nat) (e : Instr) (s : State) : State :=
  match s.agenda with
  | [] => { s with site, polls := s.polls + 1, doing := some (.event site e), asks := [] }
  | x :: r => { s with site, agenda := if x == (site, e) then r else x :: r, doing := some (.event site e), asks := [] }

/-- After an attempt to issue: the slot that issued, the lower one after a merge (R144), is remembered; lanes that wait try again unless the attempt itself only
waits. -/
def finishIssue (k slot : Nat) (s : State) : State :=
  let j := if s.cur.1 = k then s.cur.2 else slot
  settle (!blocked s) (wakeYields k j (noteIssue k j s))

end Sys2Proof.Machine
end

