-- ==== Sys2Proof/Machine/Step.lean ====
section
/-! DEFINITION. One step of the package: a subgroup executes one instruction, or one event happens, or only time passes. -/

namespace Sys2Proof.Machine

/-- A subgroup issues: it traps or waits at the fetch, or it executes one instruction, or the words of one chain. -/
def issueStep (k slot : Nat) (s : State) : Host.Outcome State Fault Refusal :=
  match prepare k slot (startIssue s) with
  | (s1, .done) => .next (finishIssue k slot s1)
  | (s1, .run i c rest) => andThen (finishIssue k slot) (issueWords exec i c rest s1)

/-- One event. -/
def eventStep (site : Nat) (e : Instr) (s : State) : Host.Outcome State Fault Refusal :=
  andThen (fun t => settle true (commitEvent site e (takeEvent site e s) t)) (exec e (takeEvent site e s))

/-- One step. -/
def step (s : State) : Host.Outcome State Fault Refusal :=
  match nextMove (tick s) with
  | .issue k slot => issueStep k slot (tick s)
  | .event site e => eventStep site e (tick s)
  | .idle => .next (settle true (idleTick (tick s)))

/-- The state with an instruction placed where the next step fetches it (notes/assumptions). -/
def State.withFetchWord (s : State) (nbits w : Nat) : State := placeWord (w % 2 ^ nbits) s

end Sys2Proof.Machine
end

