-- ==== Sys2Proof/WellFormed.lean ====
section
/-! DEFINITION. When an instruction is well formed for an executor (R159): its fields obey its format's and its own rules, every register it names exists
there, and an event's operands lie in their ranges. The machine traps ILLOP on an instruction word that is not (R158, R159, R166). -/

namespace Sys2Proof

open Sys2Proof.Machine

/-- The operands of an event lie in the ranges that the device has: dies 0 to 3, clusters 0 to 255, queue slots 0 to 255 (R3, R135, R314). -/
def Instr.eventOk : Instr → Bool
  | .fillReturn die _ => die < 4
  | .homeLoadMiss (.cluster c) _ => c < 256
  | .homeLoadMiss (.rdc die) _ => die < 4
  | .homeLoadMiss .host _ => true
  | .homeStore c _ bytes => c < 256 && bytes.length ≤ 64
  | .homeAtomic die _ _ _ _ _ => die < 4
  | .homeWriteback die _ => die < 4
  | .dirtyNotice die _ => die < 4
  | .clusterProbe c _ _ _ => c < 256
  | .rdcInvalidate die _ => die < 4
  | .rdcPull die _ => die < 4
  | .rdcDrainTimer die _ => die < 4
  | .remoteTagInstall die _ _ => die < 4
  | .hold c _ fmt _ => c < 256 && fmt.toNat < 5
  | .dataMsg c _ fmt _ => c < 256 && fmt.toNat < 5
  | .inval c _ fmt => c < 256 && fmt.toNat < 5
  | .probeTimeout (.cluster c) _ => c < 256
  | .probeTimeout (.rdc die) _ => die < 4
  | .probeTimeout .host _ => true
  | .notifyFold die slot => die < 4 && slot < 256
  | .tcbDecrement _ die _ _ => die < 4
  | .pgresp die _ => die < 4
  | .qnc die slot _ => die < 4 && slot < 256
  | .dispatch die _ => die < 4
  | .prqbaseWrite die _ => die < 4
  | .errlogClear die _ => die < 4
  | .statusAccerrClear die _ => die < 4
  | .correctedError die _ _ => die < 4
  | .unitFailure die _ => die < 4
  | .powerGating die _ => die < 4
  | .clusterClockStop c _ => c < 256
  | .unassignedMajor w => unassigned (majorOf w)
  | _ => true

/-- Well formed on an executor: a cart or a wave, with `regs` v registers allocated. -/
def Instr.wf (cart : Bool) (regs : Nat) (i : Instr) : Bool :=
  match use i with
  | some u => u.fits cart regs
  | none => i.eventOk

end Sys2Proof
end

