-- ==== Sys2Proof/Safety.lean ====
section
/-! DEFINITION. The vocabulary of the claims: reference results written from the rules with bit-vector and integer arithmetic, the whole effect of an
instruction on its subgroup, what it means that memory elsewhere is unchanged, and what counts as a good state. -/

namespace Sys2Proof.Spec

open Sys2Proof.Machine

/-! ### The effect of an instruction on its subgroup -/

/-- The machine with the issuing wave changed by `g` and the lanes of its issuing subgroup by `f`; nothing else is changed. -/
def issueUpd (g : Wave → Wave) (f : Lane → Lane) (s : State) : State :=
  { s with waves := s.waves.map (fun w =>
      if w.id = s.cur.1 then { g w with lanes := w.lanes.map (fun l => if issuing s.cur.2 l then f l else l) } else w) }

/-- The lane stands n words further on. -/
def moved (n : Nat) (l : Lane) : Lane := { l with pc := l.pc + BitVec.ofNat 64 (4 * n) }

/-- The lane with v registers written one after another and floating flags added. -/
def wrote (ws : List (Nat × W32)) (fl : Flags) (l : Lane) : Lane :=
  { l with v := ws.foldl (fun v p => setNth p.2 v p.1) l.v, fpflags := l.fpflags ||| fl }

/-- Every selected lane writes its v registers and adds its flags, and the subgroup moves past n words (R142, R155, R176). -/
def laneResult (g : BitVec 4) (gn : Bool) (n : Nat) (ws : Lane → List (Nat × W32)) (fl : Lane → Flags) (s : State) : State :=
  issueUpd id (fun l => moved n (if selects (curWave s) g gn l then wrote (ws l) (fl l) l else l)) s

/-- One w register takes the value of the lowest selected lane, whose flags every selected lane adds; with no lane selected nothing is written
(R142, R176). -/
def waveResult (g : BitVec 4) (gn : Bool) (n d : Nat) (x : Lane → W64) (fl : Lane → Flags) (s : State) : State :=
  match (selected s g gn).head? with
  | none => issueUpd id (moved n) s
  | some k => issueUpd (fun w => { w with w := setNth (x k) w.w d })
      (fun l => moved n (if selects (curWave s) g gn l then wrote [] (fl k) l else l)) s

/-- The bits of an m register that belong to selected lanes take their lanes' values; m0 stays (R142). -/
def maskAfter (s : State) (g : BitVec 4) (gn : Bool) (x : Lane → Bool) (old : Mask) : Mask :=
  (selected s g gn).foldl (fun m l => setBit m l.id (x l)) old

def maskResult (g : BitVec 4) (gn : Bool) (n d : Nat) (x : Lane → Bool) (fl : Lane → Flags) (s : State) : State :=
  issueUpd (fun w => if d = 0 then w else { w with m := setNth (maskAfter s g gn x (nth 0 w.m d)) w.m d })
    (fun l => moved n (if selects (curWave s) g gn l then wrote [] (fl l) l else l)) s

/-! ### Integer results (R174, R178 to R185) -/

/-- A function of three operands at each of the widths 32 and 64. -/
abbrev Fn := (W : Nat) → BitVec W → BitVec W → BitVec W → BitVec W

/-- W of R174. -/
def width (r : Rec) : Nat := if r.kd = .w ∨ r.ty = 6 then 64 else 32

/-- The result of an integer function in a lane. -/
def intValue (r : Rec) (f : Fn) (w : Wave) (l : Lane) : BitVec (width r) :=
  f (width r) (BitVec.ofNat _ (aVal r w l (width r))) (BitVec.ofNat _ (bVal r w l (width r))) (BitVec.ofNat _ (cVal r w l (width r)))

/-- An integer instruction: D is a w register, a v register, or a pair of them with the low word first (R115, R174, R176). -/
def intEffect (r : Rec) (f : Fn) (s : State) : State :=
  let w := curWave s
  if r.kd = .w then waveResult r.g r.n r.words r.d (fun l => (intValue r f w l).setWidth 64) (fun _ => 0) s
  else laneResult r.g r.n r.words (fun l =>
    let x := intValue r f w l
    if r.ty = 6 then [(r.d, x.setWidth 32), (r.d + 1, (x >>> 32).setWidth 32)] else [(r.d, x.setWidth 32)]) (fun _ => 0) s

/-- Sums, products and bitwise functions (R178), with the operand record of each form (R164). -/
def arith : Instr → Option (Rec × Fn)
  | .add o => some (recAlu o, fun _ a b _ => a + b)
  | .addRg o => some (recRG false o, fun _ a b _ => a + b)
  | .addIm o => some (recIM o, fun _ a b _ => a + b)
  | .sub o => some (recAlu o, fun _ a b _ => a - b)
  | .subRg o => some (recRG false o, fun _ a b _ => a - b)
  | .mul o => some (recAlu o, fun _ a b _ => a * b)
  | .mulRg o => some (recRG false o, fun _ a b _ => a * b)
  | .mad o => some (recXR o, fun _ a b c => a * b + c)
  | .madRg o => some (recRG true o, fun _ a b c => a * b + c)
  | .and o => some (recAlu o, fun _ a b _ => a &&& b)
  | .andRg o => some (recRG false o, fun _ a b _ => a &&& b)
  | .andIm o => some (recIM o, fun _ a b _ => a &&& b)
  | .or o => some (recAlu o, fun _ a b _ => a ||| b)
  | .orRg o => some (recRG false o, fun _ a b _ => a ||| b)
  | .orIm o => some (recIM o, fun _ a b _ => a ||| b)
  | .xor o => some (recAlu o, fun _ a b _ => a ^^^ b)
  | .xorRg o => some (recRG false o, fun _ a b _ => a ^^^ b)
  | .xorIm o => some (recIM o, fun _ a b _ => a ^^^ b)
  | .andn o => some (recAlu o, fun _ a b _ => a &&& ~~~b)
  | .andnRg o => some (recRG false o, fun _ a b _ => a &&& ~~~b)
  | _ => none

/-- High halves of products, smaller and larger values, magnitudes (R178). -/
def order : Instr → Option (Rec × Fn)
  | .mulh o => some (recAlu o, fun W a b _ => BitVec.ofInt W (a.toInt * b.toInt / 2 ^ W))
  | .mulhu o => some (recAlu o, fun W a b _ => BitVec.ofNat W (a.toNat * b.toNat / 2 ^ W))
  | .min o => some (recAlu o, fun _ a b _ => if a.toInt ≤ b.toInt then a else b)
  | .minRg o => some (recRG false o, fun _ a b _ => if a.toInt ≤ b.toInt then a else b)
  | .max o => some (recAlu o, fun _ a b _ => if a.toInt ≤ b.toInt then b else a)
  | .maxRg o => some (recRG false o, fun _ a b _ => if a.toInt ≤ b.toInt then b else a)
  | .minu o => some (recAlu o, fun _ a b _ => if a.toNat ≤ b.toNat then a else b)
  | .maxu o => some (recAlu o, fun _ a b _ => if a.toNat ≤ b.toNat then b else a)
  | .abs o => some (recXR o, fun _ a _ _ => if a.toInt < 0 then -a else a)
  | _ => none

/-- Quotients and remainders (R179): a zero divisor gives all ones and the dividend. -/
def divide : Instr → Option (Rec × Fn)
  | .div o => some (recAlu o, fun _ a b _ => if b = 0 then -1 else a.sdiv b)
  | .divu o => some (recAlu o, fun _ a b _ => if b = 0 then -1 else a / b)
  | .rem o => some (recAlu o, fun _ a b _ => if b = 0 then a else a.srem b)
  | .remu o => some (recAlu o, fun _ a b _ => if b = 0 then a else a % b)
  | _ => none

/-- Shifts and rotates by the amount modulo W (R180). -/
def shift : Instr → Option (Rec × Fn)
  | .shl o => some (recAlu o, fun W a b _ => a <<< (b.toNat % W))
  | .shlRg o => some (recRG false o, fun W a b _ => a <<< (b.toNat % W))
  | .shlIm o => some (recIM o, fun W a b _ => a <<< (b.toNat % W))
  | .shr o => some (recAlu o, fun W a b _ => a >>> (b.toNat % W))
  | .shrRg o => some (recRG false o, fun W a b _ => a >>> (b.toNat % W))
  | .shrIm o => some (recIM o, fun W a b _ => a >>> (b.toNat % W))
  | .sra o => some (recAlu o, fun W a b _ => a.sshiftRight (b.toNat % W))
  | .sraRg o => some (recRG false o, fun W a b _ => a.sshiftRight (b.toNat % W))
  | .sraIm o => some (recIM o, fun W a b _ => a.sshiftRight (b.toNat % W))
  | .rol o => some (recAlu o, fun W a b _ => a.rotateLeft (b.toNat % W))
  | _ => none

/-- Zero bits above the highest one bit, zero bits below the lowest, one bits (R180). -/
def leading {W : Nat} (a : BitVec W) : Nat := ((List.range W).takeWhile (fun i => !a.getLsbD (W - 1 - i))).length
def trailing {W : Nat} (a : BitVec W) : Nat := ((List.range W).takeWhile (fun i => !a.getLsbD i)).length
def onesOf {W : Nat} (a : BitVec W) : Nat := ((List.range W).filter (fun i => a.getLsbD i)).length

/-- The width of a bit field: at most W (R181). -/
def fieldWidth (W : Nat) (b : BitVec W) : Nat := Nat.min (b.toNat / 256 % 256) W

/-- Bits p to p + n - 1 of a word, those beyond its top reading 0 (R181). -/
def field {W : Nat} (a : BitVec W) (p n : Nat) : BitVec W := (a >>> p) &&& BitVec.ofNat W (2 ^ n - 1)

/-- Bit counts, reversal and bit fields (R180, R181). -/
def bits : Instr → Option (Rec × Fn)
  | .clz o => some (recXR o, fun W a _ _ => BitVec.ofNat W (leading a))
  | .clzRg o => some (recRG false o, fun W a _ _ => BitVec.ofNat W (leading a))
  | .ctz o => some (recXR o, fun W a _ _ => BitVec.ofNat W (trailing a))
  | .ctzRg o => some (recRG false o, fun W a _ _ => BitVec.ofNat W (trailing a))
  | .popc o => some (recXR o, fun W a _ _ => BitVec.ofNat W (onesOf a))
  | .popcRg o => some (recRG false o, fun W a _ _ => BitVec.ofNat W (onesOf a))
  | .brev o => some (recXR o, fun _ a _ _ => a.reverse)
  | .bfe o => some (recAlu o, fun W a b _ =>
      let n := fieldWidth W b
      let f := field a (b.toNat % 256) n
      if (recAlu o).md % 2 = 1 ∧ 0 < n ∧ f.getLsbD (n - 1) then f - BitVec.ofNat W (2 ^ n) else f)
  | .bfi o => some (recXR o, fun W a b c =>
      let m := BitVec.ofNat W (2 ^ fieldWidth W b - 1) <<< (b.toNat % 256)
      (c &&& ~~~m) ||| ((a <<< (b.toNat % 256)) &&& m))
  | _ => none

/-- Coordinate bits that interleaving takes (R182). -/
def coordBits (W : Nat) : Nat := if W = 64 then 21 else 10

/-- The word whose bit i is p i. -/
def ofBits (W : Nat) (p : Nat → Bool) : BitVec W := BitVec.ofNat W ((List.range W).foldr (fun i acc => (p i).toNat + 2 * acc) 0)

/-- Bit interleaving of three coordinates, and one coordinate taken back (R182), bit by bit. -/
def interleave : Instr → Option (Rec × Fn)
  | .bil o => some (recXR o, fun W a b c => ofBits W (fun i =>
      decide (i < 3 * coordBits W) && (match i % 3 with | 0 => a.getLsbD (i / 3) | 1 => b.getLsbD (i / 3) | _ => c.getLsbD (i / 3))))
  | .bilx o => some (recXR o, fun W a _ _ => ofBits W (fun i => decide (i < coordBits W) && a.getLsbD (3 * i + (recXR o).md % 4)))
  | _ => none

/-- MOVI: the sign-extended immediate (R184). -/
def immediate : Instr → Option (Rec × Fn)
  | .movi o => some (recXI o, fun W _ _ _ => BitVec.ofInt W (sgn 32 o.imm.toNat))
  | .moviIw o => some (recIW o, fun W _ _ _ => BitVec.ofInt W (sgn 17 o.imm.toNat))
  | _ => none

/-- MOVH: the operand record and the immediate (R184). -/
def high : Instr → Option (Rec × Int)
  | .movh o => some (recXI o, sgn 32 o.imm.toNat)
  | .movhIw o => some (recIW o, sgn 17 o.imm.toNat)
  | _ => none

/-- The immediate becomes the upper half of D, whose lower half stays (R184). -/
def highEffect (r : Rec) (i : Int) (s : State) : State :=
  let w := curWave s
  if r.kd = .w then waveResult r.g r.n r.words r.d (fun _ => BitVec.ofInt 32 i ++ (wGet w r.d).setWidth 32) (fun _ => 0) s
  else laneResult r.g r.n r.words (fun l => [(r.d, BitVec.ofInt 16 i ++ (vGet l r.d).setWidth 16)]) (fun _ => 0) s

/-- MOV's operand record (R184). -/
def move : Instr → Option Rec
  | .mov o => some (recXR o)
  | .movRg o => some (recRG false o)
  | _ => none

/-- The source of a MOV as 64 bits (R184). -/
def moveSource (r : Rec) (w : Wave) (l : Lane) : W64 :=
  match r.ka with
  | .v => (vGet l r.a).setWidth 64
  | .w => wGet w r.a
  | .mb => mbGet w r.a
  | .m => 0

/-- A MOV into v registers, a w register or a mailbox; MOD 1 takes the upper half of a mailbox (R184). -/
def moveEffect (r : Rec) (s : State) : State :=
  let w := curWave s
  match r.kd with
  | .v => laneResult r.g r.n r.words (fun l =>
      [(r.d, if r.md = 1 then (moveSource r w l >>> 32).setWidth 32 else (moveSource r w l).setWidth 32)]) (fun _ => 0) s
  | .w => waveResult r.g r.n r.words r.d (moveSource r w) (fun _ => 0) s
  | .mb => (match (selected s r.g r.n).head? with
    | none => issueUpd id (moved r.words) s
    | some k => issueUpd (fun x => { x with mb := setNth (moveSource r w k) x.mb r.d }) (moved r.words) s)
  | .m => s

/-- SEL: A where the lane's bit of mask register C is set, else B (R183). -/
def selEffect (o : XR) (s : State) : State :=
  let r := recXR o
  let w := curWave s
  laneResult r.g r.n 2 (fun l =>
    let x : BitVec 64 := BitVec.ofNat 64 (if mBit w r.c l.id then aVal r w l (width r) else bVal r w l (width r))
    if r.ty = 6 then [(r.d, x.setWidth 32), (r.d + 1, (x >>> 32).setWidth 32)] else [(r.d, x.setWidth 32)]) (fun _ => 0) s

/-- The conditions of CMP (R183): MOD[2:0], and MOD[3] for unsigned order. -/
def holds {W : Nat} (md : Nat) (a b : BitVec W) : Bool :=
  let lt : Bool := if md / 8 % 2 = 1 then a.ult b else a.slt b
  let gt : Bool := if md / 8 % 2 = 1 then b.ult a else b.slt a
  match md % 8 with
  | 0 => a == b
  | 1 => a != b
  | 2 => lt
  | 3 => !gt
  | 4 => gt
  | _ => !lt

/-- W of a CMP: 64 also where both sources are w registers (R174). -/
def cmpWidth (r : Rec) : Nat := if r.ty = 6 ∨ (r.ka = .w ∧ r.kb = .w) then 64 else 32

def cmpEffect (o : XR) (s : State) : State :=
  let r := recXR o
  let w := curWave s
  maskResult r.g r.n 2 r.d (fun l =>
    holds r.md (BitVec.ofNat (cmpWidth r) (aVal r w l (cmpWidth r))) (BitVec.ofNat (cmpWidth r) (bVal r w l (cmpWidth r)))) (fun _ => 0) s

/-- The address of LEA (R185): base plus index shifted left; a v index is extended by sign, or by zeros under MOD[2]. -/
def leaValue (r : Rec) (w : Wave) (l : Lane) : W64 :=
  let base : W64 := if r.ka = .w then wGet w r.a else vGet l (r.a + 1) ++ vGet l r.a
  let idx : W64 := if r.kb = .w then wGet w r.b else if r.md / 4 % 2 = 1 then (vGet l r.b).setWidth 64 else (vGet l r.b).signExtend 64
  base + (idx <<< (r.md % 4))

def leaEffect (o : XR) (s : State) : State :=
  let r := recXR o
  let w := curWave s
  if r.kd = .w then waveResult r.g r.n 2 r.d (leaValue r w) (fun _ => 0) s
  else laneResult r.g r.n 2 (fun l => [(r.d, (leaValue r w l).setWidth 32), (r.d + 1, (leaValue r w l >>> 32).setWidth 32)]) (fun _ => 0) s

/-- The instruction is well formed for the wave that issues it. -/
def Fits (i : Instr) (s : State) : Prop := i.wf (curWave s).cart (curWave s).regs = true

/-! ### Floating results (R117 to R128, R186 to R194) -/

/-- No lane of the issuing subgroup has an exception enabled (R123). -/
def NoTraps (s : State) : Prop := ∀ l ∈ active s, l.fpen = 0

/-- A function of the elements of three words, in the elements' format. -/
abbrev ElemFn := Fmt → Nat → Nat → Nat → Nat × Flags

/-- The elementwise instructions (R119, R126, R187, R188): each element is the function of the elements at its place. -/
def elementwise : Instr → Option (Rec × ElemFn)
  | .fadd o => some (recAlu o, fun f a b _ => faddE f (recAlu o).rm a b)
  | .faddRg o => some (recRG false o, fun f a b _ => faddE f .rne a b)
  | .fsub o => some (recAlu o, fun f a b _ => fsubE f (recAlu o).rm a b)
  | .fsubRg o => some (recRG false o, fun f a b _ => fsubE f .rne a b)
  | .fmul o => some (recAlu o, fun f a b _ => fmulE f (recAlu o).rm a b)
  | .fmulRg o => some (recRG false o, fun f a b _ => fmulE f .rne a b)
  | .ffma o => some (recXR o, fun f a b c => ffmaE f o.rm a b c)
  | .ffmaRg o => some (recRG true o, fun f a b c => ffmaE f .rne a b c)
  | .fmin o => some (recAlu o, fun f a b _ => fminmaxE f false a b)
  | .fminRg o => some (recRG false o, fun f a b _ => fminmaxE f false a b)
  | .fmax o => some (recAlu o, fun f a b _ => fminmaxE f true a b)
  | .fmaxRg o => some (recRG false o, fun f a b _ => fminmaxE f true a b)
  | .frnd o => some (recXR o, fun f a _ _ => frndE f o.rm a)
  | .fclass o => some (recXR o, fun f a _ _ => (fclassE f a, 0))
  | .fsqrt o => some (recXR o, fun _ a _ _ => fsqrtE o.rm a)
  | .fsqrtRg o => some (recRG false o, fun _ a _ _ => fsqrtE .rne a)
  | .frcp o => some (recXR o, fun _ a _ _ => approxE 0 a)
  | .frcpRg o => some (recRG false o, fun _ a _ _ => approxE 0 a)
  | .frsq o => some (recXR o, fun _ a _ _ => approxE 1 a)
  | .frsqRg o => some (recRG false o, fun _ a _ _ => approxE 1 a)
  | .fexp2 o => some (recXR o, fun _ a _ _ => approxE 3 a)
  | .fexp2Rg o => some (recRG false o, fun _ a _ _ => approxE 3 a)
  | .flog2 o => some (recXR o, fun _ a _ _ => approxE 4 a)
  | .flog2Rg o => some (recRG false o, fun _ a _ _ => approxE 4 a)
  | .fsin o => some (recXR o, fun _ a _ _ => approxE 5 a)
  | .fsinRg o => some (recRG false o, fun _ a _ _ => approxE 5 a)
  | .fcos o => some (recXR o, fun _ a _ _ => approxE 6 a)
  | .fcosRg o => some (recRG false o, fun _ a _ _ => approxE 6 a)
  | _ => none

/-- Element j of an elementwise result in a lane. -/
def element (r : Rec) (f : ElemFn) (w : Wave) (l : Lane) (j : Nat) : Nat × Flags :=
  let b := (fmtOfTy r.ty).width
  f (fmtOfTy r.ty) (elem b j (word32 w l r.ka r.a)) (elem b j (bWord r w l)) (elem b j (word32 w l r.kc r.c))

/-- The result word, element 0 lowest, and the union of the elements' flags. -/
def elements (r : Rec) (f : ElemFn) (w : Wave) (l : Lane) : W32 × Flags :=
  let n := 32 / (fmtOfTy r.ty).width
  (packElems (fmtOfTy r.ty).width ((span 0 n).map (fun j => (element r f w l j).1)), (span 0 n).foldl (fun fl j => fl ||| (element r f w l j).2) 0)

/-- One value per lane in v register D, or one in w register D, extended by zeros (R176, R186). -/
def wordEffect (r : Rec) (x : Lane → W32 × Flags) (s : State) : State :=
  if r.kd = .w then waveResult r.g r.n r.words r.d (fun l => (x l).1.setWidth 64) (fun l => (x l).2) s
  else laneResult r.g r.n r.words (fun l => [(r.d, (x l).1)]) (fun l => (x l).2) s

/-- FCMP: the ordered conditions on FP32 values, a quiet comparison for equality (R188). -/
def fcmpEffect (o : XR) (s : State) : State :=
  let r := recXR o
  let w := curWave s
  let x (l : Lane) : Bool × Flags := fcmpE .fp32 (r.md % 8) (word32 w l r.ka r.a).toNat (bWord r w l).toNat
  maskResult r.g r.n 2 r.d (fun l => (x l).1) (fun l => (x l).2) s

/-- The packed functions that write v registers (R192 to R194), with their writes and flags in a lane. -/
def packed : Instr → Option (XR × (Wave → Lane → List (Nat × W32) × Flags))
  | .wmul o => some (o, wmulLane (recXR o))
  | .quant o => some (o, quantLane (recXR o))
  | .dequant o => some (o, dequantLane (recXR o))
  | .pack o => some (o, fun _ l => packLane (recXR o) l)
  | .unpack o => some (o, unpackLane (recXR o))
  | _ => none

/-- The exact sum of four products of 8-bit integers and a signed addend (R191). -/
def intDot (ua ub : Bool) (x y z : W32) : Int :=
  let e (u : Bool) (q : W32) (j : Nat) : Int := if u then ((q >>> (8 * j)).setWidth 8 : Byte).toNat else ((q >>> (8 * j)).setWidth 8 : Byte).toInt
  z.toInt + e ua x 0 * e ub y 0 + e ua x 1 * e ub y 1 + e ua x 2 * e ub y 2 + e ua x 3 * e ub y 3

/-- The value that DOT4 and DOT2 give (R191). -/
def dotValue (r : Rec) (n : Nat) (w : Wave) (l : Lane) : W32 × Flags :=
  if r.ty = 7 then (BitVec.ofInt 32 (intDot (r.md % 2 = 1) (r.md / 2 % 2 = 1) (word32 w l r.ka r.a) (bWord r w l) (word32 w l r.kc r.c)), 0)
  else
    let q := dotN r n (word32 w l r.ka r.a) (bWord r w l) (word32 w l r.kc r.c)
    (BitVec.ofNat 32 q.1, q.2)

/-! ### Lane functions (R147, R195 to R199) -/

/-- The issuing wave stands in the state, alone under its number, its lanes numbered apart; its issuing subgroup has lanes, all at one PC, and but for
FP-parked lanes no other lane stands in its slot. -/
def Issues (s : State) : Prop :=
  curWave s ∈ s.waves ∧ (s.waves.map (·.id)).Nodup ∧ ((curWave s).lanes.map (·.id)).Nodup ∧
    active s ≠ [] ∧ (∀ l ∈ active s, l.pc = curPc s) ∧
    ∀ l ∈ (curWave s).lanes, slotted l = true → l.slot = s.cur.2 → l.st = .ready ∨ l.st = .fpParked

/-- The effective mask of member mask m has gathered, in the issuing subgroup (R147). -/
def Gathered (m : Mask) (s : State) : Prop :=
  Issues s ∧ (∀ l ∈ active s, bit m l.id = true) ∧ ∀ l ∈ (curWave s).lanes, alive l = true → bit m l.id = true → issuing s.cur.2 l = true

/-- The member mask of a lane function (R195). -/
def member (r : Rec) (s : State) : Mask := if r.kc = .m then mGet (curWave s) r.c else BitVec.allOnes 128

/-- The source lane of a SHFL (R196). -/
def sourceLane (mode b l : Nat) : Option Nat :=
  match mode with
  | 0 => some (b % 128)
  | 1 => if b ≤ l then some (l - b) else none
  | 2 => some (l + b)
  | _ => some (l ^^^ b % 128)

/-- What a lane of E reads from lane k of E, or of itself. -/
def readLane (e : List Lane) (k : Option Nat) (l : Lane) (a : Nat) : W32 :=
  match k with
  | none => vGet l a
  | some k => vGet ((e.find? (fun q => q.id == k)).getD l) a

def shflEffect (r : Rec) (s : State) : State :=
  let w := curWave s
  let e := selected s r.g r.n
  if r.md = 4 then waveResult r.g r.n r.words r.d (fun l => (readLane e (some ((wGet w r.b).toNat % 128)) l r.a).setWidth 64) (fun _ => 0) s
  else laneResult r.g r.n r.words (fun l => [(r.d, readLane e (sourceLane r.md (srcVal w l 32 r.kb r.b) l.id) l r.a)]) (fun _ => 0) s

/-- VOTE's condition over the bits of E (R197). -/
def voteHolds (kind : Nat) (bits : List Bool) : Bool :=
  match kind with
  | 0 => bits.all id
  | 1 => bits.any id
  | _ => bits.all id || bits.all (!·)

def voteEffect (r : Rec) (s : State) : State :=
  let w := curWave s
  let e := selected s r.g r.n
  let one := voteHolds (r.md % 4) (e.map (fun l => mBit w r.a l.id))
  let ballot : Mask := e.foldl (fun m l => setBit m l.id (mBit w r.a l.id)) 0
  if r.kd = .m then maskResult r.g r.n 2 r.d (fun l => if r.md % 4 = 3 then mBit w r.a l.id else one) (fun _ => 0) s
  else waveResult r.g r.n 2 r.d (fun _ => if r.md % 4 = 3 then (if r.md / 4 % 2 = 1 then (ballot >>> 64).setWidth 64 else ballot.setWidth 64)
    else if one then 1 else 0) (fun _ => 0) s

/-- A lane's value as an exact integer (R198). -/
def exact (ty : Nat) (l : Lane) (a : Nat) : Int :=
  match ty with
  | 6 => (vGet l (a + 1) ++ vGet l a : W64).toInt
  | 1 => (vGet l a).toNat
  | _ => (vGet l a).toInt

/-- An integer combination of R198. -/
def join (op ty : Nat) (x y : Int) : Int :=
  let n := if ty = 6 then 64 else 32
  match op with
  | 0 => x + y
  | 1 => if x ≤ y then x else y
  | 2 => if y ≤ x then x else y
  | 3 => if (BitVec.ofInt n x).toNat ≤ (BitVec.ofInt n y).toNat then x else y
  | 4 => if (BitVec.ofInt n y).toNat ≤ (BitVec.ofInt n x).toNat then x else y
  | 5 => (BitVec.ofInt 64 x &&& BitVec.ofInt 64 y).toInt
  | 6 => (BitVec.ofInt 64 x ||| BitVec.ofInt 64 y).toInt
  | _ => (BitVec.ofInt 64 x ^^^ BitVec.ofInt 64 y).toInt

/-- The identity of an exclusive scan (R198). -/
def neutral (op ty : Nat) : Int :=
  match op with
  | 1 => if ty = 6 then 0x7FFFFFFFFFFFFFFF else if ty = 1 then 0xFFFFFFFF else 0x7FFFFFFF
  | 2 => if ty = 6 then -0x8000000000000000 else if ty = 1 then 0 else -0x80000000
  | 3 => -1
  | 5 => -1
  | _ => 0

/-- Values combined from the first on; 0 for none. -/
def joinAll (op ty : Nat) : List Int → Int
  | [] => 0
  | x :: r => r.foldl (join op ty) x

/-- The binary tree over lane positions (R128): node i at level n above the leaves, with the flags of all its combinations. -/
def tree (op : Nat → Nat → Nat × Flags) (leaf : Nat → Option Nat) : Nat → Nat → Option Nat × Flags
  | 0, i => (leaf i, 0)
  | n + 1, i =>
    let p := tree op leaf n (2 * i)
    let q := tree op leaf n (2 * i + 1)
    match p.1, q.1 with
    | some a, some b => (some (op a b).1, p.2 ||| q.2 ||| (op a b).2)
    | some a, none => (some a, p.2 ||| q.2)
    | none, b => (b, p.2 ||| q.2)

/-- The floating combinations of R198. -/
def joinF (op : Nat) (rm : Rm) (x y : Nat) : Nat × Flags :=
  if op = 8 then faddE .fp32 rm x y else fminmaxE .fp32 (op == 10) x y

/-- The 64 bits that a reduction of E gives, with flags (R128, R198). -/
def reduced (r : Rec) (e : List Lane) : W64 × Flags :=
  if r.md < 8 then (BitVec.ofInt 64 (joinAll r.md r.ty (e.map (fun l => exact r.ty l r.a))), 0)
  else
    let t := tree (joinF r.md r.rm) (fun i => (e.find? (fun l => l.id == i)).map (fun l => (vGet l r.a).toNat)) 7 0
    (BitVec.ofNat 64 (t.1.getD 0), t.2)

/-- 64 bits into a v register, or a pair under TY 6. -/
def pairWrites (r : Rec) (x : W64) : List (Nat × W32) :=
  if r.ty = 6 then [(r.d, x.setWidth 32), (r.d + 1, (x >>> 32).setWidth 32)] else [(r.d, x.setWidth 32)]

def reduxEffect (r : Rec) (s : State) : State :=
  let x := reduced r (selected s r.g r.n)
  if r.kd = .w then waveResult r.g r.n 2 r.d (fun _ => x.1) (fun _ => x.2) s
  else laneResult r.g r.n 2 (fun _ => pairWrites r x.1) (fun _ => x.2) s

/-- The running combination of the lanes of a list, with the flags of its last step (R128). -/
def running (op : Nat → Nat → Nat × Flags) : List Nat → Nat × Flags
  | [] => (0, 0)
  | x :: r => r.foldl (fun p y => op p.1 y) (x, 0)

/-- What SCAN gives a lane of E (R198): inclusive, or the inclusive value of the lane before. -/
def scanned (r : Rec) (e : List Lane) (l : Lane) : W64 × Flags :=
  let before := e.takeWhile (fun k => k.id != l.id)
  let op := r.md % 16
  if op < 8 then
    let f (ls : List Lane) : Int := joinAll op r.ty (ls.map (fun k => exact r.ty k r.a))
    (BitVec.ofInt 64 (if r.md / 16 % 2 = 1 then (if before.isEmpty then neutral op r.ty else f before) else f (before ++ [l])), 0)
  else
    let f (ls : List Lane) : Nat × Flags := running (joinF op r.rm) (ls.map (fun k => (vGet k r.a).toNat))
    let first : Nat := if op = 8 then 0 else if op = 9 then 0x7F800000 else 0xFF800000
    (BitVec.ofNat 64 (if r.md / 16 % 2 = 1 then (if before.isEmpty then first else (f before).1) else (f (before ++ [l])).1), (f (before ++ [l])).2)

def scanEffect (r : Rec) (s : State) : State :=
  let e := selected s r.g r.n
  laneResult r.g r.n 2 (fun l => pairWrites r (scanned r e l).1) (fun l => (scanned r e l).2) s

/-- MATCH: the lowest lane of E with the same A (R199). -/
def matchEffect (r : Rec) (s : State) : State :=
  let e := selected s r.g r.n
  let same (k l : Lane) : Bool := vGet k r.a == vGet l r.a && (r.ty != 6 || vGet k (r.a + 1) == vGet l (r.a + 1))
  laneResult r.g r.n 2 (fun l => [(r.d, BitVec.ofNat 32 (((e.find? (fun k => same k l)).map (·.id)).getD l.id))]) (fun _ => 0) s

/-- ELECT: the lowest lane of E (R199). -/
def electEffect (r : Rec) (s : State) : State :=
  let low := ((selected s r.g r.n).head?.map (·.id)).getD 0
  if r.kd = .w then waveResult r.g r.n 2 r.d (fun _ => BitVec.ofNat 64 low) (fun _ => 0) s
  else maskResult r.g r.n 2 r.d (fun l => l.id == low) (fun _ => 0) s

/-- MPOPC: how many lanes of E have their bit of m[A], or how many below the lane (R199). -/
def mpopcEffect (r : Rec) (s : State) : State :=
  let w := curWave s
  let e := selected s r.g r.n
  let count (p : Lane → Bool) : Nat := (e.filter (fun k => mBit w r.a k.id && p k)).length
  if r.kd = .w then waveResult r.g r.n 2 r.d (fun _ => BitVec.ofNat 64 (count (fun _ => true))) (fun _ => 0) s
  else laneResult r.g r.n 2 (fun l => [(r.d, BitVec.ofNat 32 (count (fun k => r.md % 2 = 0 || k.id < l.id)))]) (fun _ => 0) s

/-- The lane functions, each with its operand record and its effect once gathered. -/
def laneFn : Instr → Option (Rec × (State → State))
  | .shfl o => some (recXR o, shflEffect (recXR o))
  | .shflRg o => some (recRG false o, shflEffect (recRG false o))
  | .vote o => some (recXR o, voteEffect (recXR o))
  | .redux o => some (recXR o, reduxEffect (recXR o))
  | .scan o => some (recXR o, scanEffect (recXR o))
  | .matchv o => some (recXR o, matchEffect (recXR o))
  | .elect o => some (recXR o, electEffect (recXR o))
  | .mpopc o => some (recXR o, mpopcEffect (recXR o))
  | _ => none

/-- The mask instructions (R200). -/
def maskFn : Instr → Option (RG × (Bool → Bool → Bool))
  | .mand o => some (o, fun a b => a && b)
  | .mor o => some (o, fun a b => a || b)
  | .mxor o => some (o, fun a b => a ^^ b)
  | .mnot o => some (o, fun a _ => !a)
  | .mmov o => some (o, fun a _ => a)
  | _ => none

/-! ### Control transfer (R143 to R145, R201 to R207) -/

/-- The slot of the group that goes to p (R144): the group of the lowest lane keeps the subgroup's slot, the others take the free slots in the order of
their lowest lanes, and groups beyond those get none. -/
def placeOf (s : State) (next : Lane → W64) (p : W64) : Option Nat :=
  let k := (distinct ((active s).map next)).idxOf p
  if k = 0 then some s.cur.2 else (freeSlots (curWave s))[k - 1]?

/-- The subgroup splits by next PC (R144): each lane is changed by `eff`, takes its next PC and its group's slot, or becomes Overflowed in a group of its own. -/
def splitEffect (next : Lane → W64) (eff : Lane → Lane) (s : State) : State :=
  issueUpd id (fun l => match placeOf s next (next l) with
    | some k => { eff l with pc := next l, slot := k }
    | none => { eff l with pc := next l, st := .overflowed, ovGroup := freshOver (curWave s) + (distinct ((active s).map next)).idxOf (next l) }) s

/-- The address of the packet that holds a PC (R155). -/
def packetAt (pc : W64) : W64 := pc &&& 0xFFFFFFFFFFFFFFF0

/-- The target of a BR instruction (R202). -/
def target (o : BR) (pc : W64) : W64 := packetAt pc + (o.off.signExtend 64 <<< 4)

/-- Bits [51:4] of an address, in place (R143, R203). -/
def linkBits (a : W64) : W64 := a &&& 0x000FFFFFFFFFFFF0

/-- The next PC of a lane under a control transfer: its target where the guard selects it, else the next word. -/
def nextOf (s : State) (g : BitVec 4) (n : Bool) (t : Lane → W64) (l : Lane) : W64 := if selects (curWave s) g n l then t l else l.pc + 4

/-- A control transfer: its guard, its U bit, the target of a lane, and what a taken lane also records (R202 to R204). -/
structure Transfer where
  g : BitVec 4
  n : Bool
  u : Bool
  target : Lane → W64
  eff : Lane → Lane

/-- RET's target and a register target (R204). -/
def transfer (s : State) : Instr → Option Transfer
  | .bra o => some ⟨o.g, o.n, o.u, fun l => target o l.pc, id⟩
  | .call o => some ⟨o.g, o.n, o.u, fun l => target o l.pc, fun l => { l with link := linkBits (packetAt l.pc + 16) }⟩
  | .brx o => some ⟨o.g, o.n, bit o.b 0, fun l => if o.x then wGet (curWave s) o.a.toNat else vGet l (o.a.toNat + 1) ++ vGet l o.a.toNat, id⟩
  | .ret o => some ⟨o.g, o.n, bit o.b 0, fun l => ((linkBits l.link).setWidth 52).signExtend 64, id⟩
  | _ => none

/-- The lanes that disagree with the lowest lane about the next PC (R145). -/
def Agree (s : State) (next : Lane → W64) : Prop := ∀ l ∈ active s, ∀ k ∈ active s, next l = next k

/-- The operand log once lanes have exited (R205): their parts of entries that only read go; their parts of the others are performed as soon as they can be
(log 64). -/
def logAfterExit (ids : List Nat) (log : List (Nat × LogEntry)) : List (Nat × LogEntry) :=
  let left (e : LogEntry) : List LogLane := if onlyLoads e.ins then e.lanes.filter (fun x => !ids.contains x.lane)
    else e.lanes.map (fun x => if ids.contains x.lane then { x with trapped := false } else x)
  (log.map (fun e => (e.1, { e.2 with lanes := left e.2 }))).filter (fun e => !e.2.lanes.isEmpty)

/-! ### Traps (R331 to R337) -/

/-- The handler's address of the issuing wave's context (R334). -/
def handlerAt (s : State) : W64 := ((linkBits (getCtx s (curWave s).ctx).tvec).setWidth 52).signExtend 64

/-- The context names a handler, and its die traces nothing (R334, R376). -/
def Handles (s : State) : Prop :=
  linkBits (getCtx s (curWave s).ctx).tvec ≠ 0 ∧ bit (getDie s ((curWave s).cluster / 64)).regs.chrbase 0 = false

/-- A lane has taken a trap with a cause, TVAL and TEPC in a slot: TCAUSE holds the cause and, as PH, the old H (R331, R332). -/
def enter (s : State) (code : Nat) (tval tepc : W64) (slot : Nat) (l : Lane) : Lane :=
  { l with
    tcause := BitVec.ofNat 64 (code + (if l.h then 2 ^ 60 else 0)), tval := tval, tepc := tepc, targ := 0
    h := true, pc := handlerAt s, chainPc := none, opPc := none, st := .ready, slot := slot }

/-- TRAP, BKPT and SYSC: cause, TVAL and TEPC (R207, R356). -/
def softTrapOf : Instr → Option (Z × Nat × (W64 → W64) × Nat)
  | .trap o => some (o, 17, fun _ => BitVec.ofNat 64 (2 ^ 16 + o.code.toNat), 4)
  | .bkpt o => some (o, 17, fun _ => BitVec.ofNat 64 o.code.toNat, 0)
  | .sysc o => some (o, 18, fun _ => BitVec.ofNat 64 o.code.toNat, 4)
  | _ => none

/-- A lane in the converged handler (R337): as a lane that trapped, with CONV, its slot and its state code in TCAUSE; code 0 where it did not trap itself. -/
def enterConverged (s : State) (code : Nat) (tepc : W64) (slot : Nat) (l : Lane) : Lane :=
  { enter s 0 0 tepc slot l with
    tcause := BitVec.ofNat 64 (code + 2 ^ 61 + (if l.h then 2 ^ 60 else 0) + l.slot % 16 * 2 ^ 52 + stateCode l * 2 ^ 48)
    before := l.st }

/-- Every lane of the issuing subgroup has trapped with a cause and TVAL in the converged handler (R337): m15 holds them, they and every Ready or Waiting lane
outside a handler, Parked and Overflowed lane stand in the lowest slot that no held lane has, the other live lanes are held. -/
def FellBack (s : State) (code : Nat) (tval : W64) (t : State) : Prop :=
  let joined (l : Lane) : Bool := issuing s.cur.2 l || (match l.st with
    | .ready => !l.h
    | .waiting _ => !l.h
    | .parked => true
    | .overflowed => true
    | _ => false)
  let slot := ((span 0 16).filter (fun k => !((curWave s).lanes.any (fun l => slotted l && !joined l && l.slot == k)))).headD 0
  t.waves = s.waves.map (fun w => if w.id = s.cur.1 then { w with
    m := setNth ((active s).foldl (fun m l => setBit m l.id true) 0) w.m 15
    lanes := w.lanes.map (fun l =>
      if issuing s.cur.2 l then { enterConverged s code l.pc slot l with tval := tval }
      else if joined l then enterConverged s 0 l.pc slot l else if alive l then { l with held := true } else l) } else w)

/-! ### Control registers (R335, R354) -/

/-- The bits of a control register that a write changes, by the register's map; the others read 0. -/
def writable : Nat → Option W64
  | 0x010 => some 0x000FFFFFFFFFFFF0
  | 0x011 => some 0x000FFFFFFFFFFFF0
  | 0x012 => some 0x1F
  | 0x013 => some 0x1F
  | 0x020 => some 0xFFFF7F0FFFFF80FF
  | 0x021 => some 0xFFFFFFFFFFFFFFFF
  | 0x022 => some 0xFFFFFFFFFFFFFFFF
  | 0x023 => some 0xFFFFFFFFFFFFFFFF
  | 0x030 => some 0x000FFFFFFFFFFFF0
  | 0x031 => some 0x000FFFFFFFFFFFFD
  | 0x040 => some 0xFFFFFFF
  | 0x041 => some 0xFFFFFFFFF001
  | 0x046 => some 0xFFFFFFFFF001
  | _ => none

/-- The control registers that a lane holds (R335). -/
def laneHeld (n : Nat) : Bool := n == 0 || (0x010 ≤ n && n ≤ 0x014) || (0x020 ≤ n && n ≤ 0x023)

/-- Registers that only a handler reads, and that only a handler writes (R335). -/
def handlerReads (n : Nat) : Bool := (0x020 ≤ n && n ≤ 0x023) || n == 0x041 || n == 0x046
def handlerWrites (n : Nat) : Bool := (0x020 ≤ n && n ≤ 0x023) || 0x030 ≤ n

/-- The registers that identify a lane, as it reads them (R142). -/
def identity (s : State) (w : Wave) (l : Lane) : Nat → Option W64
  | 0 => some (BitVec.ofNat 64 l.id)
  | 1 => some (BitVec.ofNat 64 ((if w.cart then 256 else 0) + w.unit % 16 * 16 + w.slot % 16))
  | 2 => some (BitVec.ofNat 64 w.cluster)
  | 3 => some (let t := teamOf s w; if t.gang.isSome then BitVec.ofNat 64 (t.gw * t.gh % 16 * 16 + t.rank % 16) else 31)
  | _ => none

/-! ### Memory (R12, R15 to R18, R209 to R219) -/

/-- A byte of package memory, and of a team's local memory. -/
def byteAt (s : State) (a : Nat) : Byte := cellGet s.mem a
def localByte (s : State) (team off : Nat) : Byte := match getTeam s team with | some t => cellGet t.mem off | none => 0

/-- A release annotation of an access, or its fence, has nothing to wait for and nothing to write back (R100). -/
def ReleaseFree (ord : Ord) (scope : Nat) (s : State) : Prop :=
  ordRel ord = true → releaseReady scope s = true ∧ (getDie s ((curWave s).cluster / 64)).rdc = []

/-- n bytes at va lie in the enabled heap window of a context, aligned, at memory that exists (R12, R17, R18); `pa` is their physical address. -/
def InWindowOf (s : State) (ctx : Nat) (va : W64) (n pa : Nat) : Prop :=
  let x := getCtx s ctx
  va.toNat % n = 0 ∧ canonical va = true ∧ canonical (va + BitVec.ofNat 64 (n - 1)) = true ∧ inWindow x va n = .inside ∧
    pa = (va.toNat + x.hwinOff.toNat / 65536 * 65536) % 2 ^ 48 ∧ exists_ s pa = true

/-- The access of the issuing wave of n bytes at va lies in its context's heap window. -/
def InWindow (s : State) (va : W64) (n pa : Nat) : Prop := InWindowOf s (curWave s).ctx va n pa

/-- The home of a die has nothing to do that could change memory: no store waits for the host there, and no die holds changed bytes of its lines. -/
abbrev HomeIdle (s : State) (die : Nat) : Prop := (getDie s die).held = [] ∧ ∀ p ∈ (getDie s die).dir, p.2.rdcd = 0

/-- The byte's line is in package memory, at home on a die, not poisoned, not in the host's hands and on its way to no cache; the home is idle. -/
def HomeQuiet (s : State) (die pa : Nat) : Prop :=
  homeDie pa = die ∧ pa < 2 ^ 45 ∧ poisoned s pa = false ∧ HomeIdle s die ∧ asksHost s (pa / 64) = false ∧
    (rdcGet s die (pa / 64)).mask = 0 ∧ ∀ f ∈ (getDie s die).fills, f.line = pa / 64 → f.invalidated = true

/-- The issuing wave's lanes after an access that stores or waits for nothing: PCs moved past it, v registers as given, flags, masks and w registers as before. -/
def AfterAccess (s t : State) (vs : Lane → List (Nat × W32)) : Prop :=
  (curWave t).w = (curWave s).w ∧ (curWave t).m = (curWave s).m ∧ (curWave t).mb = (curWave s).mb ∧
    (curWave t).lanes.map (fun l => (l.id, l.pc, l.v, l.fpflags, l.h, l.meet, l.link, l.tcause)) = (curWave s).lanes.map (fun l =>
      if issuing s.cur.2 l then (l.id, l.pc + 8, (vs l).foldl (fun v p => setNth p.2 v p.1) l.v, l.fpflags, l.h, l.meet, l.link, l.tcause)
      else (l.id, l.pc, l.v, l.fpflags, l.h, l.meet, l.link, l.tcause))

/-- The same with the w registers as given, and no v register written. -/
def AfterAccessW (s t : State) (w : List W64) : Prop :=
  (curWave t).w = w ∧ (curWave t).m = (curWave s).m ∧ (curWave t).mb = (curWave s).mb ∧
    (curWave t).lanes.map (fun l => (l.id, l.pc, l.v, l.fpflags, l.h, l.meet, l.link, l.tcause)) = (curWave s).lanes.map (fun l =>
      (l.id, if issuing s.cur.2 l then l.pc + 8 else l.pc, l.v, l.fpflags, l.h, l.meet, l.link, l.tcause))

/-- A line of another die, seen from a die (R46, R52, R56): its remote-data cache is in use and has room, the line's home has room and holds no store of it, and no host
may hold the line. -/
def FarLine (s : State) (die pa : Nat) : Prop :=
  pa < 2 ^ 45 ∧ homeDie pa ≠ die ∧ (getDie s die).rdcFenced = false ∧ (getDie s die).rdc.length < 524288 ∧ (getDie s (homeDie pa)).dir.length < 24 ∧
    asksHost s (pa / 64) = false ∧ ∀ x ∈ (getDie s (homeDie pa)).held, x.pa / 64 ≠ pa / 64

/-- A byte as a die sees it: what its remote-data cache holds of it, or else what stands in memory (R56). -/
def dieByte (s : State) (die a : Nat) : Byte :=
  let x := rdcGet s die (a / 64)
  if x.filled || bit x.mask (a % 64) then nth 0 x.bytes (a % 64) else byteAt s a

/-- The line of pa is ready for an atomic of a die at its home (R57, R63): not poisoned, its home idle, no host may hold it, and the die holds no changed byte of it. -/
def HomeReady (s : State) (die pa : Nat) : Prop :=
  poisoned s pa = false ∧ HomeIdle s (homeDie pa) ∧ asksHost s (pa / 64) = false ∧ (rdcGet s die (pa / 64)).mask = 0

/-- What a load of n bytes writes into v registers: a pair for 8 bytes, else the value extended by sign under .sx, or by zeros (R211). -/
def loadVs (d n : Nat) (sx : Bool) (x : Nat) : List (Nat × W32) :=
  if n = 8 then [(d, BitVec.ofNat 32 x), (d + 1, BitVec.ofNat 32 (x / 2 ^ 32))]
  else if sx then (if n = 1 then [(d, (BitVec.ofNat 8 x).signExtend 32)] else if n = 2 then [(d, (BitVec.ofNat 16 x).signExtend 32)] else [(d, BitVec.ofNat 32 x)])
  else [(d, BitVec.ofNat 32 x)]

/-- What a load of n bytes writes into a w register (R211). -/
def loadW (n : Nat) (sx : Bool) (x : Nat) : W64 :=
  if sx then (if n = 1 then (BitVec.ofNat 8 x).signExtend 64 else if n = 2 then (BitVec.ofNat 16 x).signExtend 64
    else if n = 4 then (BitVec.ofNat 32 x).signExtend 64 else BitVec.ofNat 64 x)
  else BitVec.ofNat 64 x

/-- The plain loads: fields and whether LD or GATHER extends by sign. -/
def loads : Instr → Option (MA × Bool)
  | .ld o => some (o, o.opx.getLsbD 0)
  | .gather o => if o.opx.getLsbD 1 then none else some (o, o.opx.getLsbD 0)
  | _ => none

/-- The plain stores to package memory. -/
def storesOf : Instr → Option MA
  | .st o => some o
  | .scatter o => some o
  | _ => none

/-- Byte k of the data that a lane stores: w register, v register or pair (R211). -/
def dataByte (o : MA) (w : Wave) (l : Lane) (k : Nat) : Byte :=
  let x : W64 := if o.h.x then wGet w o.h.d.toNat
    else if o.sz = 3 then vGet l (o.h.d.toNat + 1) ++ vGet l o.h.d.toNat else (vGet l o.h.d.toNat).setWidth 64
  (x >>> (8 * k)).setWidth 8

/-- The new value of an atomic on W bits (R217). -/
def atomNew (W op : Nat) (old d x : BitVec W) : BitVec W :=
  match op with
  | 0 => old + d
  | 1 => if old.slt d then old else d
  | 2 => if old.slt d then d else old
  | 3 => if old.ult d then old else d
  | 4 => if old.ult d then d else old
  | 5 => old &&& d
  | 6 => old ||| d
  | 7 => old ^^^ d
  | 8 => d
  | 9 => if old = d then x else old
  | 10 => BitVec.ofNat W (faddE .fp32 .rne old.toNat d.toNat).1
  | 11 => BitVec.ofNat W (fminmaxE .fp32 false old.toNat d.toNat).1
  | _ => BitVec.ofNat W (fminmaxE .fp32 true old.toNat d.toNat).1

/-- The bytes of package memory are those of another state but for n bytes from pa, which hold x, lowest byte first. -/
def StoredAt (s t : State) (pa n x : Nat) : Prop :=
  ∀ a, byteAt t a = if pa ≤ a ∧ a < pa + n then BitVec.ofNat 8 (x / 256 ^ (a - pa)) else byteAt s a

/-- Operand j of a lane's ATOM, the operand or the new value of a compare-and-swap (R217). -/
def atomArg (o : MA) (w : Wave) (l : Lane) (j : Nat) : Nat :=
  let d := o.h.d.toNat
  if o.h.x then (wGet w (d + j)).toNat
  else if accSize o = 8 then (vGet l (d + 2 * j + 1)).toNat * 2 ^ 32 + (vGet l (d + 2 * j)).toNat else (vGet l (d + j)).toNat

/-- ATOM accesses of lanes made one after another on the bytes `f` (R217): the bytes after them, and each lane's old value. -/
def atomsIn (o : MA) (w : Wave) (pa : Lane → Nat) : List Lane → (Nat → Byte) → (Nat → Byte) × List (Nat × Nat)
  | [], f => (f, [])
  | l :: r, f =>
    let n := accSize o
    let W := 8 * n
    let old := leNat ((span (pa l) n).map f)
    let new := (atomNew W o.opx.toNat (BitVec.ofNat W old) (BitVec.ofNat W (atomArg o w l 0)) (BitVec.ofNat W (atomArg o w l 1))).toNat
    let q := atomsIn o w pa r (fun a => if pa l ≤ a ∧ a < pa l + n then BitVec.ofNat 8 (new / 256 ^ (a - pa l)) else f a)
    (q.1, (l.id, old) :: q.2)

/-- The lanes whose accesses an instruction makes: the selected ones, or the lowest of them for an access made once for the wave (R90, R209). -/
def accessesOf (k : MKind) (o : MA) (s : State) : List Lane :=
  if isOnce k o false then (selected s o.h.g o.h.n).take 1 else selected s o.h.g o.h.n

/-- The word at an address with a context's contributions that its home holds added, by key, then by position (R221). -/
def heldSum (s : State) (ctx a : Nat) : W32 :=
  let cs := (getDie s (homeDie a)).buf.filter (fun c => c.ctx == ctx && c.pa / 64 == a / 64)
  BitVec.ofNat 32 (((sortBy contribKey cs).filter (fun c => c.pa == a)).foldl (fun x c => (faddE .fp32 .rne x c.value.toNat).1) (leNat ((span a 4).map (byteAt s))))

/-- The PROT rules of local memory (R15, R16) for n bytes at a 32-bit address: the address names no memory of the team or gang. -/
def LocalProt (s : State) (t : Team) (a n : Nat) : Prop :=
  let rank := a / 2 ^ 21 % 16
  a / 2 ^ 25 ≠ 0 ∨ t.lm < a % 2 ^ 21 + n ∨ (rank ≠ 15 ∧ (t.gang = none ∨ 12 ≤ rank ∨ t.gw * t.gh ≤ rank ∨
    (rank ≠ t.rank ∧ ∀ x ∈ s.teams, x.gang = t.gang → x.rank ≠ rank)))

/-! ### Barriers and waits (R223 to R226) -/

/-- The issuing wave after n words of the issuing subgroup that write no v register: w, m and mailbox registers as before, PCs moved. -/
def MovedOn (n : Nat) (s t : State) : Prop :=
  (curWave t).w = (curWave s).w ∧ (curWave t).m = (curWave s).m ∧ (curWave t).mb = (curWave s).mb ∧
    (curWave t).lanes.map (fun l => (l.id, l.pc, l.v, l.fpflags, l.h, l.meet, l.link, l.tcause)) = (curWave s).lanes.map (fun l =>
      (l.id, if issuing s.cur.2 l then l.pc + BitVec.ofNat 64 (4 * n) else l.pc, l.v, l.fpflags, l.h, l.meet, l.link, l.tcause))

/-- Local memory is that of another state but for n bytes of a team from an offset, which hold x, lowest byte first. -/
def StoredLocal (s t : State) (team off n x : Nat) : Prop :=
  ∀ k a, localByte t k a = if k = team ∧ off ≤ a ∧ a < off + n then BitVec.ofNat 8 (x / 256 ^ (a - off)) else localByte s k a

/-- ARR and EXP of a completion-barrier word (R224). -/
def arrCount (x : W64) : Nat := (x.extractLsb' 0 30).toNat
def expCount (x : W64) : Nat := (x.extractLsb' 32 30).toNat

/-- The check of the counts (R224): PH turns, ARR and EXP become 0, ERR and [31:30] stay. -/
def phaseCheck (x : W64) : W64 := if arrCount x = expCount x ∧ expCount x ≠ 0 then (x ^^^ 0x8000000000000000) &&& 0xC0000000C0000000 else x

/-- A word of local memory: 8 bytes from an offset, lowest first. -/
def localWord (s : State) (team off : Nat) (x : W64) : Prop :=
  getTeam s team ≠ none ∧ ∀ k < 8, localByte s team (off + k) = (x >>> (8 * k)).setWidth 8

/-- w[A] names a completion barrier of the issuing wave's team or gang: its team and offset, and its word. -/
def BarrierAt (a : W64) (s : State) (team off : Nat) (x : W64) : Prop :=
  a.toNat % 8 = 0 ∧ localTarget s (teamOf s (curWave s)) (a.toNat % 2 ^ 32) 8 = some (team, off) ∧ localWord s team off x

/-- A release at a scope has nothing to wait for and nothing to write back (R100). -/
def Released (scope : Nat) (s : State) : Prop := releaseReady scope s = true ∧ (getDie s ((curWave s).cluster / 64)).rdc = []

/-- The members of a team that still take part in its barrier: those admitted with it that are not Done (R137, R226). -/
def taking (s : State) (team : Nat) : List Nat := (s.waves.filter (fun w => w.team == team && w.lanes.any alive)).filterMap (·.member)

/-- The lanes of a wave that wait at the barrier of a team (gang false) or of its gang. -/
def atBarrier (gang : Bool) (l : Lane) : Bool := l.st == .waiting (.bar gang) || l.st == .waiting .barAgain

/-- No earlier access of the issuing subgroup is still to be performed: in the log, at a peer, or at a home (R97, R112, R227). -/
abbrev Performed (s : State) : Prop := lanesPending s (curWave s) (active s) = false

/-! ### Subscriptions (R72 to R81) -/

/-- The status word of R73: a status, and the mode and format of the shadow the cluster now holds. -/
def statusOf (status : Nat) (h : Option Shadow) : W64 :=
  BitVec.ofNat 64 status <<< 4 ||| (match h with | some x => (if x.inv then 8 else 0) ||| x.fmt.setWidth 64 | none => 0)

/-- A selected subscription instruction on an address of quiet package memory at home on the issuing die. -/
def SubIssue (h : RG) (s : State) (pa : Nat) : Prop :=
  Issues s ∧ Performed s ∧ selected s h.g h.n ≠ [] ∧ InWindow s (wGet (curWave s) h.a.toNat) 1 pa ∧ HomeQuiet s ((curWave s).cluster / 64) pa

/-- The instruction is answered at its cluster: the status in w[D], the subgroup past it, the cluster's shadow of the region in the context as given and
every other shadow and all of memory as before. -/
def SubAnswered (i : Instr) (h : RG) (s : State) (region status : Nat) (x : Option Shadow) : Prop :=
  ∃ t, exec i s = .next t ∧ t.waves = (issueUpd (fun w => { w with w := setNth (statusOf status x) w.w h.d.toNat }) (moved 2) s).waves ∧ t.mem = s.mem ∧
    ∀ c k r, shadowAt t c k r = if c = (curWave s).cluster ∧ k = (curWave s).ctx ∧ r = region then x else shadowAt s c k r

/-- The instruction asks the home: the request is on its way, the subgroup waits for the status, no shadow has changed. -/
def SubAsked (i : Instr) (h : RG) (s : State) (q : SubReq) : Prop :=
  ∃ t, exec i s = .next t ∧ ((curWave s).id, Instr.homeSubscriptionRequest q) ∈ t.agenda ∧ (curWave t).w = (curWave s).w ∧
    ∀ l ∈ active s, { l with st := LaneSt.waiting (.status h.d.toNat) } ∈ (curWave t).lanes

/-- A wave's lanes that wait for the status of a request take it (R227): the w register, and the next instruction. -/
def statusGiven (k : Nat) (x : W64) (w : Wave) : Wave :=
  if w.id = k then (match w.lanes.findSome? (fun l => match l.st with | .waiting (.status d) => some d | _ => none) with
    | some d => { w with w := setNth x w.w d, lanes := w.lanes.map (fun l => match l.st with
      | .waiting (.status _) => { l with st := .ready, pc := l.pc + 8 }
      | _ => l) }
    | none => w) else w

/-! ### Engines (R84 to R87, R229 to R234) -/

/-- A byte's place: package memory, or a team's local memory. -/
inductive Place where
  | pkg (a : Nat)
  | lm (team off : Nat)
deriving DecidableEq, Repr

def placeByte (s : State) : Place → Byte
  | .pkg a => byteAt s a
  | .lm t o => localByte s t o

/-- A byte of a virtual address of an engine command: in the heap window of its context, quiet, at home on its die. -/
def EngByte (s : State) (c : EngCmd) (va : W64) (pa : Nat) : Prop := InWindowOf s c.ctx va 1 pa ∧ HomeQuiet s (c.cluster / 64) pa

/-- Byte k of an end of an engine's transfer lies at place f k: in local memory of the command's team or gang, or in the heap window of its context, at
quiet lines at home on its die (R16, R29). -/
def EndAt (s : State) (c : EngCmd) (loc : Bool) (x : W64) (n : Nat) (f : Nat → Place) : Prop :=
  if loc then ∃ t team off, getTeam s c.team = some t ∧ t.lm ≤ 2 ^ 21 ∧ localTarget s t (x.toNat % 2 ^ 32) n = some (team, off) ∧ getTeam s team ≠ none ∧
    ∀ k < n, f k = .lm team (off + k)
  else ∀ k < n, ∃ pa, f k = .pkg pa ∧ EngByte s c (x + BitVec.ofNat 64 k) pa

/-- The barrier of a command: a word of a team that has not retired, with room for n more arrivals (R224). -/
def ArrivesAt (s : State) (c : EngCmd) (cb : W64) (n team off : Nat) (x : W64) : Prop :=
  ∃ t, getTeam s c.team = some t ∧ t.retired = false ∧ localTarget s t (cb.toNat % 2 ^ 32) 8 = some (team, off) ∧ localWord s team off x ∧
    arrCount x + n < 2 ^ 30 ∧ (getDie s (c.cluster / 64)).rdc = []

/-- The places of a barrier word. -/
def wordPlace (team off : Nat) (p : Place) : Prop := ∃ j < 8, p = .lm team (off + j)

/-- A fabric physical address of this package: n bytes in existing memory, quiet for the command's die (R14). -/
def OwnFabric (s : State) (c : EngCmd) (a n pa : Nat) : Prop :=
  a / 2 ^ 48 % 2 ^ 14 = s.boot.devIdx.toNat ∧ pa = a % 2 ^ 48 ∧ ∀ k < n, exists_ s (pa + k) = true ∧ HomeQuiet s (homeDie (pa + k)) (pa + k) ∧
    (rdcGet s (c.cluster / 64) ((pa + k) / 64)).mask = 0 ∧ pa + k < 2 ^ 45

/-- One step of a reduction of COLL on two elements as held (R233): integers wrap and compare as signed, floats are FP32 under RNE and R119. -/
def collStep (op ty : Nat) (x y : W32) : W32 := atomNew 32 (if ty = 2 then op else 10 + op) x y 0

/-- An element of COLL as it is held, and as it is written: BF16 widened exactly, and rounded at the end (R233). -/
def collHeld (ty x : Nat) : W32 := BitVec.ofNat 32 (if ty = 1 then (cvtE .bf16 .fp32 .rne x).1 else x)
def collWritten (ty : Nat) (x : W32) : Nat := if ty = 1 then (cvtE .fp32 .bf16 .rne x.toNat).1 else x.toNat

/-- Bytes of an element of a publish's format code (R68, R85). -/
def pubBytes (f : Nat) : Nat := if f = 0 then 4 else if f < 3 then 2 else 1

/-- The last-published images of a publish lie one after another, by format code (R84): where that of format f begins, for n source words. -/
def pubOffset (subs : List (Nat × Nat × Nat)) (n f : Nat) : Nat := (((span 0 f).filter (fun g => subs.any (fun u => u.2.2 == g))).map (fun g => pubBytes g * n)).sum

/-- An engine command with a named barrier may be accepted: lanes selected, their earlier accesses performed, the barrier there, its release free (R109, R229,
R230). -/
def EngReady (h : RG) (cb : W64) (rel : Bool) (scope : Nat) (s : State) : Prop :=
  Issues s ∧ Performed s ∧ selected s h.g h.n ≠ [] ∧ (∃ team off x, BarrierAt cb s team off x) ∧ (rel = true → Released scope s)

/-- A command is accepted: it stands last in its engine's queue with its captured operands, its event comes, the subgroup has moved on, and nothing else has
changed but in the cluster. -/
def Accepted (i : Instr) (h : RG) (s : State) (queue : Cluster → List EngCmd) (done : Instr) (ops : List W64) : Prop :=
  ∃ t, exec i s = .next t ∧ t.waves = (issueUpd id (moved 2) s).waves ∧ t.mem = s.mem ∧ t.teams = s.teams ∧ ((curWave s).cluster, done) ∈ t.agenda ∧
    queue (getCluster t (curWave s).cluster) = queue (getCluster s (curWave s).cluster) ++ [newCmd i (selected s h.g h.n) ops s] ∧
    ∀ c, c ≠ (curWave s).cluster → getCluster t c = getCluster s c

/-- Memory at an address of the issuing context: n bytes of x, lowest first, quiet at home on the issuing die (R18). -/
def Holds (s : State) (va : W64) (n pa x : Nat) : Prop :=
  InWindow s va 1 pa ∧ ∀ k < n, byteAt s (pa + k) = BitVec.ofNat 8 (x / 256 ^ k) ∧ HomeQuiet s ((curWave s).cluster / 64) (pa + k)

/-! ### The tensor array (R235 to R263) -/

/-- The issuing wave holds its cluster's array, which can take one more command at once (R240, R241, R243). -/
def Holding (g : BitVec 4) (n : Bool) (s : State) : Prop :=
  let x := getTensor s (curWave s).cluster
  Issues s ∧ selected s g n ≠ [] ∧ (curWave s).lease = .holding ∧ 0 < x.left ∧ x.ending = false ∧ seqBusy x = false ∧ x.arr.tcon = none ∧ x.arr.kept = none

/-- The array state of the issuing wave's cluster. -/
def arrayOf (s : State) : ArrayState := (getTensor s (curWave s).cluster).arr

/-- A command that the sequencer begins at once and completes (R241, R243): the lease counts it, its completion comes; memory and every other cluster's
array stay as they are. -/
def Counted (s t : State) : Prop :=
  let c := (curWave s).cluster
  (getTensor t c).left = (getTensor s c).left - 1 ∧ (getTensor t c).running = (getTensor s c).running + 1 ∧ (getTensor t c).holder = (getTensor s c).holder ∧
    (c, Instr.tensorCommandDone) ∈ t.agenda ∧ t.mem = s.mem ∧ ∀ k, k ≠ c → getTensor t k = getTensor s k

/-- n bytes of local memory at a w address of the issuing wave, in the allocation. -/
def LocalAt (s : State) (a : W64) (n team off : Nat) : Prop :=
  ∃ t, getTeam s (curWave s).team = some t ∧ t.lm ≤ 2 ^ 21 ∧ localTarget s t (a.toNat % 2 ^ 32) n = some (team, off)

/-- The little-endian number of n bytes of local memory. -/
def localNum (s : State) (team off n : Nat) : Nat := leNat ((span off n).map (localByte s team))

/-- Element k of row i of operand A, as a value (R238, R250). -/
def rowValue (s : State) (team off stride ty i k : Nat) : FVal :=
  let b := if ty < 2 then 1 else 2
  unpackF (opFmt ty) (localNum s team (off + i * stride + b * k) b)

/-- Element k of column j of a latch, as a value: floats by their format, weights as integers (R238, R249). -/
def colValue (l : Latch) (j k : Nat) : FVal :=
  let b := if l.ty = 5 then 4 else if l.ty = 2 ∨ l.ty = 3 then 16 else 8
  let e := ((nth [] l.cols j).getD (k * b / 32) 0).toNat / 2 ^ (k * b % 32) % 2 ^ b
  if l.ty = 4 ∨ l.ty = 5 then ofInt (e : Int) else unpackF (opFmt l.ty) e

/-- A multiply step with its shape word: the accumulator's elements of its rows and columns take the result, every other element stays (R251). -/
def MultiplyDone (i : Instr) (h : RG) (ty half : Nat) (kind : MulKind) (s : State) (team off : Nat) : Prop :=
  let sh := wGet (curWave s) h.b.toNat
  let l := latchOf (arrayOf s) half
  ∃ t, exec i s = .next t ∧ t.waves = (issueUpd id (moved 2) s).waves ∧ t.teams = s.teams ∧ Counted s t ∧
    ∀ d r c, r < 128 → c < 128 → accGet (arrayOf t) d r c =
      if d = h.d.toNat ∧ shROW sh ≤ r ∧ r < shROW sh + shM sh ∧ shCOL sh ≤ c ∧ c < shCOL sh + l.nw
      then BitVec.ofNat 32 (mulElem kind (shKCH sh) (c - shCOL sh) (rowValue s team off (shSTRIDE sh) ty (r - shROW sh)) (colValue l (c - shCOL sh))
        (if h.x then 0 else (accGet (arrayOf s) d r c).toNat))
      else accGet (arrayOf s) d r c

/-- The checks that the multiply steps share hold: extents, latch, alignment, pairing, and the rows of A in local memory (R247, R250). -/
def MulFits (h : RG) (ty half pos : Nat) (affine : Bool) (s : State) (team off : Nat) : Prop :=
  let sh := wGet (curWave s) h.b.toNat
  let l := latchOf (arrayOf s) half
  let b := if ty < 2 then 1 else 2
  Holding h.g h.n s ∧ Performed s ∧ ty < 4 ∧ 1 ≤ shM sh ∧ shM sh ≤ 128 ∧ 1 ≤ l.nw ∧ shROW sh + shM sh ≤ 128 ∧ shCOL sh + l.nw ≤ 128 ∧ shSTRIDE sh % b = 0 ∧
    pairOk affine ty l.ty = true ∧ (wGet (curWave s) h.a.toNat).toNat % b = 0 ∧
    LocalAt s (wGet (curWave s) h.a.toNat) ((shM sh - 1) * shSTRIDE sh + pos * shKCH sh * b) team off

/-- What a multiply step of a contraction multiplies by (R252, R253, R259), for columns j0 on of shard `sh`: valid scale entries of the step's tag, 2:4 metadata with no bad
nibble, a bitmap word, or nothing more. -/
def StepKind (s : State) (tm : Team) (f : TconF) (x : ArrayState) (e kb j0 sh nw nch : Nat) (kind : MulKind) : Prop :=
  let g := 32 * 2 ^ f.gsz
  let m := f.mlm + e * f.mgs + kb * f.mks
  if f.bfmt = 4 ∨ f.bfmt = 5 then
    let es := (span 0 nw).flatMap (fun j => (span 0 (32 * nch / g)).map (fun k => f.sb + e * f.n * f.k / g + j0 * (f.k / g) + kb * 128 / g + j * (f.k / g) + k))
    (∀ i ∈ es, ∃ y : W32, x.scale.find? (fun q => q.1 == i) = some (i, y) ∧ y.extractLsb' 24 8 = BitVec.ofNat 8 (f.seq0 + e)) ∧ kind = .affine g (es.map (aget 0 x.scale))
  else if f.bsp = 1 then ∃ team mo, localTarget s tm (m + 32 * j0) (32 * (nw - 1) + 8 * nch) = some (team, mo) ∧
    (∀ j < nw, ∀ k < 16 * nch, let nib := localNum s team (mo + 32 * j + k / 2) 1 / 2 ^ (4 * (k % 2)) % 16
      nib % 4 ≠ nib / 4) ∧
    kind = .sparse ((span 0 nw).map (fun j => localNum s team (mo + 32 * j) (8 * nch)))
  else if f.bsp = 2 then ∃ team mo, localTarget s tm (m + 8 * sh) 8 = some (team, mo) ∧ kind = .bitmap (localNum s team mo 8)
  else kind = .dense

/-- The array of the cluster at the site runs a contraction, which stands at a step (R259). -/
def AtStep (s : State) (r : TconRun) (tm : Team) (st : TStep) : Prop :=
  let f := tconF (leNat r.block)
  let g := tconGang f tm
  (getTensor s s.site).arr.tcon = some r ∧ r.suspended = false ∧ (getTensor s s.site).ringCmd = none ∧ r.cmd.cluster = s.site ∧ getTeam s r.cmd.team = some tm ∧
    tm.lm ≤ 2 ^ 21 ∧ (tconSteps f r.counts g.1 g.2)[r.next]? = some st

/-! ### Rendering, textures, rays and builds (R265 to R305) -/

/-- The physical address of a virtual one in a context's heap window (R18). -/
def windowPaOf (s : State) (ctx : Nat) (va : W64) : Nat := (va.toNat + (getCtx s ctx).hwinOff.toNat / 65536 * 65536) % 2 ^ 48

/-- n bytes at va lie in the issuing context's heap window, aligned, at quiet lines at home on the issuing die. -/
def QuietAt (s : State) (va : W64) (n : Nat) : Prop := ∃ pa, InWindow s va n pa ∧ ∀ k < n, HomeQuiet s ((curWave s).cluster / 64) (pa + k)

/-- The n bytes there, and their little-endian number. -/
def windowBytes (s : State) (va : W64) (n : Nat) : List Byte := (span (windowPaOf s (curWave s).ctx va) n).map (byteAt s)
def windowNum (s : State) (va : W64) (n : Nat) : Nat := leNat (windowBytes s va n)

/-- The issuing wave after n words of the issuing subgroup that write w registers and v registers as given; masks and mailboxes as before. -/
def WroteBoth (n : Nat) (ws : List W64) (vs : Lane → List (Nat × W32)) (s t : State) : Prop :=
  (curWave t).w = ws ∧ (curWave t).m = (curWave s).m ∧ (curWave t).mb = (curWave s).mb ∧
    (curWave t).lanes.map (fun l => (l.id, l.pc, l.v, l.fpflags, l.h, l.meet, l.link, l.tcause)) = (curWave s).lanes.map (fun l =>
      if issuing s.cur.2 l then (l.id, l.pc + BitVec.ofNat 64 (4 * n), (vs l).foldl (fun v p => setNth p.2 v p.1) l.v, l.fpflags, l.h, l.meet, l.link, l.tcause)
      else (l.id, l.pc, l.v, l.fpflags, l.h, l.meet, l.link, l.tcause))

/-- The tiles that an issue visits from a token: up to 64 begun, one more where the first is resumed (R270). -/
def tileLimit (j : RastJob) (t0 p0 : Nat) : Nat := Nat.min j.tileCount (t0 + 64 + (if p0 = 0 then 0 else 1))

/-- The covered positions of a tile, from the token's in the first tile, none where the tile is skipped (R270, R273). -/
def tileHits (j : RastJob) (skip : Nat → Bool) (t0 p0 t : Nat) : List (Nat × Nat) :=
  let p := if t = t0 then p0 else 0
  if p = 0 && skip t then [] else ((span p (64 * j.spp - p)).filter (j.hit (j.tile t))).map (fun m => (t, m))

/-- The covered positions from the token on, in the walk's order, within one issue. -/
def walkHits (j : RastJob) (skip : Nat → Bool) (t0 p0 : Nat) : List (Nat × Nat) :=
  (span t0 (tileLimit j t0 p0 - t0)).flatMap (tileHits j skip t0 p0)

/-- What an issue of k slots answers: the positions it returns, and the token (R270, R275). -/
def rastAnswer (j : RastJob) (skip : Nat → Bool) (k : Nat) (tok : W64) : List (Nat × Nat) × W64 :=
  let t0 := tok.toNat % 2 ^ 32
  let p0 := (tok.extractLsb' 32 9).toNat
  if tok.msb then ([], tok)
  else match j.rejected with
    | some t => ([], t)
    | none =>
      let hs := walkHits j skip t0 p0
      (hs.take k, match hs[k - 1]? with
        | some (t, m) => if m + 1 < 64 * j.spp then tokenAt j t (m + 1) else tokenAt j (t + 1) 0
        | none => tokenAt j (Nat.max t0 (tileLimit j t0 p0)) 0)

/-- The issue passes the last position of a tile of the walk that is fully covered (R274). -/
def tilePassed (j : RastJob) (skip : Nat → Bool) (k : Nat) (tok : W64) (t : Nat) : Prop :=
  let t0 := tok.toNat % 2 ^ 32
  let p0 := (tok.extractLsb' 32 9).toNat
  tok.msb = false ∧ j.rejected = none ∧ t0 ≤ t ∧ t < tileLimit j t0 p0 ∧ j.full (j.tile t) = true ∧ ((t = t0 ∧ p0 ≠ 0) ∨ skip t = false) ∧
    ((span t0 (t + 1 - t0)).flatMap (tileHits j skip t0 p0)).length ≤ k

/-- The address of a tile's word in the depth buffer of a RAST (R273). -/
def depthWord (j : RastJob) (t : Nat) : W64 := tileWord j.base j.tpitch (j.tile t).1 (j.tile t).2

/-- The four channels of a texel (R279, R283). -/
def texelOf (s : State) (d : TexDesc) (table : List Byte) (t : Tap) : List Nat :=
  let bs := windowBytes s (d.texelAddr t.l t.i t.j) 8
  if d.kind = 0 then decodeTexel table bs (t.i % 4) (t.j % 4) else (span 0 4).map (fun k => leNat ((bs.drop (2 * k)).take 2))

/-- The taps that a sample reads: every tap of a gather, else those with a weight. -/
def tapsOf (d : TexDesc) (gather : Bool) (u v lod : W32) : List Tap := (sampleTaps d gather u v (fix32 lod)).filter (fun t => gather || t.weight != 0)

/-- The four results of a TEX or TEXG in a lane (R287 to R289). -/
def texResult (s : State) (d : TexDesc) (table : List Byte) (gather : Bool) (ch : Nat) (u v lod : W32) : List W32 :=
  if finite32 u && finite32 v && finite32 lod then
    let ts := tapsOf d gather u v lod
    (span 0 4).map (fun k => if gather then widenHalf (nth 0 (texelOf s d table (nth default ts k)) ch)
      else filterChannel (ts.map (fun t => (t.weight, nth 0 (texelOf s d table t) k))))
  else (span 0 4).map (fun _ => 0x7FC00000)

/-- A TEX or TEXG that finds its descriptor, its slot and its texels: the results in four v registers of each selected lane. -/
def TexDone (i : Instr) (h : RG) (p : TexP) (gather : Bool) (s : State) (d : TexDesc) : Prop :=
  let w := curWave s
  let table := (nth {} (getCluster s w.cluster).tex d.slot).table
  let a := h.a.toNat
  let lod (l : Lane) : W32 := if p.lod then vGet l (a + 2) else 0
  (d.kind = 0 → slotBound s w d.slot = true) →
  (∀ l ∈ selected s h.g h.n, finite32 (vGet l a) = true → finite32 (vGet l (a + 1)) = true → finite32 (lod l) = true →
    ∀ t ∈ tapsOf d gather (vGet l a) (vGet l (a + 1)) (lod l), QuietAt s (d.texelAddr t.l t.i t.j) 8) →
  ∃ t, exec i s = .next t ∧ t.mem = s.mem ∧ t.teams = s.teams ∧ WroteBoth 2 w.w (fun l =>
    if selects w h.g h.n l then
      (span 0 4).map (fun k => (h.d.toNat + k, nth 0 (texResult s d table gather p.ch.toNat (vGet l a) (vGet l (a + 1)) (lod l)) k))
    else []) s t

/-- An IBOX or ITRI whose node or block is in place: the results in consecutive v registers of each selected lane. -/
def RayDone (i : Instr) (h : RG) (words : Nat) (result : List Byte → RayIn → List W32) (s : State) : Prop :=
  let w := curWave s
  (∀ l ∈ selected s h.g h.n, ∀ k < words, QuietAt s (rayAddr h w l + BitVec.ofNat 64 (8 * k)) 8) →
  ∃ t, exec i s = .next t ∧ t.mem = s.mem ∧ t.teams = s.teams ∧ WroteBoth 2 w.w (fun l =>
    if selects w h.g h.n l then
      let bs := (span 0 words).flatMap (fun k => windowBytes s (rayAddr h w l + BitVec.ofNat 64 (8 * k)) 8)
      let xs := result bs (rayOf ((span h.a.toNat 8).map (vGet l)))
      (span 0 xs.length).map (fun k => (h.d.toNat + k, nth 0 xs k))
    else []) s t

/-- The bytes of an area of an engine command, in the window of its context, quiet, at home on its die. -/
def AreaAt (s : State) (c : EngCmd) (va : W64) (n : Nat) : Prop := ∀ k < n, EngByte s c (va + BitVec.ofNat 64 k) (windowPaOf s c.ctx (va + BitVec.ofNat 64 k))

/-- Byte k of an area, and a place in one. -/
def areaByte (s : State) (c : EngCmd) (va : W64) (k : Nat) : Byte := byteAt s (windowPaOf s c.ctx (va + BitVec.ofNat 64 k))
def inArea (s : State) (c : EngCmd) (va : W64) (n a : Nat) : Prop := ∃ k < n, a = windowPaOf s c.ctx (va + BitVec.ofNat 64 k)

/-! ### Work distribution (R148 to R153, R306 to R329) -/

/-- n bytes at va in the heap window of a context, aligned, at quiet lines at home on a die; and their little-endian number. -/
def QuietOf (s : State) (ctx die : Nat) (va : W64) (n : Nat) : Prop := ∃ pa, InWindowOf s ctx va n pa ∧ ∀ k < n, HomeQuiet s die (pa + k)
def windowNumOf (s : State) (ctx : Nat) (va : W64) (n : Nat) : Nat := leNat ((span (windowPaOf s ctx va) n).map (byteAt s))

/-- A legal launch record at an address, with its register image where it names one (R306, R307). -/
def RecordAt (s : State) (va : W64) (lr : LaunchRec) : Prop :=
  QuietAt s va 64 ∧ ∃ r img, launchOf va (windowNum s va 64) = some (r, img) ∧
    if img = 0 then lr = r
    else (∀ k < 64, QuietAt s (img + BitVec.ofNat 64 (8 * k)) 8) ∧
      lr = { r with w := (span 0 64).map (fun k => BitVec.ofNat 64 (windowNum s (img + BitVec.ofNat 64 (8 * k)) 8)) }

/-- The open waves of a cluster that meet a condition have become due and joined its release queue in the order `rel` (R150, R312). -/
def FlushDone (p : OpenWave → Bool) (rel : List OpenWave) (c : Nat) (s t : State) : Prop :=
  let x := getCluster s c
  let y := getCluster t c
  let plain (o : OpenWave) : OpenWave := { o with due := none }
  y.opens = x.opens.filter (fun o => !p o) ∧ y.releaseQ.map plain = (x.releaseQ ++ rel).map plain ∧
    (x.releaseQ ++ rel ≠ [] → (c, Instr.waveAdmit) ∈ t.agenda) ∧ ∀ k, k ≠ c → getCluster t k = getCluster s k

/-- No open wave of a cluster is due yet, there are at most 8, and the release queue has room for those that meet a condition. -/
def Flushable (p : OpenWave → Bool) (c : Nat) (s : State) : Prop :=
  (∀ o ∈ (getCluster s c).opens, o.due = none) ∧ (getCluster s c).opens.length ≤ 8 ∧
    (getCluster s c).releaseQ.length + ((getCluster s c).opens.filter p).length ≤ 16

/-- The coupler of a cluster can open a wave for a key that no open wave has. -/
def CanOpen (s : State) (c team ctx : Nat) (key : CplKey) : Prop :=
  (∀ o ∈ (getCluster s c).opens, ¬ (o.team = team ∧ o.ctx = ctx ∧ o.key = key)) ∧ (getCluster s c).opens.length < 8 ∧ (getCluster s c).releaseQ.length < 16

/-- The wave that it opens for a first lane (R149, R150). -/
def opened (s : State) (c team ctx : Nat) (key : CplKey) (lr : LaunchRec) (x : Start) : OpenWave :=
  { team, ctx, key, lr, lanes := [x], timeout := (getCluster s c).cplTimeout.toNat, since := s.clock }

/-- Lanes are offered: they wait to be accepted, the offers stand in their cluster, and its coupler, or its carts, will take them (R311). -/
def HandedOver (i : Instr) (h : RG) (s : State) (rest : Lane → Lane) (os : List Offer) : Prop :=
  let c := (curWave s).cluster
  ∃ t, exec i s = .next t ∧ t.mem = s.mem ∧ t.teams = s.teams ∧
    t.waves = (issueUpd id (fun l => if selects (curWave s) h.g h.n l then { l with st := .waiting .accept } else rest l) s).waves ∧
    (getCluster t c).offers = (getCluster s c).offers ++ os ∧ (getCluster t c).opens = (getCluster s c).opens ∧
    (if os.any (fun o => o.key.isSome) then (c, Instr.couplerAccept) ∈ t.agenda else (c, Instr.cartDispatch) ∈ t.agenda)

/-- What a device needs to work for a context on a die: the context live, nothing in any die's remote-data cache, no older work of blocks. -/
def DeviceFree (s : State) (ctx die : Nat) : Prop :=
  (getCtx s ctx).stat = .live ∧ (getDie s die).rdc = [] ∧ (∀ d < 4, (getDie s d).rdc = []) ∧ s.tcbWork = [] ∧ s.replays = []

/-- A task control block with no action retires (R327): its word holds x with STATE 2, each successor's decrement comes, no other byte changes. -/
def Retired (s t : State) (ctx die : Nat) (tcb : W64) (x : Nat) : Prop :=
  StoredAt s t (windowPaOf s ctx (tcb + 32)) 8 (tcbWith 0 2 (tcbErr x) x) ∧
    ∀ j < tcbNsucc x, (64 * die, Instr.tcbDecrement ctx die (BitVec.ofNat 64 (windowNumOf s ctx (BitVec.ofNat 64 (windowNumOf s ctx (tcb + 56) 8) + BitVec.ofNat 64 (8 * j)) 8)) (.tcb tcb))
      ∈ t.agenda

/-- Its successor table is in place, apart from its own word. -/
def SuccsAt (s : State) (ctx die : Nat) (tcb : W64) (n : Nat) : Prop :=
  ∀ j < n, let va := BitVec.ofNat 64 (windowNumOf s ctx (tcb + 56) 8) + BitVec.ofNat 64 (8 * j)
    QuietOf s ctx die va 8 ∧ windowPaOf s ctx va ≠ windowPaOf s ctx (tcb + 32)

/-- Two ranges of addresses do not meet. -/
def apart (a n b m : Nat) : Prop := a + n ≤ b ∨ b + m ≤ a

/-! ### Homes, the host, errors, and what comes back (R45 to R65, R338 to R378) -/

/-- Bytes pa to pa + n - 1 lie in one line of memory that exists, quiet at its home, whose L2 set cannot be full. -/
def AtHome (s : State) (pa n : Nat) : Prop :=
  0 < n ∧ pa % 64 + n ≤ 64 ∧ HomeQuiet s (homeDie pa) pa ∧ exists_ s pa = true ∧ (getDie s (homeDie pa)).dir.length < 24

/-- n bytes of memory hold a list of bytes, and every other byte is as before. -/
def PutBytes (s t : State) (pa : Nat) (bs : List Byte) : Prop :=
  ∀ a, byteAt t a = if pa ≤ a ∧ a < pa + bs.length then nth 0 bs (a - pa) else byteAt s a

/-- A writeback to the home of a line needs no room there, waits for no host, and finds no store held there. -/
abbrev HomeOpen (s : State) (line : Nat) : Prop :=
  (getDie s (homeDie (line * 64))).dir.length < 24 ∧ asksHost s line = false ∧ ∀ x ∈ (getDie s (homeDie (line * 64))).held, x.pa / 64 ≠ line

/-- No byte of memory is changed. -/
def SameBytes (s t : State) : Prop := ∀ a, byteAt t a = byteAt s a

/-- An error of a kind is logged on a die (R360, R372): the record, and for kinds other than 0 a machine check and vector 1. -/
def Logged (s t : State) (d kind unit addr : Nat) : Prop :=
  (getDie t d).regs.errlog = BitVec.ofNat 64 (2 ^ 63 + kind * 2 ^ 60 + unit * 2 ^ 56 + addr % 2 ^ 52) ∧
    (getDie t d).regs.mchk = ((getDie s d).regs.mchk || kind != 0) ∧ (kind ≠ 0 → (8 * d + 1) ∈ t.msix)

/-- A die traces nothing (R376). -/
def Untraced (s : State) (d : Nat) : Prop := bit (getDie s d).regs.chrbase 0 = false

/-- The dirty bytes of a die's line reach the home, and the line is clean (R46, R56, R58). -/
def WrittenBack (s t : State) (d line : Nat) : Prop :=
  (∀ a, byteAt t a = if a / 64 = line ∧ bit (rdcGet s d line).mask (a % 64) = true then nth 0 (rdcGet s d line).bytes (a % 64) else byteAt s a) ∧
    (rdcGet t d line).mask = 0 ∧ (rdcGet t d line).filled = (rdcGet s d line).filled

/-- The package just booted (R360, R374, R378): its state cleared, the cause kept; STAGE is the stage that failed, or 7; what completed stages establish stands. -/
def Booted (cfg : BootCfg) (cause : Nat) (s t : State) : Prop :=
  t.waves = [] ∧ t.teams = [] ∧ t.grids = [] ∧ t.mem = [] ∧ t.ctxs = [] ∧ t.clusters = [] ∧ t.clock = 0 ∧ t.flash = cfg ∧ t.peer = s.peer ∧ t.regs.cause = cause ∧
    let n := bootStage s.flashMin cfg
    t.regs.stage = n ∧ t.boot = establish n cfg ∧ (n ≠ 7 → (getDie t 0).regs.errlog.msb = true) ∧ t.flashMin = (checkFirmware s.flashMin cfg.firmware).1 ∧
      t.regs.funcmode = (if 2 < n then cfg.funcmode.setWidth 64 else 0) ∧
      t.regs.pwrlim = (if 2 < n then BitVec.ofNat 64 (Nat.max 1000 (Nat.min 3400 cfg.pwrlim)) else 0)

/-- The host window is open for PCTL, no operation runs, and a value names a context (R363). -/
def PctlFree (s : State) (value : W64) (h : Nat) : Prop :=
  7 ≤ s.regs.stage ∧ s.regs.pctl.getLsbD 32 = false ∧ ctxByPair s (value.extractLsb' 16 12).toNat (value.extractLsb' 0 16).toNat = some h

/-- PCTL after a write whose operation runs, and after one that was refused or has ended (R363). -/
def pctlRunning (op : Nat) (value : W64) : W64 := BitVec.ofNat 64 (2 ^ 32 + op * 2 ^ 30) ||| (value &&& 0xFFFFFFF)
def Ended (s t : State) (ref : Bool) : Prop := t.regs.pctl.getLsbD 32 = false ∧ t.regs.pctl.getLsbD 29 = ref ∧ t.msix = 3 :: s.msix

/-- A wave of the machine has one entry in its operand log, for a load of one lane that is not Exited; its bytes lie in place (R339, R352). -/
def OneLogged (s : State) (w : Wave) (o : MA) (idx : Nat) (wt : LogWait) (l : Lane) (pa : Nat) : Prop :=
  w ∈ s.waves ∧ (s.waves.map (·.id)).Nodup ∧ (w.lanes.map (·.id)).Nodup ∧ l ∈ w.lanes ∧ (∀ k ∈ w.lanes, k.due = [] ∧ ∀ i, k.st ≠ .waiting (.first i)) ∧ o.h.x = false ∧
    ∃ e p, w.log = [(idx, e)] ∧ e.ins = .ld o ∧ e.once = false ∧ e.lanes = [p] ∧ p.lane = l.id ∧ p.wait = wt ∧ p.trapped = false ∧
      p.data = [] ∧ InWindowOf s w.ctx p.addr (accSize o) pa ∧ HomeQuiet s (w.cluster / 64) pa

/-- The load is done: the lane's registers hold the bytes, the log is empty; nothing else of the wave has changed but a wait for the data. -/
def LoadDone (s t : State) (w : Wave) (o : MA) (l : Lane) (pa : Nat) : Prop :=
  t.mem = s.mem ∧ t.waves = s.waves.map (fun x => if x.id = w.id then { x with
    log := []
    lanes := x.lanes.map (fun k =>
      let k1 := if k.id = l.id then
        { k with v := (loadVs o.h.d.toNat (accSize o) (o.opx.getLsbD 0) (leNat ((span pa (accSize o)).map (byteAt s)))).foldl (fun v p => setNth p.2 v p.1) k.v } else k
      match k.st with | .waiting (.data _) => { k1 with st := .ready } | _ => k1) } else x)

/-! ### Steps (R140, R143, R144, R154 to R158) -/

/-- From s, subgroup `slot` of wave k comes to issue; s1 is the state after time has passed and the subgroup is merged with those it must merge with, s2 the
state after the translation of its packet's address, which gives `pa`; the instruction cache, which has room, and the die's cache of remote lines hold nothing of the
packet's line. -/
def FetchedAt (s s1 s2 : State) (k slot pa : Nat) : Prop :=
  let w := curWave s1
  nextMove (tick s) = .issue k slot ∧ s1 = mergeSame k slot (startIssue (tick s)) ∧ s2.asks = [] ∧
    (∃ mt, xlat { ctx := w.ctx, cluster := w.cluster, h := (active s1).all (·.h), acc := .fetch, va := packetOf (curPc s1), size := 16, unit := tlbUnit w } s1 = (s2, .ok (.loc pa mt))) ∧
    poisoned s2 pa = false ∧ (rdcGet s2 (w.cluster / 64) (pa / 64)).filled = false ∧ (rdcGet s2 (w.cluster / 64) (pa / 64)).mask = 0 ∧
    pa % 16 = 0 ∧ (∀ e ∈ (getCluster s2 w.cluster).icache, ¬ (e.1 = icacheOf w ∧ e.2.1 = pa / 64 * 64)) ∧
    ((getCluster s2 w.cluster).icache.filter (fun e => e.1 == icacheOf w)).length < (if w.cart then 256 else 512)

/-- A state with the line of pa in the instruction cache of a wave. -/
def cachedLine (w : Wave) (pa : Nat) (s : State) : State :=
  let line := (icacheOf w, pa / 64 * 64, (span (pa / 64 * 64) 64).map (byteAt s))
  updCluster w.cluster (fun x => { x with icache := line :: x.icache.filter (fun e => !(e.1 == icacheOf w && e.2.1 == pa / 64 * 64)) }) s

/-- Word j of the packet that stands in memory at pa. -/
def wordAt (s : State) (pa j : Nat) : W32 := BitVec.ofNat 32 (leNat ((span (pa + 4 * j) 4).map (byteAt s)))

/-- The word after word j of the packet, where there is one. -/
def wordAfter (s : State) (pa j : Nat) : Option W32 := if j < 3 then some (wordAt s pa (j + 1)) else none

/-- A wave between steps (R143, R144): no Ready lane stands at its meeting point unparked; a meeting that all its lanes have reached is still open only while other
lanes hold every slot; and no group is Overflowed while a slot is free, or held by Parked lanes alone. -/
def SettledWave (w : Wave) : Prop :=
  (∀ l ∈ w.lanes, l.st = .ready → l.meet ≠ 0 → l.pc.toNat % 16 = 0 → packetBits l.pc ≠ packetBits l.meet) ∧
  (∀ l ∈ w.lanes, l.st = .parked → l.meet ≠ 0 →
    (∃ x ∈ w.lanes, x.st ≠ .exited ∧ x.st ≠ .parked ∧ x.meet ≠ 0 ∧ packetBits x.meet = packetBits l.meet) ∨
    ∀ k < 16, ∃ x ∈ w.lanes, x.st ≠ .exited ∧ x.st ≠ .overflowed ∧ x.slot = k ∧ ¬ (x.st = .parked ∧ x.meet ≠ 0 ∧ packetBits x.meet = packetBits l.meet)) ∧
  (∀ l ∈ w.lanes, l.st = .overflowed → ∀ k < 16, ∃ x ∈ w.lanes, slotted x = true ∧ x.slot = k)

def Settled (s : State) : Prop := ∀ w ∈ s.waves, SettledWave w

end Sys2Proof.Spec
end

