-- ==== Sys2Proof/Certificates/Slice0/Obligations.lean ====
section
/-! DEFINITION. The statements about the machine, for the provers. Each names the rules it formalises; a next state is given whole where nothing else may
change, or by what it holds. -/

open Sys2Proof Sys2Proof.Machine Sys2Proof.Spec

/-- Decode and encode agree (R160, R161, R165, R166, R168): for every instruction that is well formed on an executor, the decoder reads from its words
exactly it; what follows a one-word instruction does not matter. An instruction without words is an event. -/
def Obligations.DecodeEncode : Prop :=
  ∀ (i : Instr) (cart : Bool) (regs : Nat) (next : Option W32), i.wf cart regs = true →
    match encode i with
    | none => use i = none
    | some (w, none) => decode w next = .ok i
    | some (w, some p) => decode w (some p) = .ok i

/-- No bit of an encoding is dropped (R154, R159): what decodes to an instruction is that instruction's own words, and an instruction that takes two words
is not decoded from one. -/
def Obligations.DecodeExact : Prop :=
  ∀ (w : W32) (next : Option W32) (i : Instr), decode w next = .ok i →
    (encode i = some (w, none) ∨ ∃ p, next = some p ∧ encode i = some (w, some p)) ∧
    (twoWord (majorOf w) = true ↔ ∃ p, encode i = some (w, some p))

/-- Words that the specification's examples print, and the instructions that they stand for (R160, R217, R250, R354, R356): a sanity statement. -/
def Obligations.DecodeWords : Prop :=
  decode 0x150FFFF7 none = .ok (.moviIw { c := false, d := 3, imm := 0x1FFFB, k := true }) ∧
  decode 0x4C140841 none = .ok (.csrr { c := false, reg := 5, csr := 0x021, g := 0, n := false, k := true }) ∧
  decode 0x4F000700 none = .ok (.sysc { c := false, code := 7, g := 0, n := false }) ∧
  decode 0x38FFFF41 none = .ok (.bra { c := false, off := 0x3FFFD, g := 0, n := false, u := true }) ∧
  decode 0x760461C1 (some 0x10000000) = .ok (.tmma { c := false, d := 1, a := 6, b := 7, g := 0, n := false, x := true } { ty := 0, half := false }) ∧
  decode 0x6F080000 (some 0x3A280008) = .ok (.atom (MA.mk (RG.mk false 2 0 0 0 false false) 1 .ar 2 0 true false true false 0 8)) ∧
  decode 0x79400241 (some 0) = .ok (.ibox { c := false, d := 16, a := 0, b := 9, g := 0, n := false, x := true } {}) ∧
  decode 0x7B004200 (some 0) = .ok (.spawn { c := false, d := 0, a := 4, b := 8, g := 0, n := false, x := false } { rel := false, scope := 0, nrs := 0 })

/-- ADD, SUB, MUL, MULH, MULHU, MAD, AND, OR, XOR, ANDN, MIN, MAX, MINU, MAXU, ABS in their long and short forms (R164, R178) answer a next state: the
result, truncated to W bits, in v register D or the pair at D in every selected lane, or once in w register D from the lowest selected lane; the
subgroup moves past the instruction; every other register, flag, lane, wave and byte of the machine is as before (the next state is given whole). -/
def Obligations.ArithmeticResult : Prop :=
  ∀ (i : Instr) (r : Rec) (f : Fn), arith i = some (r, f) ∨ order i = some (r, f) → ∀ s, exec i s = .next (intEffect r f s)

/-- DIV, DIVU, REM and REMU (R179) answer a next state, given whole, for every operand: a zero divisor gives all ones and the dividend; the most negative
number by −1 gives itself and remainder 0, as two's-complement division wraps. -/
def Obligations.DivisionResult : Prop :=
  ∀ (i : Instr) (r : Rec) (f : Fn), divide i = some (r, f) → ∀ s, exec i s = .next (intEffect r f s)

/-- SHL, SHR, SRA, ROL, CLZ, CTZ, POPC, BREV, BFE, BFI, BIL and BILX in their long and short forms (R180 to R182) answer a next state, given whole: the
amount is B modulo W, so that a shift by W leaves A; zeros are counted to W; the field that B names has at most W bits and is extended by its sign
under MOD[0], or inserted; 10 bits of each coordinate interleave at width 32 and 21 at width 64. -/
def Obligations.BitResult : Prop :=
  ∀ (i : Instr) (r : Rec) (f : Fn), shift i = some (r, f) ∨ bits i = some (r, f) ∨ interleave i = some (r, f) → ∀ s, exec i s = .next (intEffect r f s)

/-- MOVI and MOVH for every state; MOV, SEL, CMP and LEA in every form that is well formed for the issuing wave (R162, R183 to R185): each answers a next
state, given whole. A MOV to a mailbox takes the value of the lowest selected lane; CMP writes the selected lanes' bits of mask register D, and m0
stays. -/
def Obligations.MoveResult : Prop :=
  (∀ (i : Instr) (r : Rec) (f : Fn), immediate i = some (r, f) → ∀ s, exec i s = .next (intEffect r f s)) ∧
  (∀ (i : Instr) (r : Rec) (x : Int), high i = some (r, x) → ∀ s, exec i s = .next (highEffect r x s)) ∧
  (∀ (i : Instr) (r : Rec), move i = some r → ∀ s, Fits i s → exec i s = .next (moveEffect r s)) ∧
  (∀ (o : XR) (s : State), Fits (.sel o) s → exec (.sel o) s = .next (selEffect o s)) ∧
  (∀ (o : XR) (s : State), Fits (.cmp o) s → exec (.cmp o) s = .next (cmpEffect o s)) ∧
  (∀ (o : XR) (s : State), Fits (.lea o) s → exec (.lea o) s = .next (leaEffect o s))

/-- FADD, FSUB, FMUL, FFMA, FMIN, FMAX, FRND, FCLASS, FSQRT, FRCP, FRSQ, FEXP2, FLOG2, FSIN, FCOS in their long and short forms, and FCMP (R186 to R188):
with no exception enabled in the subgroup each answers a next state, given whole. The flags of a v or m result go to the lane that produced it, those
of a w result to every selected lane (R176). For FCMP the waves, and the lanes of the issuing one, are numbered apart, as in every wave of the machine
(Issues). The approximated functions take the model's free value within the bound of R126 (log 3). -/
def Obligations.FloatResult : Prop :=
  (∀ (i : Instr) (r : Rec) (f : ElemFn), elementwise i = some (r, f) → ∀ s, Fits i s → NoTraps s →
    exec i s = .next (wordEffect r (elements r f (curWave s)) s)) ∧
  (∀ (o : XR) (s : State), Fits (.fcmp o) s → NoTraps s → (s.waves.map (·.id)).Nodup → ((curWave s).lanes.map (·.id)).Nodup →
    exec (.fcmp o) s = .next (fcmpEffect o s))

/-- DOT4 and DOT2 into v and w registers (the integer form by its exact sum), WMUL, QUANT, DEQUANT, PACK and UNPACK into their registers, and FCVT (R189
to R194): with no exception enabled in the subgroup each answers a next state, given whole. The model's choices in it: an integer DOT4 into a w
register is zero-extended (log 15), a w source register gives its low word to every lane (log 57), FCVT to INT64 of a NaN or of a value out of range
gives what log 70 says, and a float dot sum of infinities of both signs with a quiet NaN raises NV (log 71). -/
def Obligations.PackedResult : Prop :=
  (∀ (o : XR) (s : State), Fits (.dot4 o) s → NoTraps s → exec (.dot4 o) s = .next (wordEffect (recXR o) (dotValue (recXR o) 4 (curWave s)) s)) ∧
  (∀ (o : XR) (s : State), Fits (.dot2 o) s → NoTraps s → exec (.dot2 o) s = .next (wordEffect (recXR o) (dotValue (recXR o) 2 (curWave s)) s)) ∧
  (∀ (i : Instr) (o : XR) (f : Wave → Lane → List (Nat × W32) × Flags), packed i = some (o, f) → ∀ s, Fits i s → NoTraps s →
    exec i s = .next (laneResult o.h.g o.h.n 2 (fun l => (f (curWave s) l).1) (fun l => (f (curWave s) l).2) s)) ∧
  (∀ (o : XR) (s : State), Fits (.fcvt o) s → NoTraps s → exec (.fcvt o) s = .next (
    if o.kd = .w then waveResult o.h.g o.h.n 2 o.h.d.toNat (fun _ => (cvtW (recXR o) (curWave s)).1) (fun _ => (cvtW (recXR o) (curWave s)).2) s
    else laneResult o.h.g o.h.n 2 (fun l => (cvtLane (recXR o) l).1) (fun l => (cvtLane (recXR o) l).2) s))

/-- A value that a format represents rounds to its own encoding in every mode and raises no flag (R117, R118, R122). The directed modes (R121) in the
formats that have infinities: rounding down gives a value not above the exact one, rounding up one not below it, and rounding toward zero never
increases the magnitude, subnormal and overflowing results included. -/
def Obligations.RoundingLaws : Prop :=
  (∀ (f : Fmt) (rm : Rm) (x : Nat) (neg : Bool) (m : Nat) (e : Int), x < 2 ^ f.width → unpackF f x = .fin neg m e → roundF f rm (.fin neg m e) = (x, 0)) ∧
  ∀ (f : Fmt) (neg : Bool) (m : Nat) (e : Int), f ≠ .e4m3 →
    ltF (.fin neg m e) (unpackF f (roundF f .rd (.fin neg m e)).1) = false ∧
    ltF (unpackF f (roundF f .ru (.fin neg m e)).1) (.fin neg m e) = false ∧
    ltF (.fin false m e) (unpackF f (roundF f .rz (.fin false m e)).1) = false ∧
    ltF (unpackF f (roundF f .rz (.fin true m e)).1) (.fin true m e) = false

/-- SHFL (both forms), VOTE, REDUX, SCAN, MATCH, ELECT and MPOPC (R195 to R199), well formed, with the lanes of the effective mask all in the issuing
subgroup and no exception enabled: each answers a next state, given whole. A float REDUX combines as the binary tree of R128, a float SCAN in
ascending order. SHFL.rd reads a lane of E. -/
def Obligations.LaneFunctions : Prop :=
  ∀ (i : Instr) (r : Rec) (f : State → State), laneFn i = some (r, f) → ∀ s, Fits i s → Gathered (member r s) s → NoTraps s →
    (∀ o, i = .shfl o → o.md = 4 → selected s r.g r.n ≠ [] → (wGet (curWave s) r.b).toNat % 128 ∈ (selected s r.g r.n).map (·.id)) →
    exec i s = .next (f s)

/-- MAND, MOR, MXOR, MNOT and MMOV (R200) answer a next state, given whole: the bits of D of the selected lanes take the function of the lanes' bits of A
and B; bits of lanes outside the subgroup or not selected keep their values, and m0 stays. -/
def Obligations.MaskResult : Prop :=
  ∀ (i : Instr) (o : RG) (f : Bool → Bool → Bool), maskFn i = some (o, f) → ∀ s,
    exec i s = .next (Spec.maskResult o.g o.n 1 o.d.toNat (fun l => f (mBit (curWave s) o.a.toNat l.id) (mBit (curWave s) o.b.toNat l.id)) (fun _ => 0) s)

/-- BRA, CALL, BRX and RET (R144, R202 to R204): where no target of a selected lane is misaligned or not canonical and, under U on a carriage, the lanes
agree, the instruction answers a next state, given whole: targets and next words, the split by next PC into slots, LINK of CALL. BRX with X = 0 reads
the pair of each lane. That each group left without a slot is an Overflowed group of its own is the model's reading (log 13). -/
def Obligations.TransferEffect : Prop :=
  ∀ (i : Instr) (s : State) (t : Transfer), transfer s i = some t → Issues s →
    (t.u = false ∨ (curWave s).cart = true ∨ Agree s (nextOf s t.g t.n t.target)) →
    ((∃ o, i = .brx o) → ∀ l ∈ selected s t.g t.n, (t.target l).toNat % 16 = 0 ∧ canonical (t.target l) = true) →
    exec i s = .next (splitEffect (nextOf s t.g t.n t.target) (fun l => if selects (curWave s) t.g t.n l then t.eff l else l) s)

/-- SETMEET, EXIT, NOP and YIELD answer a next state, given whole, in every state that can issue. SETMEET writes MEET in the selected lanes (R202). EXIT
makes them Exited and drops their parts of the entries of the operand log that only read (R205); their parts of the others are performed as soon as
they can be (log 64). NOP only moves on; YIELD does so where no other subgroup of its wave and no other wave of its carriage or cart is ready, and
otherwise waits past its own word (R206). -/
def Obligations.SubgroupSteps : Prop :=
  (∀ (o : BR) (s : State), exec (.setmeet o) s = .next (issueUpd id (fun l =>
    moved 1 (if selects (curWave s) o.g o.n l then { l with meet := linkBits (target o l.pc) } else l)) s)) ∧
  (∀ (o : Z) (s : State), Issues s → exec (.exit o) s = .next (issueUpd
    (fun w => { w with log := logAfterExit ((selected s o.g o.n).map (·.id)) w.log })
    (fun l => if selects (curWave s) o.g o.n l then { moved 1 l with st := .exited } else moved 1 l) s)) ∧
  (∀ (o : Z) (s : State), exec (.nop o) s = .next (issueUpd id (moved 1) s)) ∧
  (∀ (o : Z) (s : State), exec (.yieldv o) s = .next (issueUpd id (fun l =>
    if otherSlots s = [] ∧ otherWaves s = [] then moved 1 l else { moved 1 l with st := .waiting (.yield (otherSlots s) (otherWaves s)) }) s))

/-- TRAP, BKPT and SYSC take their trap in every selected lane (R207, R331 to R333, R336, R356): the four trap registers, PH, H, and the handler's packet.
All lanes of the subgroup keep its slot; a part of them takes the lowest free slot while the others move past the word. With VEC = 0 the lanes become
Exited instead (R334), and with SUPV.EN = 0 no message is posted. Nothing else changes. -/
def Obligations.SoftTrapEntry : Prop :=
  ∀ (i : Instr) (o : Z) (code : Nat) (tval : W64 → W64) (k : Nat), softTrapOf i = some (o, code, tval, k) → ∀ (s : State), Issues s →
    (∀ slot : Nat, Handles s → selected s o.g o.n ≠ [] →
      (if selected s o.g o.n = active s then slot = s.cur.2 else (freeSlots (curWave s)).head? = some slot) →
      exec i s = .next (issueUpd id (fun l =>
        if selects (curWave s) o.g o.n l then enter s code (tval (curPc s)) (curPc s + BitVec.ofNat 64 k) slot l else moved 1 l) s)) ∧
    (linkBits (getCtx s (curWave s).ctx).tvec = 0 → bit (getCtx s (curWave s).ctx).supv 0 = false →
      exec i s = .next (issueUpd id (fun l => if selects (curWave s) o.g o.n l then { moved 1 l with st := .exited } else moved 1 l) s))

/-- BRA with U whose lanes disagree takes the converged fallback with cause UNIFORM (R145, R337): m15 is the mask of the lanes whose next PC differs from
the lowest lane's; every Ready, Waiting, Parked and Overflowed lane outside a handler joins one subgroup at the handler, in the lowest slot that no
held lane has; lanes in handlers, FP-parked lanes are held; the other lanes do not change. The PC of no lane takes the branch. Which lanes join, that
the others are held, and that the handler takes the lowest slot no held lane has are the model's reading (log 22). -/
def Obligations.UniformFallback : Prop :=
  ∀ (o : BR) (s : State), Issues s → Handles s → o.u = true → (curWave s).cart = false →
    (∀ l ∈ (curWave s).lanes, alive l = true → tcCONV l.tcause = false) → (∀ l ∈ active s, l.h = false) →
    let next := nextOf s o.g o.n (fun l => target o l.pc)
    let differs : Lane → Bool := fun l => (active s).any (fun k => k.id == l.id && decide ((active s).head?.map next ≠ some (next k)))
    (active s).any differs = true →
    let joined : Lane → Bool := fun l => match l.st with
      | .ready => !l.h
      | .waiting _ => !l.h
      | .parked => true
      | .overflowed => true
      | _ => false
    let slot := ((span 0 16).filter (fun k => !((curWave s).lanes.any (fun l => slotted l && !joined l && l.slot == k)))).headD 0
    exec (.bra o) s = .next { s with waves := s.waves.map (fun w => if w.id = s.cur.1 then { w with
      m := setNth (((active s).filter differs).foldl (fun m l => setBit m l.id true) 0) w.m 15
      lanes := w.lanes.map (fun l =>
        if joined l then enterConverged s (if differs l then 4 else 0) l.pc slot l else if alive l then { l with held := true } else l) } else w) }

/-- ERET of the ordinary handler (R355): each active lane continues at TEPC with H := PH; lanes that return to different PCs split into slots as R144
says. ERET of the converged handler, executed by all its lanes: each takes back the state that SSTATE codes, the slot, H := PH and TEPC, with CONV,
LOGV and PTV cleared. Nothing else changes. That a Waiting lane takes back the reason kept beside SSTATE is the model's reading (log 22), and so are
the Overflowed groups of the split (log 13) and what a reserved SSTATE or an unaligned TEPC gives (logs 80, 86). -/
def Obligations.HandlerReturn : Prop :=
  ∀ (o : Z) (s : State), Fits (.eret o) s → Issues s → (∀ l ∈ active s, l.h = true ∧ tcLOGV l.tcause = false ∧ tcPTV l.tcause = false ∧ l.atEret = []) →
    ((∀ l ∈ (curWave s).lanes, tcCONV l.tcause = false) →
      exec (.eret o) s = .next (splitEffect (fun l => l.tepc) (fun l => { l with h := bit l.tcause 60 }) s)) ∧
    ((curWave s).halted = false → (∀ l ∈ active s, tcCONV l.tcause = true) → (∀ l ∈ (curWave s).lanes, l.held = false) →
      (∀ l ∈ (curWave s).lanes, alive l = true → issuing s.cur.2 l = true) →
      exec (.eret o) s = .next (issueUpd id (fun l => { l with
        st := stateOfCode l.before (fld l.tcause 48 4).toNat, slot := (fld l.tcause 52 4).toNat, h := bit l.tcause 60, pc := l.tepc
        tcause := l.tcause &&& ~~~0x2400000000008000 }) s))

/-- CSRR of every register of R335, where the selected lanes are in handler mode if the register needs it, answers a next state, given whole (R354). The
four identity registers hold what R142 says. CLKRD (R358) reads the clock. -/
def Obligations.CsrReadResult : Prop :=
  (∀ (o : CR) (s : State), Fits (.csrr o) s → Issues s → (handlerReads (o.csr.toNat % 2048) = true → ∀ l ∈ selected s o.g o.n, l.h = true) →
    let x (l : Lane) : W64 := csrRead s (curWave s) l (o.csr.toNat % 2048)
    exec (.csrr o) s = .next (if o.k then waveResult o.g o.n 1 o.reg.toNat x (fun _ => 0) s
      else laneResult o.g o.n 1 (fun l => [(o.reg.toNat, if o.csr.getLsbD 11 then (x l >>> 32).setWidth 32 else (x l).setWidth 32)]) (fun _ => 0) s)) ∧
  (∀ (s : State) (w : Wave) (l : Lane) (n : Nat) (x : W64), identity s w l n = some x → csrRead s w l n = x) ∧
  ∀ (o : RG) (s : State), exec (.clkrd o) s = .next (waveResult o.g o.n 1 o.d.toNat (fun _ => BitVec.ofNat 64 s.clock) (fun _ => 0) s)

/-- CSRW from a w register of MEET, LINK, FPFLAGS, FPEN, the four trap registers, TVEC, SUPV, CTXID, PTBASE and CSA (R354): the lanes that the guard
selects, in handler mode where the register asks for it, then read the written value in the writable bits of the register's map and 0 elsewhere.
Memory, w and m registers, and v registers do not change; the subgroup moves past the word. -/
def Obligations.CsrWriteReadBack : Prop :=
  ∀ (o : CR) (s : State) (mask : W64), Fits (.csrw o) s → Issues s → o.k = true → writable (o.csr.toNat % 2048) = some mask →
    selected s o.g o.n ≠ [] → (handlerWrites (o.csr.toNat % 2048) = true → ∀ l ∈ selected s o.g o.n, l.h = true) →
    ∃ t, exec (.csrw o) s = .next t ∧ t.mem = s.mem ∧ t.peer = s.peer ∧
      (curWave t).w = (curWave s).w ∧ (curWave t).m = (curWave s).m ∧ (curWave t).lanes.map (·.v) = (curWave s).lanes.map (·.v) ∧
      (∀ l ∈ (curWave t).lanes, issuing s.cur.2 l = true → selects (curWave s) o.g o.n l = true →
        csrRead t (curWave t) l (o.csr.toNat % 2048) = wGet (curWave s) o.reg.toNat &&& mask) ∧
      (curWave t).lanes.map (·.pc) = (curWave s).lanes.map (fun l => if issuing s.cur.2 l then l.pc + 4 else l.pc)

/-- A CSRW of a register whose write column says handler, by a subgroup in ordinary mode (R335): every selected lane traps PROT with TVAL the number, TEPC
the instruction; the register keeps its value. Stated for a subgroup whose lanes are all selected; the next state is given whole. -/
def Obligations.CsrGuarded : Prop :=
  ∀ (o : CR) (s : State), Fits (.csrw o) s → Issues s → Handles s → handlerWrites (o.csr.toNat % 2048) = true →
    (∀ l ∈ active s, l.h = false) → selected s o.g o.n = active s →
    exec (.csrw o) s = .next (issueUpd id (fun l => enter s 9 (BitVec.ofNat 64 (o.csr.toNat % 2048)) (curPc s) s.cur.2 l) s)

/-- TLBINV.va, TLBINV.ctx and TLBINV.all (R30, R357), issued in handler mode with no access outstanding: the dies' dirty bytes go home, and afterwards no
cluster's TLBs and no die's walk cache hold an entry that the form names, and they hold every other entry that they held; the subgroup moves past the
word and its registers keep their values. In ordinary mode every lane traps PROT with a TVAL that the specification leaves open (R335 gives it for
CSRW alone; a free value, logs 3 and 24). That it waits for the accesses of every agent and drains the remote-data caches of all four dies is the
model's reading of R31 and R357 (log 25). -/
def Obligations.TlbInvalidation : Prop :=
  ∀ (i : Instr) (o : RG) (sel : TlbEntry → Bool) (s : State),
    (i = .tlbinvVa o ∧ sel = (fun e => (e.glob || e.ctxid.setWidth 28 == (wGet (curWave s) o.b.toNat).setWidth 28) &&
        e.va == (wGet (curWave s) o.a.toNat).toNat % 2 ^ 52 / 2 ^ pageBits e.level) ∨
      i = .tlbinvCtx o ∧ sel = (fun e => !e.glob && fld e.ctxid 16 12 == fld (wGet (curWave s) o.b.toNat) 16 12) ∨
      i = .tlbinvAll o ∧ sel = (fun _ => true)) →
    Fits i s → Issues s →
    ((∀ l ∈ active s, l.h = false) → Handles s →
      exec i s = .next (issueUpd id (enter s 9 (Config.value s.free) (curPc s) s.cur.2) { s with free := s.free + 1 })) ∧
    ((∀ l ∈ active s, l.h = true) → releaseReady 2 s = true → accessesDone s = true →
    (∀ w ∈ s.waves, ∀ l ∈ w.lanes, ∀ a, l.st ≠ .waiting (.waita a) ∧ l.before ≠ .waiting (.waita a)) → (∀ d < 4, unanswered s d = []) →
    ∃ t, exec i s = .next t ∧ t.waves = (issueUpd id (moved 1) s).waves ∧ t.mem = ((span 0 4).foldl (fun s d => drainRdc d s) s).mem ∧
      (∀ d < 4, ∀ line, (rdcGet t d line).mask = 0) ∧
      (∀ c e, e ∈ (getCluster t c).tlb ↔ e ∈ (getCluster s c).tlb ∧ sel e = false) ∧
      (∀ c u e, (u, e) ∈ (getCluster t c).l1tlb ↔ (u, e) ∈ (getCluster s c).l1tlb ∧ sel e = false) ∧
      (∀ d e, e ∈ (getDie t d).wcache ↔ e ∈ (getDie s d).wcache ∧ sel e = false))

/-- The two laws of the byte memory: what is written is read, lowest byte first, and every other address reads as before. -/
def Obligations.MemoryWrite : Prop :=
  (∀ (m : List Host.Cell) (a : Nat) (bs : List Byte) (b : Nat),
    cellGet (cellsWrite m a bs) b = if a ≤ b ∧ b < a + bs.length then bs.getD (b - a) 0 else cellGet m b) ∧
  ∀ (m : List Host.Cell) (a n x : Nat), leNat (cellsRead (cellsWrite m a (leBytes n x)) a n) = x % 256 ^ n

/-- The first checks of R12 in their order, and the heap window (R17, R18): the answer of a translation, and that it changes nothing. -/
def Obligations.WindowTranslation : Prop :=
  ∀ (q : XReq) (s : State), q.size ≠ 0 →
    let x := getCtx s q.ctx
    let ok := canonical q.va && canonical (q.va + BitVec.ofNat 64 (q.size - 1))
    (q.va.toNat % q.size ≠ 0 → xlat q s = (s, .trap 6 false)) ∧
    (q.va.toNat % q.size = 0 → ok = false → xlat q s = (s, .trap 7 false)) ∧
    (q.va.toNat % q.size = 0 → ok = true → inWindow x q.va q.size = .part → xlat q s = (s, .trap 9 false)) ∧
    (q.va.toNat % q.size = 0 → ok = true → inWindow x q.va q.size = .inside → q.acc ≠ .fetch →
      xlat q s = (s, if exists_ s ((q.va.toNat + x.hwinOff.toNat / 65536 * 65536) % 2 ^ 48)
        then .ok (.loc ((q.va.toNat + x.hwinOff.toNat / 65536 * 65536) % 2 ^ 48) 0) else .trap 9 false))

/-- The use of a walk's leaf (R25), where the walk is made within the step or has been waited for (R28, log 61): the target is the frame with the page
offset, A is set in the entry at its home, and D by a write; every other byte of memory and every lane are as before. -/
def Obligations.WalkMarksEntry : Prop :=
  ∀ (q : XReq) (s : State) (level a pa mt : Nat) (pte : W64) (ptrs : List (Nat × Nat × W64)),
    q.va.toNat % q.size = 0 → q.size ≠ 0 → canonical q.va = true → canonical (q.va + BitVec.ofNat 64 (q.size - 1)) = true →
    inWindow (getCtx s q.ctx) q.va q.size = .outside →
    (getCluster s q.cluster).tlb = [] → (getCluster s q.cluster).l1tlb = [] → (getDie s (q.cluster / 64)).wcache = [] →
    (q.now = true ∨ (agentOf s, q.ctx, q.va.toNat % 2 ^ 52 / 65536) ∈ s.walked) →
    walkFrom s (q.va.toNat % 2 ^ 52) 4 ((getCtx s q.ctx).ptbase.toNat / 4096 % 2 ^ 36 * 4096) = (.leaf level a pte, ptrs) →
    leafAllows pte q = true → leafTarget s level pte (q.va.toNat % 2 ^ 52) = .loc pa mt → exists_ s pa = true →
    HomeQuiet s (homeDie a) a → a % 8 = 0 →
    ∃ t, xlat q s = (t, .ok (.loc pa mt)) ∧
      StoredAt s t a 8 (pte ||| 0x20 ||| (if q.acc = .write then 0x40 else 0)).toNat ∧
      t.waves.map (fun w => (w.id, w.w, w.m, w.lanes.map (fun l => (l.id, l.pc, l.v)))) = s.waves.map (fun w => (w.id, w.w, w.m, w.lanes.map (fun l => (l.id, l.pc, l.v))))

/-- LDLM in every form (R214), for any number of lanes: the next state is given whole, so that no byte of any memory changes. -/
def Obligations.LocalLoad : Prop :=
  ∀ (o : MA) (s : State), Fits (.ldlm o) s → Issues s → acqHolds (curWave s) (selected s o.h.g o.h.n) = false →
    (∀ l ∈ selected s o.h.g o.h.n, (localAddr o (curWave s) l).toNat % accSize o = 0 ∧
      (localTarget s (teamOf s (curWave s)) (localAddr o (curWave s) l).toNat (accSize o)).isSome = true) →
    let x (l : Lane) : Nat := match localTarget s (teamOf s (curWave s)) (localAddr o (curWave s) l).toNat (accSize o) with
      | some p => leNat ((span 0 (accSize o)).map (fun k => localByte s p.1 (p.2 + k)))
      | none => 0
    exec (.ldlm o) s = .next (if o.h.x then waveResult o.h.g o.h.n 2 o.h.d.toNat (fun l => loadW (accSize o) (o.opx.getLsbD 0) (x l)) (fun _ => 0) s
      else laneResult o.h.g o.h.n 2 (fun l => loadVs o.h.d.toNat (accSize o) (o.opx.getLsbD 0) (x l)) (fun _ => 0) s)

/-- STLM and LMBC (R214, R215), for any number of lanes: the offset stored to is computed as the meaning computes it; every byte of local memory outside
the stored bytes, all of package memory, and all registers are as before; LMBC writes the offset in every member of the gang. -/
def Obligations.LocalStore : Prop :=
  ∀ (i : Instr) (o : MA) (s : State), (i = .stlm o ∨ i = .lmbc o) → Fits i s → Issues s → ReleaseFree o.ord o.scope.toNat s →
    acqHolds (curWave s) (selected s o.h.g o.h.n) = false →
    getTeam s (curWave s).team ≠ none →
    let addr (l : Lane) : Nat := (localAddr o (curWave s) l).toNat
    let goal (l : Lane) : Option (Nat × Nat) := localTarget s (teamOf s (curWave s)) (addr l) (accSize o)
    (∀ l ∈ selected s o.h.g o.h.n, addr l % accSize o = 0 ∧ (goal l).isSome = true ∧ (i = .lmbc o → addr l / 2 ^ 21 % 16 = 15)) →
    let covers (l : Lane) (team off : Nat) : Prop := ∃ p, goal l = some p ∧ p.2 ≤ off ∧ off < p.2 + accSize o ∧
      (if i = .lmbc o then ∃ x ∈ gangTeams s (teamOf s (curWave s)), x.id = team else team = p.1)
    let byte (l : Lane) (off : Nat) : Byte := dataByte o (curWave s) l (off - addr l % 2 ^ 21)
    ∃ t, exec i s = .next t ∧ AfterAccess s t (fun _ => []) ∧ t.mem = s.mem ∧ t.peer = s.peer ∧ ∀ team off, getTeam s team ≠ none →
      ((∀ l ∈ selected s o.h.g o.h.n, ¬ covers l team off) → localByte t team off = localByte s team off) ∧
      ∀ l ∈ selected s o.h.g o.h.n, covers l team off → (∀ k ∈ selected s o.h.g o.h.n, covers k team off → byte k off = byte l off) →
        localByte t team off = byte l off

/-- LD and GATHER in every form but .split (R211, R212), for any number of lanes whose addresses lie in the heap window at lines of the issuing die, and
for one lane at lines of other dies and of the host (R44, R45, R56, R210): results, and that no memory changes. The caches' records may change. -/
def Obligations.GlobalLoad : Prop :=
  (∀ (i : Instr) (o : MA) (sx : Bool) (s : State) (pa : Lane → Nat), loads i = some (o, sx) → Fits i s → Issues s → (curWave s).log = [] →
    (∀ l ∈ selected s o.h.g o.h.n, InWindow s (effAddr o (curWave s) l) (accSize o) (pa l) ∧ HomeQuiet s ((curWave s).cluster / 64) (pa l)) →
    let x (l : Lane) : Nat := leNat ((span 0 (accSize o)).map (fun k => byteAt s (pa l + k)))
    ∃ t, exec i s = .next t ∧ t.mem = s.mem ∧ t.peer = s.peer ∧ t.teams = s.teams ∧ t.waves =
      (if o.h.x then waveResult o.h.g o.h.n 2 o.h.d.toNat (fun l => loadW (accSize o) sx (x l)) (fun _ => 0) s
        else laneResult o.h.g o.h.n 2 (fun l => loadVs o.h.d.toNat (accSize o) sx (x l)) (fun _ => 0) s).waves) ∧
  ∀ (i : Instr) (o : MA) (sx : Bool) (s : State) (l : Lane) (pa : Nat), loads i = some (o, sx) → Fits i s → Issues s → (curWave s).log = [] →
    selected s o.h.g o.h.n = [l] → InWindow s (effAddr o (curWave s) l) (accSize o) pa →
    let die := (curWave s).cluster / 64
    let held := (rdcGet s die (pa / 64)).filled
    poisoned s pa = false → (∀ f ∈ (getDie s die).fills, f.line = pa / 64 → f.invalidated = true) →
    (FarLine s die pa ∨ (2 ^ 47 ≤ pa ∧ held = true ∧ (getDie s die).rdcFenced = false ∧ ∀ x ∈ (getDie s 0).held, x.pa / 64 ≠ pa / 64) →
      let x := leNat ((span 0 (accSize o)).map (fun k => dieByte s die (pa + k)))
      ∃ t, exec i s = .next t ∧ t.mem = s.mem ∧ t.peer = s.peer ∧ t.teams = s.teams ∧
        if o.h.x then AfterAccessW s t (setNth (loadW (accSize o) sx x) (curWave s).w o.h.d.toNat)
        else AfterAccess s t (fun k => if k.id = l.id then loadVs o.h.d.toNat (accSize o) sx x else [])) ∧
    (2 ^ 47 ≤ pa → held = false → ∃ t e, exec i s = .next t ∧ t.mem = s.mem ∧ t.peer = s.peer ∧ t.teams = s.teams ∧ AfterAccess s t (fun _ => []) ∧
      ((curWave s).id, Instr.loadReturn) ∈ t.agenda ∧ (curWave t).log = [(0, e)] ∧ e.ins = i ∧ e.pc = curPc s ∧
      e.lanes = [{ lane := l.id, addr := effAddr o (curWave s) l, data := [], wait := .data }])

/-- ST and SCATTER (R211, R212), for any number of lanes: the physical address stored to is the window's translation of the effective address of R165;
every byte of package memory outside the stored bytes, all local memory and all registers are as before. Where lanes of a SCATTER overlap, the highest
lane's value stands. Host memory is written through (R45); a line of another die is held by the remote-data cache, byte by byte (R46, R56). -/
def Obligations.GlobalStore : Prop :=
  (∀ (i : Instr) (o : MA) (s : State) (pa : Lane → Nat), storesOf i = some o → Fits i s → Issues s → (curWave s).log = [] →
    ReleaseFree o.ord o.scope.toNat s →
    (∀ l ∈ selected s o.h.g o.h.n, InWindow s (effAddr o (curWave s) l) (accSize o) (pa l) ∧
      (HomeQuiet s ((curWave s).cluster / 64) (pa l) ∨ (2 ^ 47 ≤ pa l ∧ asksHost s (pa l / 64) = false))) →
    let covers (l : Lane) (a : Nat) : Prop := pa l ≤ a ∧ a < pa l + accSize o
    ∃ t, exec i s = .next t ∧ AfterAccess s t (fun _ => []) ∧ t.peer = s.peer ∧ t.teams = s.teams ∧ ∀ a,
      ((∀ l ∈ selected s o.h.g o.h.n, ¬ covers l a) → byteAt t a = byteAt s a) ∧
      ∀ l ∈ selected s o.h.g o.h.n, covers l a →
        (∀ k ∈ selected s o.h.g o.h.n, covers k a → dataByte o (curWave s) k (a - pa k) = dataByte o (curWave s) l (a - pa l) ∨ (i = .scatter o ∧ k.id < l.id)) →
        ((selected s o.h.g o.h.n).map (·.id)).Pairwise (· < ·) →
        byteAt t a = dataByte o (curWave s) l (a - pa l)) ∧
  ∀ (i : Instr) (o : MA) (s : State) (l : Lane) (pa : Nat), storesOf i = some o → Fits i s → Issues s → (curWave s).log = [] → ReleaseFree o.ord o.scope.toNat s →
    selected s o.h.g o.h.n = [l] → InWindow s (effAddr o (curWave s) l) (accSize o) pa →
    let die := (curWave s).cluster / 64
    let x := rdcGet s die (pa / 64)
    FarLine s die pa → die < 4 → pa / 512 ∉ (getDie s die).rtags → x.bytes = [] ∨ x.bytes.length = 64 →
    ∃ t, exec i s = .next t ∧ AfterAccess s t (fun _ => []) ∧ t.mem = s.mem ∧ t.peer = s.peer ∧ t.teams = s.teams ∧ bit (getDir t (pa / 512)).rdcd die = true ∧
      ∀ a, dieByte t die a = if pa ≤ a ∧ a < pa + accSize o then dataByte o (curWave s) l (a - pa) else dieByte s die a

/-- One lane's LD and ST through whatever the translation of R12 uses; s1 is the machine after the instruction has looked its addresses up, which found no
miss to wait for (R29), and s2 the machine after the lane's own translation, which may have set A and D in a page-table entry. -/
def Obligations.PagedAccess : Prop :=
  ∀ (o : MA) (s s1 s2 : State) (l : Lane) (pa mt : Nat) (t0 : Target), Issues s → selected s o.h.g o.h.n = [l] → (curWave s).log = [] → ReleaseFree o.ord o.scope.toNat s →
    (Fits (.ld o) s → let q := laneReq (.load (bit o.opx 0)) o (curWave s) l
      xlat q s = (s1, .ok t0) → xlat { q with now := true } s1 = (s2, .ok (.loc pa mt)) → HomeQuiet s2 ((curWave s).cluster / 64) pa →
      ∃ t, exec (.ld o) s = .next t ∧ t.mem = s2.mem ∧
        (o.h.x = false → AfterAccess s2 t (fun k => if k.id = l.id then
          loadVs o.h.d.toNat (accSize o) (o.opx.getLsbD 0) (leNat ((span 0 (accSize o)).map (fun j => byteAt s2 (pa + j)))) else [])) ∧
        (o.h.x = true → AfterAccessW s2 t (setNth (loadW (accSize o) (o.opx.getLsbD 0) (leNat ((span 0 (accSize o)).map (fun j => byteAt s2 (pa + j))))) (curWave s2).w o.h.d.toNat))) ∧
    (Fits (.st o) s → let q := laneReq .store o (curWave s) l
      xlat q s = (s1, .ok t0) → xlat { q with now := true } s1 = (s2, .ok (.loc pa mt)) → HomeQuiet s2 ((curWave s).cluster / 64) pa →
      ∃ t, exec (.st o) s = .next t ∧ AfterAccess s2 t (fun _ => []) ∧
        ∀ a, byteAt t a = if pa ≤ a ∧ a < pa + accSize o then dataByte o (curWave s) l (a - pa) else byteAt s2 a) ∧
    ∀ (i : Instr) (k : MKind) (dev : Nat), (i = .ld o ∧ k = .load (bit o.opx 0)) ∨ (i = .st o ∧ k = .store) ∨ (i = .atom o ∧ k = .atom o.opx.toNat) → Fits i s →
      let q := laneReq k o (curWave s) l
      xlat q s = (s1, .ok t0) → xlat { q with now := true } s1 = (s2, .ok (.fab dev pa)) →
      ∃ t r, exec i s = .next t ∧ AfterAccess s2 t (fun _ => []) ∧ t.mem = s2.mem ∧ t.peer = s2.peer ∧ t.teams = s2.teams ∧ t.remote = s2.remote ++ [r] ∧
        r.ctx = (curWave s).ctx ∧ r.dev = dev ∧ r.pa = pa ∧ r.va = effAddr o (curWave s) l ∧ r.pc = curPc s ∧ r.who = [((curWave s).id, l.id)] ∧ r.agent = none ∧
        (k = .store → r.log = none ∧ r.tcb = none ∧ r.bytes = (span 0 (accSize o)).map (dataByte o (curWave s) l) ∧ (curWave t).log = []) ∧
        (k ≠ .store → r.log = some 0 ∧ ∃ e p, (curWave t).log = [(0, e)] ∧ e.ins = i ∧ e.lanes = [p] ∧ p.lane = l.id ∧ p.addr = effAddr o (curWave s) l ∧ p.wait = .peer)

/-- ATOM in every operation, width and destination class (R217), for any number of lanes: the old values in the lanes' registers or pairs, or in the w
register; the new values in memory; every byte outside them, and every other register, as before. The order of lanes that overlap is open (R217, logs
3, 28). -/
def Obligations.AtomicResult : Prop :=
  ∀ (o : MA) (s : State) (pa : Lane → Nat), Fits (.atom o) s → Issues s → (curWave s).log = [] → ReleaseFree o.ord o.scope.toNat s →
    let ls := accessesOf (.atom o.opx.toNat) o s
    (∀ l ∈ ls, InWindow s (effAddr o (curWave s) l) (accSize o) (pa l) ∧ HomeReady s ((curWave s).cluster / 64) (pa l)) →
    ∃ (order : List Lane) (t : State), order.Perm ls ∧ exec (.atom o) s = .next t ∧ t.teams = s.teams ∧ t.peer = s.peer ∧
      let r := atomsIn o (curWave s) pa order (byteAt s)
      (∀ a, byteAt t a = r.1 a) ∧
      (o.h.x = false → AfterAccess s t (fun k => match r.2.find? (fun p => p.1 == k.id) with
        | some p => loadVs o.h.d.toNat (accSize o) false p.2
        | none => [])) ∧
      (o.h.x = true → AfterAccessW s t (match r.2 with | p :: _ => setNth (BitVec.ofNat 64 p.2) (curWave s).w o.h.d.toNat | [] => (curWave s).w))

/-- ATOMO (R218 to R220), DRAIN (R221) and STC (R228), each answering a next state: ATOMO and STC for any number of lanes in the heap window, the stores
at quiet lines of the issuing die; DRAIN where its release has nothing to wait for, the homes are idle, and every contribution stands at its home. An
access made once for the wave (R90) counts once. -/
def Obligations.OrderedAddAndStc : Prop :=
  (∀ (o : MA) (s : State) (pa : Lane → Nat), Fits (.atomo o) s → Issues s → (curWave s).log = [] → ReleaseFree o.ord o.scope.toNat s →
    let ls := accessesOf .atomo o s
    (∀ l ∈ ls, InWindow s (effAddr o (curWave s) l) 4 (pa l) ∧ pa l < 2 ^ 39 ∧ (rdcGet s ((curWave s).cluster / 64) (pa l / 64)).mask = 0) →
    (∀ d < 4, ((getDie s d).buf.filter (fun c => !c.spilled)).length + ls.length ≤ 65536) →
    ∃ t, exec (.atomo o) s = .next t ∧ AfterAccess s t (fun _ => []) ∧ t.mem = s.mem ∧ ∀ d < 4,
      (getDie t d).buf = (getDie s d).buf ++ ((ls.filter (fun l => homeDie (pa l) == d)).zipIdx).map (fun p => Contribution.mk (curWave s).ctx (pa p.1)
        (if o.h.x then (wGet (curWave s) (o.h.d.toNat + 1)).setWidth 32 else vGet p.1 (o.h.d.toNat + 1))
        (if o.h.x then (wGet (curWave s) o.h.d.toNat).setWidth 32 else vGet p.1 o.h.d.toNat) ((getDie s d).bufPos + p.2) false)) ∧
  (∀ (o : MA) (s : State) (l : Lane) (pa : Nat), Fits (.atomo o) s → Issues s → Handles s → active s = [l] → selected s o.h.g o.h.n = [l] →
    isOnce .atomo o false = false → (curWave s).log = [] → ReleaseFree o.ord o.scope.toNat s →
    InWindow s (effAddr o (curWave s) l) 4 pa → pa < 2 ^ 39 → (rdcGet s ((curWave s).cluster / 64) (pa / 64)).mask = 0 →
    65536 ≤ ((getDie s (homeDie pa)).buf.filter (fun c => !c.spilled)).length → spillRoom s (curWave s).ctx ≤ spilled s (curWave s).ctx →
    exec (.atomo o) s = .next (issueUpd id (enter s 16 (effAddr o (curWave s) l) (curPc s) s.cur.2) s)) ∧
  (∀ (o : SY) (s : State), releaseReady 1 s = true → (∀ d < 4, HomeIdle s d) → drainAsks (curWave s).ctx s = [] →
    (∀ d < 4, ∀ c ∈ (getDie s d).buf, c.ctx = (curWave s).ctx → homeDie c.pa = d ∧ c.pa % 4 = 0 ∧ c.pa < 2 ^ 45) →
    ∃ t, exec (.drain o) s = .next t ∧ MovedOn 1 s t ∧ t.teams = s.teams ∧
      (∀ d < 4, (getDie t d).buf = (getDie s d).buf.filter (fun c => c.ctx != (curWave s).ctx)) ∧
      ∀ a, a % 4 = 0 → ∀ j < 4, byteAt t (a + j) = BitVec.ofNat 8 ((heldSum s (curWave s).ctx a).toNat / 256 ^ j)) ∧
  (∀ (o : MA) (s : State) (pa tp : Lane → Nat), Fits (.stc o) s → Issues s → (curWave s).log = [] → ReleaseFree o.ord o.scope.toNat s →
    let ls := accessesOf .stc o s
    let covers (l : Lane) (a : Nat) : Prop := pa l ≤ a ∧ a < pa l + accSize o
    (∀ l ∈ ls, InWindow s (effAddr o (curWave s) l) (accSize o) (pa l) ∧ HomeQuiet s ((curWave s).cluster / 64) (pa l) ∧ InWindow s (wGet (curWave s) (o.h.a.toNat + 1)) 8 (tp l)) →
    ∃ t, exec (.stc o) s = .next t ∧ AfterAccess s t (fun _ => []) ∧
      (∀ a, ((∀ l ∈ ls, ¬ covers l a) → byteAt t a = byteAt s a) ∧
        ∀ l ∈ ls, covers l a → (∀ k ∈ ls, covers k a → dataByte o (curWave s) k (a - pa k) = dataByte o (curWave s) l (a - pa l)) →
          byteAt t a = dataByte o (curWave s) l (a - pa l)) ∧
      (t.agenda.filter (decrementOf (curWave s).ctx)).Perm (s.agenda.filter (decrementOf (curWave s).ctx) ++ ls.map (fun l => ((curWave s).cluster,
        Instr.tcbDecrement (curWave s).ctx ((curWave s).cluster / 64) (wGet (curWave s) (o.h.a.toNat + 1)) (.stc (laneBits (curWave s) l.id + (curPc s).toNat))))))

/-- LDV (R82, R213) in every form, for any number of lanes, in the heap window at quiet lines of the issuing die: from a current shadow its view; without
one, or through a refetch of a stale one (R80), the view of the word at home. -/
def Obligations.ViewLoad : Prop :=
  ∀ (o : MA) (s : State) (pa : Lane → Nat), Fits (.ldv o) s → Issues s → (curWave s).log = [] →
    let f : BitVec 3 := o.opx.setWidth 3
    let shadow (l : Lane) : Option Shadow := shadowOf s (curWave s).cluster (curWave s).ctx (pa l / 512) f
    (∀ l ∈ selected s o.h.g o.h.n, InWindow s (effAddr o (curWave s) l) 4 (pa l) ∧ HomeQuiet s ((curWave s).cluster / 64) (pa l) ∧
      ∀ x, shadow l = some x → pa l % 512 / 4 ∉ x.pending) →
    let fresh (l : Lane) : Nat := viewOf f (leNat ((span 0 4).map (fun k => byteAt s (pa l + k))))
    let view (l : Lane) : Nat := match shadow l with | some x => if x.stale then fresh l else x.views.getD (pa l % 512 / 4) 0 | none => fresh l
    ∃ t, exec (.ldv o) s = .next t ∧ t.mem = s.mem ∧ t.peer = s.peer ∧ t.teams = s.teams ∧ t.waves =
      (if o.h.x then waveResult o.h.g o.h.n 2 o.h.d.toNat (fun l => BitVec.ofNat 64 (widenView f (view l))) (fun _ => 0) s
        else laneResult o.h.g o.h.n 2 (fun l => [(o.h.d.toNat, BitVec.ofNat 32 (widenView f (view l)))]) (fun _ => 0) s).waves

/-- GATHER.split (R146): which lanes have their data first is a free value (logs 3 and 29). Each lane's part is done or logged with its address; the
division follows the end of the chain. That a lane which the guard excludes goes with those whose data is there is the model's reading (log 87). -/
def Obligations.SplitGather : Prop :=
  ∀ (o : MA) (s : State) (pa : Lane → Nat), Fits (.gather o) s → Issues s → o.opx.getLsbD 1 = true → (curWave s).cart = false →
    (curWave s).log = [] → 2 ≤ (selected s o.h.g o.h.n).length →
    isOnce (.load (o.opx.getLsbD 0)) o false = false →
    (∀ l ∈ selected s o.h.g o.h.n, InWindow s (effAddr o (curWave s) l) (accSize o) (pa l) ∧ HomeQuiet s ((curWave s).cluster / 64) (pa l)) →
    ∃ t, exec (.gather o) s = .next t ∧ t.mem = s.mem ∧ (∀ l ∈ selected s o.h.g o.h.n, ∃ k ∈ (curWave t).lanes, k.id = l.id ∧ k.pc = l.pc + 8 ∧
      (k.v = (loadVs o.h.d.toNat (accSize o) (o.opx.getLsbD 0) (leNat ((span 0 (accSize o)).map (fun j => byteAt s (pa l + j))))).foldl (fun v p => setNth p.2 v p.1) l.v ∨
        (k.v = l.v ∧ ∃ e ∈ (curWave t).log, ∃ x ∈ e.2.lanes, x.lane = l.id ∧ x.addr = effAddr o (curWave s) l ∧ x.wait = .data))) ∧
      let late (l : Lane) : Prop := ∃ e ∈ (curWave t).log, ∃ x ∈ e.2.lanes, x.lane = l.id
      let goes (x : Lane) : Prop := x.st = .ready ∧ x.slot = s.cur.2
      s.cur.2 < 16 → chainStart s = curPc s → ∀ l ∈ active s, ∃ x ∈ (curWave (afterIssue (.gather o) false s t)).lanes, x.id = l.id ∧ x.pc = l.pc + 8 ∧
        ((∀ j ∈ active s, ¬ late j) → goes x) ∧
        ((∃ j ∈ active s, late j) → (∃ j ∈ selected s o.h.g o.h.n, ¬ late j) → match (freeSlots (curWave s)).head? with
          | some k => (late l → x.st = .waiting (.data 0) ∧ x.slot = k) ∧ (¬ late l → goes x)
          | none => x.st = .waiting (.data 0) ∧ x.slot = s.cur.2) ∧
        ((∀ j ∈ selected s o.h.g o.h.n, late j) → x.st = .waiting (.first 0) ∧ x.slot = s.cur.2)

/-- The first two checks of R12 at the level of the instructions, and the checks of local memory (R15, R16, R333), for a subgroup of one lane: the trap
entry is given whole. That ALIGN comes before the limits of local memory is the model's reading (log 17). Local PROT is taken for a rank of 12 to 14,
one at or above the gang's count, one of no member, any rank but 15 outside a gang, and a byte at or beyond the allocation. -/
def Obligations.AddressTraps : Prop :=
  (∀ (i : Instr) (o : MA) (s : State) (l : Lane), (i = .ld o ∨ i = .st o ∨ i = .atom o ∨ (i = .gather o ∧ o.opx.getLsbD 1 = false)) →
    Fits i s → Issues s → Handles s → active s = [l] → selected s o.h.g o.h.n = [l] → o.h.x = false → o.p64 = true → (curWave s).log = [] →
    ReleaseFree o.ord o.scope.toNat s →
    let a := effAddr o (curWave s) l
    let ok := canonical a && canonical (a + BitVec.ofNat 64 (accSize o - 1))
    (a.toNat % accSize o ≠ 0 → exec i s = .next (issueUpd id (enter s 6 a (curPc s) s.cur.2) s)) ∧
    (a.toNat % accSize o = 0 → ok = false → exec i s = .next (issueUpd id (enter s 7 a (curPc s) s.cur.2) s))) ∧
  ∀ (i : Instr) (o : MA) (s : State) (l : Lane), (i = .ldlm o ∨ i = .stlm o) → Fits i s → Issues s → Handles s →
    active s = [l] → selected s o.h.g o.h.n = [l] → o.h.x = false → o.ka = false → (curWave s).log = [] → ReleaseFree o.ord o.scope.toNat s →
    let a := localAddr o (curWave s) l
    (a.toNat % accSize o ≠ 0 → exec i s = .next (issueUpd id (enter s 6 a (curPc s) s.cur.2) s)) ∧
    (a.toNat % accSize o = 0 → LocalProt s (teamOf s (curWave s)) a.toNat (accSize o) →
      exec i s = .next (issueUpd id (enter s 9 a (curPc s) s.cur.2) s)) ∧
    (a.toNat % accSize o = 0 → (LocalProt s (teamOf s (curWave s)) a.toNat (accSize o) ↔
      localTarget s (teamOf s (curWave s)) a.toNat (accSize o) = none))

/-- PREFETCH (R216) and FENCE of every kind (R99, R222), each with its next PC; a fence waits at itself for what acquireReady and releaseReady name. -/
def Obligations.PrefetchAndFences : Prop :=
  (∀ (o : MA) (s : State) (pa : Lane → Nat), Fits (.prefetch o) s → (∀ d < 4, HomeIdle s d) → (∀ l ∈ selected s o.h.g o.h.n, InWindow s (effAddr o (curWave s) l) 1 (pa l)) →
    ∃ t, exec (.prefetch o) s = .next t ∧ t.waves = (issueUpd id (moved 2) s).waves ∧ t.mem = s.mem ∧ t.peer = s.peer ∧ t.teams = s.teams) ∧
  (∀ (o : SY) (s : State), (o.ord ≠ .acq → Released o.scope.toNat s) → (o.ord ≠ .rel → acquireReady s = true) →
    exec (.fence o) s = .next (issueUpd id (moved 1) s)) ∧
  (∀ (o : SY) (s : State), (o.ord ≠ .acq ∧ releaseReady o.scope.toNat s = false) ∨ (o.ord ≠ .rel ∧ acquireReady s = false) →
    ∃ t, exec (.fence o) s = .next t ∧ t.waves = (issueUpd id (fun l => { l with st := .waiting .retry }) s).waves ∧ t.mem = s.mem)

/-- The five barrier instructions (R224, R225) on a word that the address names: the new word, the phase turn, and that nothing else changes; CBARRIVE
where its release has nothing to wait for; and the CBERR traps with their whole entry, where the context names a handler and no lane is in a converged
one. That bits [31:30] keep their value when the phase turns is the model's choice (log 30), and that bits [63:32] of the address register are dropped
too (log 65). Which lanes join the handler, and its slot, are log 22. -/
def Obligations.CompletionBarriers : Prop :=
  ∀ (o : SY) (s : State) (team off : Nat) (x : W64), Issues s → acqHolds (curWave s) (active s) = false →
    BarrierAt (wGet (curWave s) o.a.toNat) s team off x →
    let b := wGet (curWave s) o.b.toNat
    let did (i : Instr) (y : W64) : Prop := ∃ t, exec i s = .next t ∧ StoredLocal s t team off 8 y.toNat ∧ MovedOn 1 s t ∧ t.mem = s.mem ∧ t.peer = s.peer
    (b.toNat < 2 ^ 30 → did (.cbinit o) (b <<< 32)) ∧
    (b.toNat < 2 ^ 30 → expCount x + b.toNat < 2 ^ 30 → did (.cbexpect o) (phaseCheck (x + b <<< 32))) ∧
    (b.toNat < 2 ^ 30 → arrCount x + b.toNat < 2 ^ 30 → Released o.scope.toNat s → did (.cbarrive o) (phaseCheck (x + b))) ∧
    (Handles s → (∀ l ∈ (curWave s).lanes, alive l = true → tcCONV l.tcause = false) →
      let traps (i : Instr) : Prop := ∃ t, exec i s = .next t ∧ FellBack s 15 (wGet (curWave s) o.a.toNat) t ∧ t.teams = s.teams ∧ t.mem = s.mem ∧ t.peer = s.peer
      (2 ^ 30 ≤ b.toNat → traps (.cbinit o)) ∧ (2 ^ 30 ≤ b.toNat ∨ 2 ^ 30 ≤ expCount x + b.toNat → traps (.cbexpect o)) ∧
      (2 ^ 30 ≤ b.toNat ∨ 2 ^ 30 ≤ arrCount x + b.toNat → Released o.scope.toNat s → traps (.cbarrive o))) ∧
    exec (.cbwait o) s = .next (if x.msb ≠ o.x then issueUpd id (moved 1) s else issueUpd id (fun l => { l with st := .waiting .retry }) s) ∧
    exec (.cbtest o) s = .next (issueUpd (fun w => { w with w := setNth (if x.msb ≠ o.x then 1 else 0) w.w o.d.toNat }) (moved 1) s)

/-- WAITA (R223) on its first read, and its end by WAITA_WAKE for a wave that sleeps on a word of local memory; WAITA_PEER_POLL where the value is the
expected one; YIELD_TIMEOUT (R206). No byte of memory changes. -/
def Obligations.WaitOnAddress : Prop :=
  (∀ (o : SY) (s : State) (pa team off v : Nat), Issues s → Performed s →
    let n := if o.x then 8 else 4
    let a := wGet (curWave s) o.a.toNat
    let b := wGet (curWave s) o.b.toNat
    let far : Prop := bit b 32 = false ∧ InWindow s a n pa ∧ HomeQuiet s ((curWave s).cluster / 64) pa ∧ v = leNat ((span 0 n).map (fun k => byteAt s (pa + k)))
    let near : Prop := bit b 32 = true ∧ a.toNat % n = 0 ∧ localTarget s (teamOf s (curWave s)) (a.toNat % 2 ^ 32) n = some (team, off) ∧
      v = leNat ((span 0 n).map (fun k => localByte s team (off + k)))
    far ∨ near → ∃ t, exec (.waita o) s = .next t ∧ t.mem = s.mem ∧ t.peer = s.peer ∧ t.teams = s.teams ∧
      if v ≠ (wGet (curWave s) o.d.toNat).toNat % 256 ^ n
      then t.waves = (issueUpd (fun w => { w with w := setNth (BitVec.ofNat 64 v) w.w o.d.toNat }) (moved 1) s).waves
      else ∃ z : WaitA, z.d = o.d.toNat ∧ z.size = n ∧ z.since = s.clock ∧ z.timeout = b.toNat % 2 ^ 32 ∧ z.woken = false ∧
        t.waves = (issueUpd id (fun l => { l with st := .waiting (.waita z) }) s).waves) ∧
  (∀ (s : State) (w : Wave) (z : WaitA) (team k : Nat), w ∈ s.waves → (s.waves.map (·.id)).Nodup → s.site = w.id → w.halted = false → w.lanes ≠ [] → k < 16 →
    (∀ l ∈ w.lanes, l.st = .waiting (.waita z) ∧ l.slot = k) → z.place = team + 2 → (z.woken = true ∨ (z.timeout ≠ 0 ∧ z.since + z.timeout ≤ s.clock)) →
    exec .waitaWake s = .next { s with waves := s.waves.map (fun y => if y.id = w.id then { y with
      w := setNth (BitVec.ofNat 64 (leNat ((span 0 z.size).map (fun j => localByte s team (z.addr + j))))) y.w z.d
      lanes := y.lanes.map (fun l => { l with st := .ready, pc := l.pc + 4 }) } else y) }) ∧
  (∀ (s : State) (w : Wave), w ∈ s.waves → (s.waves.map (·.id)).Nodup → s.site = w.id →
    (∀ l ∈ w.lanes, ∀ z, l.st = .waiting (.waita z) → z.place = 1 →
      leNat ((span 0 z.size).map (fun j => cellGet s.peer (z.addr + j))) = (wGet w z.d).toNat % 256 ^ z.size) →
    exec .waitaPeerPoll s = .next s) ∧
  ∀ (s : State), exec .yieldTimeout s = .next { s with waves := s.waves.map (fun w => if w.id = s.site then { w with lanes := w.lanes.map (fun l =>
    match l.st with | .waiting (.yield _ _) => { l with st := .ready } | _ => l) } else w) }

/-- BAR, and GBAR in and outside a gang (R226). `both` names the teams whose members take part: the team, or for GBAR in a gang every team of it. -/
def Obligations.TeamBarriers : Prop :=
  ∀ (gang : Bool) (o : SY) (s : State) (tm : Team), Gathered (mGet (curWave s) o.a.toNat) s → Released o.scope.toNat s → getTeam s (curWave s).team = some tm →
    (s.teams.map (·.id)).Nodup →
    let i : Instr := if gang then .gbar o else .bar o
    let g := gang && tm.gang.isSome
    let both : List Team := if g then s.teams.filter (fun x => x.gang == tm.gang) else [tm]
    let arrivals (x : Team) : List Nat := if g then x.gbar else x.bar
    ((curWave s).member = none → exec i s = .next (issueUpd id (moved 1) s)) ∧
    ∀ m, (curWave s).member = some m → m ∉ arrivals tm →
      ((∃ x ∈ both, ∃ k ∈ taking s x.id, k ∉ arrivals x ∧ (x.id = tm.id → k ≠ m)) →
        ∃ t, exec i s = .next t ∧ t.waves = (issueUpd id (fun l => { moved 1 l with st := .waiting (.bar g) }) s).waves ∧
          ∀ x ∈ s.teams, getTeam t x.id = some (if x.id = tm.id then (if g then { x with gbar := m :: x.gbar } else { x with bar := m :: x.bar }) else x)) ∧
      ((∀ x ∈ both, ∀ k ∈ taking s x.id, k ∈ arrivals x ∨ (x.id = tm.id ∧ k = m)) →
        ∃ t, exec i s = .next t ∧
          t.waves = (issueUpd id (moved 1) s).waves.map (fun w => if both.any (fun x => x.id == w.team)
            then { w with lanes := w.lanes.map (fun l => if atBarrier g l then { l with st := .ready } else l) } else w) ∧
          ∀ x ∈ both, ∃ y, getTeam t x.id = some y ∧ (if g then y.gbar = [] else y.bar = []))

/-- The answers that the cluster gives by itself and the requests it sends (R72 to R74, R76, R81, R227), for a context's region in this package's memory;
status words as R73 lays them out. -/
def Obligations.Subscriptions : Prop :=
  ∀ (h : RG) (p : SubP) (s : State) (pa : Nat), SubIssue h s pa →
    let c := (curWave s).cluster
    let k := (curWave s).ctx
    let r := pa / 512
    let held := shadowAt s c k r
    (∀ x, held = some x → x.count < 65535 → SubAnswered (.subscribe h p) h s r 1 (some { x with count := x.count + 1 })) ∧
    (∀ x, held = some x → 65535 ≤ x.count → SubAnswered (.subscribe h p) h s r 2 (some x)) ∧
    (held = none → freeBlocks s c < blocksOf p.fmt → SubAnswered (.subscribe h p) h s r 2 none) ∧
    (held = none → blocksOf p.fmt ≤ freeBlocks s c → releaseReady 1 s = true → SubAsked (.subscribe h p) h s (.subscribe c k r p.fmt p.mode)) ∧
    (held = none → SubAnswered (.unsub h p) h s r 5 none ∧ SubAnswered (.subup h p) h s r 5 none) ∧
    (∀ x, held = some x → 1 < x.count → SubAnswered (.unsub h p) h s r 0 (some { x with count := x.count - 1 })) ∧
    (∀ x, held = some x → x.count ≤ 1 → releaseReady 1 s = true → SubAsked (.unsub h p) h s (.unsub c k r)) ∧
    (∀ x, held = some x → p.fmt = x.fmt → SubAnswered (.subup h p) h s r 0 (some x)) ∧
    (∀ x, held = some x → p.fmt.toNat < x.fmt.toNat → freeBlocks s c < blocksOf p.fmt → SubAnswered (.subup h p) h s r 2 (some x)) ∧
    (∀ x, held = some x → p.fmt ≠ x.fmt → blocksOf p.fmt ≤ freeBlocks s c → releaseReady 1 s = true → SubAsked (.subup h p) h s (.subup c k r p.fmt))

/-- HOME_SUBSCRIPTION_REQUEST, REMOTE_TAG_INSTALL, HOLD, DATA and INVAL (R59, R74, R76, R79 to R81, R387). No byte of package memory changes. -/
def Obligations.SubscriptionMessages : Prop :=
  (∀ (s : State) (c k r : Nat) (f : BitVec 3) (inv : Bool) (e : SubEntry), getSub s r = some e → e.classes.any (fun x => x.fmt == f) = true →
    (getDie s (homeDie (r * 512))).held = [] → blocksOf f ≤ freeBlocks s c → (∀ w ∈ s.waves, ∀ l ∈ w.lanes, tcCONV l.tcause = false) →
    let x : Shadow := { ctx := k, region := r, fmt := f, inv, count := 1, stale := false, pending := []
                        views := (span 0 128).map (fun i => viewOf f (leNat ((span 0 4).map (fun j => byteAt s (r * 512 + 4 * i + j))))) }
    (∃ t, exec (.homeSubscriptionRequest (.subscribe c k r f inv)) s = .next t ∧ t.waves = s.waves.map (statusGiven s.site (statusOf 0 (some x))) ∧
      shadowAt t c k r = some x ∧ t.mem = s.mem) ∧
    ∀ h, shadowAt s c k r = some h → h.fmt ≠ f →
      ∃ t, exec (.homeSubscriptionRequest (.subup c k r f)) s = .next t ∧ t.mem = s.mem ∧
        t.waves = s.waves.map (statusGiven s.site (statusOf 0 (some { x with inv := h.inv }))) ∧ shadowAt t c k r = some { x with inv := h.inv, count := h.count }) ∧
  (∀ (s : State) (c k r : Nat), (∀ w ∈ s.waves, ∀ l ∈ w.lanes, tcCONV l.tcause = false) →
    ∃ t, exec (.homeSubscriptionRequest (.unsub c k r)) s = .next t ∧ t.waves = s.waves.map (statusGiven s.site 0) ∧ t.mem = s.mem ∧
      ∀ c' k' r', shadowAt t c' k' r' = if c' = c ∧ k' = k ∧ r' = r then none else shadowAt s c' k' r') ∧
  (∀ (s : State) (d r : Nat) (install : Bool), ∃ t, exec (.remoteTagInstall d r install) s = .next t ∧
    ∀ d' r', r' ∈ (getDie t d').rtags ↔ if d' = d ∧ r' = r then install = true else r' ∈ (getDie s d').rtags) ∧
  (∀ (s : State) (c r : Nat) (f : BitVec 3) (words : List Nat), ∃ t, exec (.hold c r f words) s = .next t ∧ t.mem = s.mem ∧
    ∀ k h, shadowAt s c k r = some h → ∃ h', shadowAt t c k r = some h' ∧ h'.views = h.views ∧
      (if h.fmt ≠ f then h' = h else if h.inv then h' = { h with stale := true } else h'.stale = h.stale ∧ ∀ i, i ∈ h'.pending ↔ i ∈ h.pending ∨ i ∈ words)) ∧
  (∀ (s : State) (c r i : Nat) (f : BitVec 3) (x : W32), ∃ t, exec (.dataMsg c r f [(i, x)]) s = .next t ∧ t.mem = s.mem ∧
    ∀ k h, shadowAt s c k r = some h → h.fmt = f → h.inv = false →
      shadowAt t c k r = some { h with views := setNth x.toNat h.views i, pending := h.pending.filter (· != i) }) ∧
  ∀ (s : State) (c r : Nat) (f : BitVec 3), ∃ t, exec (.inval c r f) s = .next t ∧ t.mem = s.mem ∧
    ∀ k h, shadowAt s c k r = some h → shadowAt t c k r = some (if h.fmt = f then { h with stale := true } else h)

/-- CPY, CPYQ, PUB and COLL at their acceptance (R84 to R86, R109, R229 to R233). Descriptors and tables lie in the heap window at quiet lines. That the
high half of a w register with a local end or a barrier is dropped is the model's choice (log 65). -/
def Obligations.EngineAcceptance : Prop :=
  (∀ (h : RG) (p : CpyP) (s : State), EngReady h (wGet (curWave s) p.cb.toNat) p.rel p.scope.toNat s → (getCluster s (curWave s).cluster).copyQ.length < 32 →
    let d := wGet (curWave s) h.d.toNat
    let a := wGet (curWave s) h.a.toNat
    let n := (wGet (curWave s) h.b.toNat).toNat % 2 ^ 32
    let inside (x : W64) : Prop := n = 0 ∨ (localTarget s (teamOf s (curWave s)) (x.toNat % 2 ^ 32) n).isSome = true
    (p.sl = true → inside a) → (p.dl = true → inside d) →
    Accepted (.cpy h p) h s (·.copyQ) .copyEngineDone [d, a, BitVec.ofNat 64 n, wGet (curWave s) p.cb.toNat]) ∧
  (∀ (h : RG) (p : CpyqP) (s : State), EngReady h (wGet (curWave s) p.cb.toNat) p.rel p.scope.toNat s → (getCluster s (curWave s).cluster).copyQ.length < 32 →
    let d := wGet (curWave s) h.d.toNat
    let b := wGet (curWave s) h.b.toNat
    let ngrp := (b.extractLsb' 0 11).toNat
    1 ≤ ngrp → ngrp ≤ 1024 → (b.extractLsb' 16 10).toNat + ngrp ≤ 1024 →
    (localTarget s (teamOf s (curWave s)) (d.toNat % 2 ^ 32) (ngrp * (32 * 2 ^ p.gs.toNat) * (if p.w4 then 4 else 8) / 8)).isSome = true →
    Accepted (.cpyq h p) h s (·.copyQ) .copyEngineDone [d, wGet (curWave s) h.a.toNat, b, wGet (curWave s) p.cb.toNat, wGet (curWave s) p.s.toNat]) ∧
  (∀ (h : RG) (p : EngP) (s : State) (d : BitVec 512) (e : Nat → BitVec 256) (pa : Nat) (pe : Nat → Nat),
    let a := wGet (curWave s) h.a.toNat
    let n := (d.extractLsb' 280 8).toNat
    EngReady h (wGet (curWave s) p.cb.toNat) p.rel p.scope.toNat s → a.toNat % 64 = 0 → Holds s a 64 pa d.toNat →
    d.extractLsb' 0 276 = 0 → (d.extractLsb' 448 64).toNat % 512 = 0 → (d.extractLsb' 384 64).toNat % 64 = 0 → (d.extractLsb' 320 64).toNat % 32 = 0 →
    1 ≤ (d.extractLsb' 288 32).toNat → (d.extractLsb' 288 32).toNat ≤ 65536 → 1 ≤ n → n ≤ 64 → 2 ≤ (d.extractLsb' 277 3).toNat →
    (∀ j < n, Holds s (d.extractLsb' 320 64 + BitVec.ofNat 64 (32 * j)) 32 (pe j) (e j).toNat ∧ (e j).extractLsb' 254 2 = 0 ∧ (e j).extractLsb' 190 2 = 0 ∧
      (e j).extractLsb' 3 125 = 0 ∧ ((e j).extractLsb' 0 3).toNat ≤ 4 ∧ ((e j).extractLsb' 192 62).toNat % 64 = 0 ∧ ((e j).extractLsb' 128 62).toNat % 8 = 0) →
    Accepted (.pub h p) h s (·.pubQ) .publishDone ([a, wGet (curWave s) p.cb.toNat, d.extractLsb' 448 64, d.extractLsb' 384 64, (d.extractLsb' 288 32).setWidth 64,
      (d.extractLsb' 277 3).setWidth 64, (d.extractLsb' 276 1).setWidth 64] ++
      (span 0 n).flatMap (fun j => [((e j).extractLsb' 192 62).setWidth 64, ((e j).extractLsb' 128 62).setWidth 64, ((e j).extractLsb' 0 3).setWidth 64]))) ∧
  ∀ (h : RG) (p : EngP) (s : State) (d : BitVec 512) (e : Nat → W64) (pa : Nat) (pe : Nat → Nat),
    let a := wGet (curWave s) h.a.toNat
    let ns := (d.extractLsb' 408 8).toNat
    let nd := (d.extractLsb' 400 8).toNat
    let ty := (d.extractLsb' 396 2).toNat
    EngReady h (wGet (curWave s) p.cb.toNat) p.rel p.scope.toNat s → a.toNat % 64 = 0 → Holds s a 64 pa d.toNat →
    d.extractLsb' 0 396 = 0 → (d.extractLsb' 448 64).toNat % 8 = 0 → d.extractLsb' 416 32 ≠ 0 → 1 ≤ ns → ns ≤ 64 → 1 ≤ nd → nd ≤ 64 →
    d.extractLsb' 398 2 ≠ 3 → ty ≠ 3 →
    (∀ j < ns + nd, Holds s (d.extractLsb' 448 64 + BitVec.ofNat 64 (8 * j)) 8 (pe j) (e j).toNat ∧ (e j).extractLsb' 62 2 = 0 ∧
      (e j).toNat % (if ty = 1 then 2 else 4) = 0) →
    Accepted (.coll h p) h s (·.collQ) .collectiveDone ([a, wGet (curWave s) p.cb.toNat, (d.extractLsb' 416 32).setWidth 64, BitVec.ofNat 64 ns,
      (d.extractLsb' 398 2).setWidth 64, BitVec.ofNat 64 ty] ++ (span 0 (ns + nd)).map e)

/-- COPY_ENGINE_DONE, COLLECTIVE_DONE and PUBLISH_DONE (R86, R87, R109, R230 to R233), for the head of a cluster's queue, of any number of sources,
destinations and subscribers whose ranges lie apart in this package. The barrier word after an arrival keeps bits [31:30] (log 30), and its address
drops the high half of its register (log 65): the model's choices. -/
def Obligations.EnginesComplete : Prop :=
  (∀ (s : State), ((getCluster s s.site).copyQ = [] → exec .copyEngineDone s = .next s) ∧ ((getCluster s s.site).pubQ = [] → exec .publishDone s = .next s) ∧
    ((getCluster s s.site).collQ = [] → exec .collectiveDone s = .next s)) ∧
  (∀ (s : State) (c : EngCmd) (rest : List EngCmd) (h : RG) (p : CpyP) (d a cb : W64) (n team off : Nat) (x : W64) (fs fd : Nat → Place),
    (getCluster s s.site).copyQ = c :: rest → c.cluster = s.site → c.ins = .cpy h p → c.ops = [d, a, BitVec.ofNat 64 n, cb] → n < 2 ^ 32 →
    EndAt s c p.sl a n fs → EndAt s c p.dl d n fd → ArrivesAt s c cb n team off x →
    (∀ j < n, ∀ k < n, fd j ≠ fs k ∧ (j ≠ k → fd j ≠ fd k)) → (∀ k < n, ¬ wordPlace team off (fs k) ∧ ¬ wordPlace team off (fd k)) →
    ∃ t, exec .copyEngineDone s = .next t ∧ (getCluster t s.site).copyQ = rest ∧ (∀ k < n, 4096 * c.progress ≤ k → placeByte t (fd k) = placeByte s (fs k)) ∧
      localWord t team off (phaseCheck (x + BitVec.ofNat 64 n)) ∧
      ∀ q, (∀ k < n, 4096 * c.progress ≤ k → q ≠ fd k) → ¬ wordPlace team off q → placeByte t q = placeByte s q) ∧
  (∀ (s : State) (c : EngCmd) (rest : List EngCmd) (h : RG) (p : CpyqP) (d a b cb sc : W64) (team off : Nat) (x : W64) (fs fd : Nat → Place) (fq : Nat → Nat),
    let ngrp := (b.extractLsb' 0 11).toNat
    let sb := (b.extractLsb' 16 10).toNat
    let n := ngrp * (32 * 2 ^ p.gs.toNat) * (if p.w4 then 4 else 8) / 8
    (getCluster s s.site).copyQ = c :: rest → c.cluster = s.site → c.ins = .cpyq h p → c.ops = [d, a, b, cb, sc] → 1 ≤ ngrp → sb + ngrp ≤ 1024 →
    EndAt s c true d n fd → EndAt s c false a n fs → (∀ k < 4 * ngrp, EngByte s c (sc + BitVec.ofNat 64 k) (fq k)) → ArrivesAt s c cb (n + 4 * ngrp) team off x →
    (∀ k < n, ¬ wordPlace team off (fd k)) → (getTensor s s.site).team = some c.team →
    ∃ t, exec .copyEngineDone s = .next t ∧ (getCluster t s.site).copyQ = rest ∧ t.mem = s.mem ∧ (∀ k < n, 4096 * c.progress ≤ k → placeByte t (fd k) = placeByte s (fs k)) ∧
      localWord t team off (phaseCheck (x + BitVec.ofNat 64 (n + 4 * ngrp))) ∧
      (∀ q, (∀ k < n, 4096 * c.progress ≤ k → q ≠ fd k) → ¬ wordPlace team off q → placeByte t q = placeByte s q) ∧
      ∀ e : Nat, aget 0 (getTensor t s.site).arr.scale e = if sb ≤ e ∧ e < sb + ngrp
        then BitVec.ofNat 32 (leNat ((span 0 3).map (fun j => byteAt s (fq (4 * (e - sb) + j)))) + p.seq.toNat * 2 ^ 24) else aget 0 (getTensor s s.site).arr.scale e) ∧
  (∀ (s : State) (c : EngCmd) (rest : List EngCmd) (h : RG) (p : EngP) (a cb : W64) (n op ty team off : Nat) (x : W64) (srcs dsts : List Nat) (ps pd : Nat → Nat),
    let b := if ty = 1 then 2 else 4
    (getCluster s s.site).collQ = c :: rest → c.cluster = s.site → c.ins = .coll h p →
    c.ops = [a, cb, BitVec.ofNat 64 n, BitVec.ofNat 64 srcs.length, BitVec.ofNat 64 op, BitVec.ofNat 64 ty] ++ (srcs ++ dsts).map (BitVec.ofNat 64) →
    n < 2 ^ 32 → op < 3 → ty < 3 → srcs ≠ [] → srcs.length ≤ 64 → dsts ≠ [] → dsts.length ≤ 64 → (∀ y ∈ srcs ++ dsts, y < 2 ^ 62 ∧ y % b = 0) →
    (∀ i < srcs.length, OwnFabric s c (nth 0 srcs i) (b * n) (ps i)) → (∀ i < dsts.length, OwnFabric s c (nth 0 dsts i) (b * n) (pd i)) →
    ArrivesAt s c cb (b * n * dsts.length) team off x → (∀ i < srcs.length, ∀ j < dsts.length, ps i + b * n ≤ pd j ∨ pd j + b * n ≤ ps i) →
    (∀ i < dsts.length, ∀ j < dsts.length, i ≠ j → pd i + b * n ≤ pd j ∨ pd j + b * n ≤ pd i) →
    let held (k i : Nat) : W32 := collHeld ty (leNat ((span (ps i + b * k) b).map (byteAt s)))
    let result (k : Nat) : Nat := collWritten ty ((span 1 (srcs.length - 1)).foldl (fun y i => collStep op ty y (held k i)) (held k 0))
    ∃ t, exec .collectiveDone s = .next t ∧ (getCluster t s.site).collQ = rest ∧
      (∀ i < dsts.length, ∀ k < n, c.progress ≤ k → ∀ j < b, byteAt t (pd i + b * k + j) = BitVec.ofNat 8 (result k / 256 ^ j)) ∧
      (∀ q, (∀ i < dsts.length, ¬ (pd i + b * c.progress ≤ q ∧ q < pd i + b * n)) → byteAt t q = byteAt s q) ∧
      localWord t team off (phaseCheck (x + BitVec.ofNat 64 (b * n * dsts.length))) ∧
      ∀ team' off', ¬ wordPlace team off (.lm team' off') → localByte t team' off' = localByte s team' off') ∧
  ∀ (s : State) (c : EngCmd) (rest : List EngCmd) (h : RG) (p : EngP) (a cb src last sc full : W64) (nreg team off pf : Nat) (x : W64) (subs : List (Nat × Nat × Nat))
      (fs pd pv part : Nat → Nat) (fl : Nat → Nat → Nat),
    let n := 128 * nreg
    let user (i : Nat) : Nat × Nat × Nat := nth (0, 0, 0) subs i
    let size (i : Nat) : Nat := pubBytes (user i).2.2 * n
    (getCluster s s.site).pubQ = c :: rest → c.cluster = s.site → c.ins = .pub h p →
    (∀ y ∈ s.clusters, y.1 / 64 = s.site / 64 → ∀ e ∈ y.2.pubQ, nth 0 e.ops 0 = a → e.ctx = c.ctx → c.seq ≤ e.seq) →
    c.ops = [a, cb, src, last, BitVec.ofNat 64 nreg, sc, full] ++ subs.flatMap (fun u => [BitVec.ofNat 64 u.1, BitVec.ofNat 64 u.2.1, BitVec.ofNat 64 u.2.2]) →
    1 ≤ nreg → nreg ≤ 65536 → subs ≠ [] → subs.length ≤ 64 → (∀ u ∈ subs, u.2.2 < 5 ∧ u.1 < 2 ^ 62 ∧ u.1 % 64 = 0 ∧ u.2.1 < 2 ^ 62 ∧ u.2.1 % 8 = 0) →
    (∀ k < 4 * n, EngByte s c (src + BitVec.ofNat 64 k) (fs k) ∧ part (fs k) = 0) →
    (∀ u ∈ subs, ∀ k < pubBytes u.2.2 * n, EngByte s c (last + BitVec.ofNat 64 (pubOffset subs n u.2.2 + k)) (fl u.2.2 k) ∧ part (fl u.2.2 k) = 1) →
    (∀ i < subs.length, OwnFabric s c (user i).1 (size i) (pd i) ∧ (∀ k < size i, part (pd i + k) = 3 + 2 * i) ∧
      OwnFabric s c (user i).2.1 8 (pv i) ∧ ∀ k < 8, part (pv i + k) = 4 + 2 * i) →
    EngByte s c (a + 34) pf → part pf = 2 → ArrivesAt s c cb (8 * subs.length) team off x → src.toNat % 512 = 0 → last.toNat % 64 = 0 →
    let imageByte (f k : Nat) : Byte :=
      BitVec.ofNat 8 (viewOf (BitVec.ofNat 3 f) (leNat ((span 0 4).map (fun j => byteAt s (fs (4 * (k / pubBytes f) + j))))) / 256 ^ (k % pubBytes f))
    let sent (f chunk : Nat) : Prop := full = 1 ∨ ∃ k < 64, byteAt s (fl f (64 * chunk + k)) ≠ imageByte f (64 * chunk + k)
    ∃ t, exec .publishDone s = .next t ∧ (getCluster t s.site).pubQ = rest ∧
      (∀ i < subs.length, ∀ k < size i, (sent (user i).2.2 (k / 64) → byteAt t (pd i + k) = imageByte (user i).2.2 k) ∧
        (¬ sent (user i).2.2 (k / 64) → byteAt t (pd i + k) = byteAt s (pd i + k))) ∧
      (∀ u ∈ subs, ∀ k < pubBytes u.2.2 * n, byteAt t (fl u.2.2 k) = imageByte u.2.2 k) ∧
      (∀ i < subs.length, leNat ((span (pv i) 8).map (byteAt t)) = (leNat ((span (pv i) 8).map (byteAt s)) + 1) % 2 ^ 64) ∧
      byteAt t pf = byteAt s pf &&& 0xEF ∧ localWord t team off (phaseCheck (x + BitVec.ofNat 64 (8 * subs.length))) ∧
      ∀ q, (∀ i < subs.length, (∀ k < size i, q ≠ pd i + k) ∧ ∀ k < 8, q ≠ pv i + k) → (∀ u ∈ subs, ∀ k < pubBytes u.2.2 * n, q ≠ fl u.2.2 k) → q ≠ pf →
        byteAt t q = byteAt s q

/-- CFLUSH, CINV and CINV.i (R40, R50, R234), each answering a next state in every state that issues it: what the caches and memory hold afterwards.
`rangePieces` gives the physical pieces of the range; the last clause says what they are in the heap window. -/
def Obligations.CacheMaintenance : Prop :=
  ∀ (h : RG) (s : State), let va := wGet (curWave s) h.a.toNat
    let n := (wGet (curWave s) h.b.toNat).toNat
    let ps := rangePieces (issuer s) (n / 65536 + 2) va n s
    let covered (line : Nat) : Prop := inPieces ps line = true
    let asks := (span 0 4).flatMap (fun d => flushAsks ps d s)
    (selected s h.g h.n = [] → ∀ p q, exec (.cflush h p) s = .next (issueUpd id (moved 2) s) ∧ exec (.cinv h p) s = .next (issueUpd id (moved 2) s) ∧
      exec (.cinvI h q) s = .next (issueUpd id (moved 2) s)) ∧
    (selected s h.g h.n ≠ [] →
      (∀ p, asks = [] → (∀ d < 4, (getDie s d).held = []) → ∃ t, exec (.cflush h p) s = .next t ∧ MovedOn 2 s t ∧
        (∀ line, covered line → (∀ d < 4, rdcGet t d line = {}) ∧ ∀ c, aget 0 (getCluster t c).filter line = 0) ∧
        ∀ a, ((∀ d < 4, covered (a / 64) → bit (rdcGet s d (a / 64)).mask (a % 64) = false) → byteAt t a = byteAt s a) ∧
          ∀ d < 4, covered (a / 64) → bit (rdcGet s d (a / 64)).mask (a % 64) = true → (∀ e < 4, e ≠ d → bit (rdcGet s e (a / 64)).mask (a % 64) = false) →
            byteAt t a = nth 0 (rdcGet s d (a / 64)).bytes (a % 64)) ∧
      (∀ p, asks ≠ [] → ∃ t, exec (.cflush h p) s = .next t ∧ t.mem = s.mem ∧
        t.waves = (issueUpd id (fun l => { l with st := .waiting .retry, opPc := some l.pc }) s).waves ∧ ∀ line ∈ asks, (line, Instr.backInvalidationAnswer) ∈ t.agenda) ∧
      (∀ p, ∃ t, exec (.cinv h p) s = .next t ∧ t.waves = (issueUpd id (moved 2) s).waves ∧ t.mem = s.mem ∧
        (∀ line, covered line → aget 0 (getCluster t (curWave s).cluster).filter line = 0 ∧ (rdcGet t ((curWave s).cluster / 64) line).filled = false) ∧
        (∀ d line, (rdcGet t d line).mask = (rdcGet s d line).mask ∧
          ((rdcGet s d line).mask ≠ 0 → (rdcGet t d line).bytes = (rdcGet s d line).bytes)) ∧
        ∀ d line, (d ≠ (curWave s).cluster / 64 ∨ ¬ covered line) → rdcGet t d line = rdcGet s d line) ∧
      ∀ p, ∃ t, exec (.cinvI h p) s = .next t ∧ t.waves = (issueUpd id (moved 2) s).waves ∧ t.mem = s.mem ∧
        ∀ c e, e ∈ (getCluster t c).icache ↔ e ∈ (getCluster s c).icache ∧ (c = (curWave s).cluster → ¬ covered (e.2.1 / 64))) ∧
    ∀ pa, InWindow s va 1 pa → exists_ s pa = true → 1 ≤ n → va.toNat % 65536 + n ≤ 65536 → ∀ line, covered line ↔ pa / 64 ≤ line ∧ line * 64 < pa + n

/-- TLEASE, TREL, LEASE_GRANT, LEASE_EXPIRY and TENSOR_COMMAND_DONE (R236, R239 to R243), where no contraction runs. That an expired lease whose accepted
commands still run ends with them is the model's reading (log 37). -/
def Obligations.TensorLease : Prop :=
  (∀ (o : RG) (s : State), Issues s → selected s o.g o.n ≠ [] → ((curWave s).lease = .none ∨ (curWave s).lease = .lapsed) →
    ∃ t, exec (.tlease o) s = .next t ∧ (curWave t).lease = .requesting ∧ (curWave t).leaseN = o.b.toNat + 1 ∧
      (curWave t).lanes = (curWave s).lanes.map (fun l => if issuing s.cur.2 l then { l with st := .waiting .lease } else l) ∧
      (∃ r ∈ (getTensor t (curWave s).cluster).reqs, r.wave = (curWave s).id ∧ r.team = (curWave s).team ∧ r.kind = .lease) ∧ t.mem = s.mem ∧
      ((getTensor s (curWave s).cluster).holder = none → ((curWave s).cluster, Instr.leaseGrant) ∈ t.agenda)) ∧
  (∀ (s : State) (w : Wave) (tm : Team) (r : ArrReq), let c := s.site
    w ∈ s.waves → (s.waves.map (·.id)).Nodup → w.cluster = c → w.lease = .requesting → w.leaseN ≠ 0 → w.lanes.any alive = true → getTeam s w.team = some tm → tm.retired = false →
    tm.again = none → tm.againRing = none → (getTensor s c).holder = none → seqBusy (getTensor s c) = false → (getTensor s c).reqs = [r] →
    r.wave = w.id → r.team = w.team → r.kind = .lease → (arrOf s c w.team).tcon = none → (arrOf s c w.team).kept = none → (∀ k, (getTensor s c).team = some k → k = w.team) → bit (getDie s (c / 64)).regs.chrbase 0 = false →
    ∃ t, exec .leaseGrant s = .next t ∧ (getTensor t c).holder = some w.id ∧ (getTensor t c).left = w.leaseN ∧ (getTensor t c).since = s.clock ∧
      (getTensor t c).reqs = [] ∧ (getTensor t c).team = some w.team ∧ (getTensor t c).arr = arrOf s c w.team ∧ t.mem = s.mem ∧
      t.waves = s.waves.map (fun y => if y.id = w.id then { y with lease := .holding, lanes := y.lanes.map leaveLease } else y)) ∧
  (∀ (o : RG) (s : State), let c := (curWave s).cluster
    Issues s → selected s o.g o.n ≠ [] → (curWave s).lease = .holding → (getTensor s c).holder = some (curWave s).id → (getTensor s c).running = 0 →
    ∃ t, exec (.trel o) s = .next t ∧ (curWave t).lease = .none ∧ (getTensor t c).holder = none ∧ (getTensor t c).arr = (getTensor s c).arr ∧
      (c, Instr.leaseGrant) ∈ t.agenda ∧ ∀ l ∈ active s, moved 1 l ∈ (curWave t).lanes) ∧
  (∀ (s : State) (k : Nat), let c := s.site
    (getTensor s c).holder = some k →
    (s.clock < (getTensor s c).since + 8192 → exec .leaseExpiry s = .next s) ∧
    ((getTensor s c).since + 8192 ≤ s.clock → (getTensor s c).arr.tcon = none →
      ∃ t, exec .leaseExpiry s = .next t ∧ (getTensor t c).arr = (getTensor s c).arr ∧
        t.waves = s.waves.map (fun w => if w.id = k ∧ w.lease = .holding then { w with lease := .lapsed } else w) ∧
        ((getTensor s c).running = 0 → (getTensor t c).holder = none ∧ (c, Instr.leaseGrant) ∈ t.agenda) ∧
        ((getTensor s c).running ≠ 0 → (getTensor t c).holder = some k ∧ (getTensor t c).ending = true))) ∧
  ∀ (s : State) (w : Wave), let c := s.site
    w ∈ s.waves → (s.waves.map (·.id)).Nodup → w.lease = .holding → (getTensor s c).holder = some w.id → (getTensor s c).arr.kept = none → w.lanes.any alive = true →
    (getTensor s c).ending = false → (getTensor s c).arr.tcon = none →
    ∃ t, exec .tensorCommandDone s = .next t ∧ (getTensor t c).running = (getTensor s c).running - 1 ∧ (getTensor t c).arr = (getTensor s c).arr ∧
      (((getTensor s c).running ≤ 1 ∧ (getTensor s c).left = 0) → (getTensor t c).holder = none ∧ (c, Instr.leaseGrant) ∈ t.agenda ∧
        t.waves = s.waves.map (fun y => if y.id = w.id then { y with lease := .lapsed } else y)) ∧
      ((2 ≤ (getTensor s c).running ∨ 0 < (getTensor s c).left) → (getTensor t c).holder = some w.id ∧ t.waves = s.waves)

/-- TZERO, TRACC, TWACC, TLDB and TRING (R235, R246 to R249, R254) by a holder whose sequencer is idle; a TRING in a gang is stated with RING_TRANSFER. A
local operand is the low 32 bits of its w register: the model's reading (log 17). -/
def Obligations.TensorRegisters : Prop :=
  (∀ (o : RG) (s : State), Holding o.g o.n s →
    ∃ t, exec (.tzero o) s = .next t ∧ t.waves = (issueUpd id (moved 1) s).waves ∧ t.teams = s.teams ∧ Counted s t ∧
      (∀ k i j, i < 128 → j < 128 → accGet (arrayOf t) k i j = if k = o.d.toNat then 0 else accGet (arrayOf s) k i j) ∧
      (arrayOf t).bl0 = (arrayOf s).bl0 ∧ (arrayOf t).bl1 = (arrayOf s).bl1 ∧ (arrayOf t).scale = (arrayOf s).scale ∧ (arrayOf t).ring = (arrayOf s).ring) ∧
  (∀ (o : RG) (s : State), Holding o.g o.n s →
    let sh := wGet (curWave s) o.b.toNat
    let r := 2 ^ shLG sh
    let rows (i : Nat) : Prop := ∃ t < r, i = (shROW sh + t) % 128
    let col (l : Lane) : Nat := if (curWave s).cart then shCOL sh else l.id
    (∀ l ∈ (curWave s).lanes, l.id < 128) → (curWave s).cart = false ∨ (curWave s).lanes.length ≤ 1 →
    (o.d.toNat % r = 0 → o.d.toNat + r ≤ (curWave s).regs →
      ∃ t, exec (.tracc o) s = .next t ∧ t.teams = s.teams ∧ Counted s t ∧
        t.waves = (laneResult o.g o.n 1 (fun l => (span 0 r).map (fun k => (o.d.toNat + k, accGet (arrayOf s) o.a.toNat ((shROW sh + k) % 128) (col l)))) (fun _ => 0) s).waves ∧
        ∀ k i j, i < 128 → j < 128 → (k = o.a.toNat ∧ o.x = true ∧ rows i → accGet (arrayOf t) k i j = 0) ∧
          (¬ (k = o.a.toNat ∧ o.x = true ∧ rows i) → accGet (arrayOf t) k i j = accGet (arrayOf s) k i j)) ∧
    (o.a.toNat % r = 0 → o.a.toNat + r ≤ (curWave s).regs →
      ∃ t, exec (.twacc o) s = .next t ∧ t.waves = (issueUpd id (moved 1) s).waves ∧ t.teams = s.teams ∧ Counted s t ∧
        (∀ l ∈ selected s o.g o.n, ∀ k < r, accGet (arrayOf t) o.d.toNat ((shROW sh + k) % 128) (col l) = vGet l (o.a.toNat + k)) ∧
        ∀ k i j, i < 128 → j < 128 → ¬ (k = o.d.toNat ∧ rows i ∧ ∃ l ∈ selected s o.g o.n, j = col l) → accGet (arrayOf t) k i j = accGet (arrayOf s) k i j)) ∧
  (∀ (h : RG) (p : TldbP) (s : State) (team off : Nat), Holding h.g h.n s → Performed s →
    let sh := wGet (curWave s) h.b.toNat
    let b := if p.ty = 2 ∨ p.ty = 3 then 16 else if p.ty = 5 then 4 else 8
    1 ≤ shNW sh → shNW sh ≤ 128 → p.ty.toNat < 6 → (b = 16 → shSTRIDE sh % 2 = 0 ∧ (wGet (curWave s) h.a.toNat).toNat % 2 = 0) →
    LocalAt s (wGet (curWave s) h.a.toNat) ((shNW sh - 1) * shSTRIDE sh + 16 * b) team off →
    ∃ t, exec (.tldb h p) s = .next t ∧ t.waves = (issueUpd id (moved 2) s).waves ∧ t.teams = s.teams ∧ Counted s t ∧ (arrayOf t).acc = (arrayOf s).acc ∧
      latchOf (arrayOf t) (1 - p.half.toNat) = latchOf (arrayOf s) (1 - p.half.toNat) ∧
      (latchOf (arrayOf t) p.half.toNat).ty = p.ty.toNat ∧ (latchOf (arrayOf t) p.half.toNat).nw = shNW sh ∧
      ∀ j < shNW sh, ∀ k < 16 * b, BitVec.ofNat 8 ((nth 0 (nth [] (latchOf (arrayOf t) p.half.toNat).cols j) (k / 4)).toNat / 256 ^ (k % 4)) =
        localByte s team (off + j * shSTRIDE sh + k)) ∧
  ∀ (o : RG) (s : State) (tm : Team), Holding o.g o.n s → getTeam s (curWave s).team = some tm → tm.gang = none → o.d.toNat < 2 → o.a.toNat = 1 - o.d.toNat →
    ∃ t, exec (.tring o) s = .next t ∧ t.waves = (issueUpd id (moved 1) s).waves ∧ Counted s t ∧ (arrayOf t).acc = (arrayOf s).acc ∧
      latchOf (arrayOf t) o.d.toNat = latchOf (arrayOf s) o.a.toNat ∧ latchOf (arrayOf t) o.a.toNat = latchOf (arrayOf s) o.a.toNat ∧
      (arrayOf t).ring = (arrayOf s).ring + 1

/-- TMMA, TMMQ, TMSP in both sparse forms, and TEPI with a local and with a virtual destination (R129 to R132, R250 to R253, R255). The sum of a chunk is
that of R129 (mulElem). A TMSP that waits for a phase waits where the phase has not turned. The model's choices: local operands are the low 32 bits of
their registers (log 17), the barrier word keeps bits [31:30] (log 30), and its address drops the high half (log 65). -/
def Obligations.TensorMultiply : Prop :=
  (∀ (h : RG) (p : TldbP) (s : State) (team off : Nat), MulFits h p.ty.toNat p.half.toNat 32 false s team off →
    MultiplyDone (.tmma h p) h p.ty.toNat p.half.toNat .dense s team off) ∧
  (∀ (h : RG) (p : TmmqP) (s : State) (team off : Nat), MulFits h p.ty.toNat p.half.toNat 32 true s team off →
    let sh := wGet (curWave s) h.b.toNat
    let g := 32 * 2 ^ p.gs.toNat
    let groups := 32 * shKCH sh / g
    let es := (span 0 (latchOf (arrayOf s) p.half.toNat).nw).flatMap (fun j => (span 0 groups).map (fun k => shSB sh + j * p.ce.toNat + k))
    32 * shKCH sh % g = 0 → (∀ e ∈ es, e < 1024 ∧ ∃ x, (arrayOf s).scale.find? (fun q => q.1 == e) = some (e, x) ∧ x.extractLsb' 24 8 = p.seq) →
    MultiplyDone (.tmmq h p) h p.ty.toNat p.half.toNat (.affine g (es.map (aget 0 (arrayOf s).scale))) s team off) ∧
  (∀ (h : RG) (p : TmspP) (s : State) (team off mt mo ct co : Nat) (x : W64),
    let sh := wGet (curWave s) h.b.toNat
    let m := wGet (curWave s) p.m.toNat
    let nw := (latchOf (arrayOf s) p.half.toNat).nw
    m.toNat % 8 = 0 → (p.cbv = true → BarrierAt (wGet (curWave s) p.c.toNat) s ct co x ∧ x.msb ≠ p.phx) →
    (p.sk = true → MulFits h p.ty.toNat p.half.toNat 32 false s team off → LocalAt s m 8 mt mo →
      MultiplyDone (.tmsp h p) h p.ty.toNat p.half.toNat (.bitmap (localNum s mt mo 8)) s team off) ∧
    (p.sk = false → MulFits h p.ty.toNat p.half.toNat 64 false s team off → LocalAt s m (32 * (nw - 1) + 8 * shKCH sh) mt mo →
      (∀ j < nw, ∀ k < 16 * shKCH sh, let nib := localNum s mt (mo + 32 * j + k / 2) 1 / 2 ^ (4 * (k % 2)) % 16
        nib % 4 ≠ nib / 4) →
      MultiplyDone (.tmsp h p) h p.ty.toNat p.half.toNat (.sparse ((span 0 nw).map (fun j => localNum s mt (mo + 32 * j) (8 * shKCH sh)))) s team off)) ∧
  (∀ (h : RG) (p : TepiP) (s : State) (team off ct co : Nat) (x : W64) (bias : List Nat) (pb : Nat → Nat),
    let w := curWave s
    let sh := wGet w h.b.toNat
    let b := if p.ofmt = 0 then 4 else if p.ofmt.toNat < 3 then 2 else 1
    let n := shM sh * shNW sh * b
    Holding h.g h.n s → Performed s → p.dl = true → p.ofmt.toNat < 5 → 1 ≤ shM sh → shM sh ≤ 128 → 1 ≤ shNW sh → shNW sh ≤ 128 → shROW sh + shM sh ≤ 128 → shCOL sh + shNW sh ≤ 128 →
    shSTRIDE sh % b = 0 → (wGet w h.d.toNat).toNat % b = 0 → (shNW sh * b ≤ shSTRIDE sh ∨ shM sh = 1) →
    LocalAt s (wGet w h.d.toNat) ((shM sh - 1) * shSTRIDE sh + shNW sh * b) team off → getTeam s team ≠ none →
    BarrierAt (wGet w p.c.toNat) s ct co x → arrCount x + n < 2 ^ 30 → (getTeam s w.team).any (fun t => !t.retired) = true →
    (getDie s (w.cluster / 64)).rdc = [] → (ct ≠ team ∨ co + 8 ≤ off ∨ off + (shM sh - 1) * shSTRIDE sh + shNW sh * b ≤ co) →
    (if p.br = 0 then bias = [] else (wGet w p.br.toNat).toNat % 4 = 0 ∧ bias.length = shNW sh ∧
      ∀ j < shNW sh, nth 0 bias j < 2 ^ 32 ∧ Holds s (wGet w p.br.toNat + BitVec.ofNat 64 (4 * j)) 4 (pb j) (nth 0 bias j)) →
    let e : Epi := { k := h.a.toNat, row := shROW sh, col := shCOL sh, m := shM sh, nw := shNW sh, bias, act := p.act.toNat, ofmt := p.ofmt.toNat
                     scale := if p.sr = 0 then none else some ((wGet w p.sr.toNat).toNat % 2 ^ 32), bound := (wGet w p.sr.toNat).toNat / 2 ^ 32 }
    ∃ t, exec (.tepi h p) s = .next t ∧ MovedOn 2 s t ∧ t.mem = s.mem ∧ (arrayOf t).acc = (arrayOf s).acc ∧
      (∀ i < shM sh, ∀ j < shNW sh, ∀ k < b, localByte t team (off + i * shSTRIDE sh + b * j + k) =
        BitVec.ofNat 8 (epiElem e (accGet (arrayOf s) h.a.toNat (shROW sh + i) (shCOL sh + j)).toNat j / 256 ^ k)) ∧
      localWord t ct co (phaseCheck (x + BitVec.ofNat 64 n)) ∧
      ∀ tm a, ¬ wordPlace ct co (.lm tm a) → (tm ≠ team ∨ ∀ i < shM sh, ¬ (off + i * shSTRIDE sh ≤ a ∧ a < off + i * shSTRIDE sh + shNW sh * b)) →
        localByte t tm a = localByte s tm a) ∧
  ∀ (h : RG) (p : TepiP) (s : State) (ct co : Nat) (x : W64) (bias : List Nat) (pb : Nat → Nat) (pd : Nat → Nat → Nat),
    let w := curWave s
    let sh := wGet w h.b.toNat
    let b := if p.ofmt = 0 then 4 else if p.ofmt.toNat < 3 then 2 else 1
    let n := shM sh * shNW sh * b
    Holding h.g h.n s → Performed s → p.dl = false → p.ofmt.toNat < 5 → 1 ≤ shM sh → shM sh ≤ 128 → 1 ≤ shNW sh → shNW sh ≤ 128 → shROW sh + shM sh ≤ 128 → shCOL sh + shNW sh ≤ 128 →
    shSTRIDE sh % b = 0 → (wGet w h.d.toNat).toNat % b = 0 → (shNW sh * b ≤ shSTRIDE sh ∨ shM sh = 1) →
    (∀ i < shM sh, ∀ k < shNW sh * b, InWindow s (wGet w h.d.toNat + BitVec.ofNat 64 (i * shSTRIDE sh + k)) 1 (pd i k) ∧ HomeQuiet s (w.cluster / 64) (pd i k)) →
    BarrierAt (wGet w p.c.toNat) s ct co x → arrCount x + n < 2 ^ 30 → (getTeam s w.team).any (fun t => !t.retired) = true → (getDie s (w.cluster / 64)).rdc = [] →
    (if p.br = 0 then bias = [] else (wGet w p.br.toNat).toNat % 4 = 0 ∧ bias.length = shNW sh ∧
      ∀ j < shNW sh, nth 0 bias j < 2 ^ 32 ∧ Holds s (wGet w p.br.toNat + BitVec.ofNat 64 (4 * j)) 4 (pb j) (nth 0 bias j)) →
    let e : Epi := { k := h.a.toNat, row := shROW sh, col := shCOL sh, m := shM sh, nw := shNW sh, bias, act := p.act.toNat, ofmt := p.ofmt.toNat
                     scale := if p.sr = 0 then none else some ((wGet w p.sr.toNat).toNat % 2 ^ 32), bound := (wGet w p.sr.toNat).toNat / 2 ^ 32 }
    ∃ t, exec (.tepi h p) s = .next t ∧ MovedOn 2 s t ∧ (arrayOf t).acc = (arrayOf s).acc ∧
      (∀ i < shM sh, ∀ j < shNW sh, ∀ k < b, byteAt t (pd i (b * j + k)) =
        BitVec.ofNat 8 (epiElem e (accGet (arrayOf s) h.a.toNat (shROW sh + i) (shCOL sh + j)).toNat j / 256 ^ k)) ∧
      (∀ a, (∀ i < shM sh, ∀ k < shNW sh * b, a ≠ pd i k) → byteAt t a = byteAt s a) ∧
      localWord t ct co (phaseCheck (x + BitVec.ofNat 64 n)) ∧ ∀ tm a, ¬ wordPlace ct co (.lm tm a) → localByte t tm a = localByte s tm a

/-- TCON, TCON_STEP and RING_TRANSFER (R243, R254, R256 to R260, R262). Legality, the extents of the block and the first misaligned operand are tconLegal,
tconExtents and tconOff of the model. That a whole gang rotates in one event, once every member has come to it, is the model's reading (log 38). A
TRING of a gang of several is the last clause; a local output is the low 32 bits of OUT (log 17). That tconLegal asks nothing of the alignment of BIAS
and OGS is the model's choice (log 90). -/
def Obligations.Contraction : Prop :=
  (∀ (h : RG) (p : TconP) (s : State) (tm : Team) (pa b : Nat), Holding h.g h.n s → Performed s → getTeam s (curWave s).team = some tm →
    let a := wGet (curWave s) h.a.toNat
    let f := tconF b
    let np := (tconGang f tm).1
    let inside (x n : Nat) : Prop := x / 2 ^ 21 % 16 = 15 ∧ (localTarget s tm x n).isSome = true
    let count (k : Nat) : W64 := BitVec.ofNat 64 f.cnt + BitVec.ofNat 64 (4 * k)
    a.toNat % 256 = 0 → b < 256 ^ 256 → Holds s a 256 pa b → tconLegal b f np = true → tconOff f = none → f.cbar % 8 = 0 → inside f.cbar 8 →
    (f.mcbv = true → f.mcb % 8 = 0 ∧ inside f.mcb 8) → (∀ e ∈ tconExtents f np, inside e.1 e.2) →
    (f.kind = 2 → f.cnt % 4 = 0 ∧ ∀ k < f.ng, QuietAt s (count k) 4) →
    ∃ t r, exec (.tcon h p) s = .next t ∧ t.waves = (issueUpd id (moved 2) s).waves ∧ t.mem = s.mem ∧ t.teams = s.teams ∧
      (arrayOf t).tcon = some r ∧ r.next = f.start ∧ r.suspended = false ∧ r.written = 0 ∧ leNat r.block = b ∧
      r.counts = (if f.kind = 2 then (span 0 f.ng).map (fun k => windowNum s (count k) 4) else []) ∧
      ((curWave s).cluster, Instr.tconStep) ∈ t.agenda ∧ (arrayOf t).acc = (arrayOf s).acc ∧
      (getTensor t (curWave s).cluster).left = (getTensor s (curWave s).cluster).left - 1 ∧
      (getTensor t (curWave s).cluster).running = (getTensor s (curWave s).cluster).running + 1) ∧
  (∀ (s : State) (r : TconRun), let x := (getTensor s s.site).arr
    x.tcon = some r → r.suspended = true → x.kept = none → exec .tconStep s = .next s) ∧
  (∀ (s : State) (r : TconRun) (tm : Team) (e kb b : Nat), let x := (getTensor s s.site).arr
    let f := tconF (leNat r.block)
    let g := tconGang f tm
    x.tcon = some r → r.suspended = false → (getTensor s s.site).ringCmd = none → r.cmd.cluster = s.site → getTeam s r.cmd.team = some tm →
    (tconSteps f r.counts g.1 g.2)[r.next]? = some (.load e kb b) →
    let w := f.n / g.1
    ∃ t, exec .tconStep s = .next t ∧ t.waves = s.waves ∧ t.mem = s.mem ∧ t.teams = s.teams ∧ (s.site, Instr.tconStep) ∈ t.agenda ∧
      (getTensor t s.site).arr.tcon = some { r with next := r.next + 1 } ∧ (getTensor t s.site).arr.acc = x.acc ∧ (getTensor t s.site).arr.bl1 = x.bl1 ∧
      (getTensor t s.site).arr.bl0.ty = f.bfmt ∧ (getTensor t s.site).arr.bl0.nw = Nat.min 128 (w - 128 * b)) ∧
  (∀ (s : State) (r : TconRun) (tm : Team) (e row0 n kb b sh half : Nat) (z : Bool) (kind : MulKind) (team ao : Nat), AtStep s r tm (.mul e row0 n kb b sh half z) →
    let x := (getTensor s s.site).arr
    let f := tconF (leNat r.block)
    let l := latchOf x half
    let chunk := if f.bsp = 1 then 64 else 32
    let kl := if f.bsp = 1 then 256 else 128
    let nch := Nat.min 4 ((f.k - kb * kl) / chunk)
    let j0 := sh * (f.n / (tconGang f tm).1) + 128 * b
    let ab := if f.aty < 2 then 1 else 2
    f.aty < 4 → n ≤ 128 → j0 % 128 + l.nw ≤ 128 →
    localTarget s tm (f.alm + e * f.ags + row0 * f.astr + kb * kl * ab) ((n - 1) * f.astr + chunk * nch * ab) = some (team, ao) →
    (f.mcbv = true → ∃ ct co y, localTarget s tm f.mcb 8 = some (ct, co) ∧ localWord s ct co y ∧ y.msb ≠ f.mphx) → StepKind s tm f x e kb j0 sh l.nw nch kind →
    ∃ t, exec .tconStep s = .next t ∧ t.waves = s.waves ∧ t.mem = s.mem ∧ t.teams = s.teams ∧ (s.site, Instr.tconStep) ∈ t.agenda ∧
      (getTensor t s.site).arr.tcon = some { r with next := r.next + 1 } ∧ (getTensor t s.site).arr.bl0 = x.bl0 ∧ (getTensor t s.site).arr.bl1 = x.bl1 ∧
      ∀ d i j, i < 128 → j < 128 → accGet (getTensor t s.site).arr d i j =
        if d = f.acc + j0 / 128 ∧ i < n ∧ j0 % 128 ≤ j ∧ j < j0 % 128 + l.nw
        then BitVec.ofNat 32 (mulElem kind nch (j - j0 % 128) (rowValue s team ao f.astr f.aty i) (colValue l (j - j0 % 128)) (if z then 0 else (accGet x d i j).toNat))
        else accGet x d i j) ∧
  (∀ (s : State) (r : TconRun) (tm : Team) (e row0 n k : Nat) (fd : Nat → Nat → Place) (bias : List Nat) (pb : Nat → Nat), AtStep s r tm (.epi e row0 n k) →
    let x := (getTensor s s.site).arr
    let f := tconF (leNat r.block)
    let nw := Nat.min 128 (f.n - 128 * k)
    let b := pubBytes f.ofmt
    let out := f.out + e * f.ogs + row0 * f.ostr + 128 * k * b
    f.ofmt < 5 → n ≤ 128 → (f.olm = true → out + n * f.ostr < 2 ^ 32) → (∀ i < n, EndAt s r.cmd f.olm (BitVec.ofNat 64 (out + i * f.ostr)) (nw * b) (fd i)) →
    (∀ i < n, ∀ i' < n, ∀ j < nw * b, ∀ j' < nw * b, (i, j) ≠ (i', j') → fd i j ≠ fd i' j') →
    (if f.bias = 0 then bias = [] else bias.length = nw ∧ ∀ j < nw, nth 0 bias j < 2 ^ 32 ∧ ∀ q < 4,
      EngByte s r.cmd (BitVec.ofNat 64 (f.bias + 4 * (e * f.n + 128 * k) + 4 * j + q)) (pb (4 * j + q)) ∧ byteAt s (pb (4 * j + q)) = BitVec.ofNat 8 (nth 0 bias j / 256 ^ q)) →
    let ep : Epi := { k := f.acc + k, row := 0, col := 0, m := n, nw, bias, act := f.act, ofmt := f.ofmt, scale := if f.scl then some f.scale else none, bound := f.clamp }
    ∃ t, exec .tconStep s = .next t ∧ (s.site, Instr.tconStep) ∈ t.agenda ∧ (getTensor t s.site).arr.acc = x.acc ∧
      (getTensor t s.site).arr.tcon = some { r with next := r.next + 1, written := r.written + n * nw * b } ∧
      (∀ i < n, ∀ j < nw, ∀ q < b, placeByte t (fd i (b * j + q)) = BitVec.ofNat 8 (epiElem ep (accGet x (f.acc + k) i j).toNat j / 256 ^ q)) ∧
      ∀ q, (∀ i < n, ∀ j < nw * b, q ≠ fd i j) → placeByte t q = placeByte s q) ∧
  (∀ (s : State) (r : TconRun) (tm : Team), let x := (getTensor s s.site).arr
    let f := tconF (leNat r.block)
    let g := tconGang f tm
    x.tcon = some r → r.suspended = false → (getTensor s s.site).ringCmd = none → r.cmd.cluster = s.site → getTeam s r.cmd.team = some tm →
    (tconSteps f r.counts g.1 g.2).length ≤ r.next → unanswered s (s.site / 64) = [] →
    ∃ t, exec .tconStep s = .next t ∧ (getTensor t s.site).arr.tcon = none ∧ (getTensor t s.site).arr.acc = x.acc ∧ (s.site, Instr.tensorCommandDone) ∈ t.agenda) ∧
  ∀ (s : State) (ms : List Team), 2 ≤ ms.length → s.teams.filter (fun t => t.gang == some s.site) = ms → (∀ t ∈ ms, t.retired = false) →
    ms.map (·.rank) = span 0 ms.length → (ms.map (·.cluster)).Nodup → (ms.map (·.id)).Nodup →
    (∀ t ∈ ms, (getTensor s t.cluster).team = some t.id ∧ ∃ r d, (getTensor s t.cluster).ringCmd = some (r, d) ∧ r < 2 ∧ d = 1 - r) →
    ∃ t, exec .ringTransfer s = .next t ∧ t.waves = s.waves ∧ t.mem = s.mem ∧ ∀ k < ms.length,
      let me := nth default ms k
      let pred := nth default ms ((k + ms.length - 1) % ms.length)
      let half (x : Team) : Nat × Nat := (getTensor s x.cluster).ringCmd.getD (0, 0)
      let step := (getTensor s me.cluster).arr.tcon.filter (fun r => !r.suspended)
      (getTensor t me.cluster).ringCmd = none ∧ (getTensor t me.cluster).arr.ring = (getTensor s me.cluster).arr.ring + 1 ∧
      latchOf (getTensor t me.cluster).arr (half me).1 = latchOf (getTensor s pred.cluster).arr (half pred).2 ∧
      latchOf (getTensor t me.cluster).arr (half me).2 = latchOf (getTensor s me.cluster).arr (half me).2 ∧
      (getTensor t me.cluster).arr.acc = (getTensor s me.cluster).arr.acc ∧
      (match step with
        | some r => (me.cluster, Instr.tconStep) ∈ t.agenda ∧ (getTensor t me.cluster).arr.tcon = some { r with next := r.next + 1 }
        | none => (me.cluster, Instr.tensorCommandDone) ∈ t.agenda ∧ (getTensor t me.cluster).arr.tcon = (getTensor s me.cluster).arr.tcon)

/-- RAST in all its forms, with HIZUPD and DISCARD. Coverage, weights and depth of a sample are the exact functions of R268, R269 and R272 (RastJob.hit
and RastJob.results). That a resumed tile is not counted as begun again, and that a tile's HIZ word is read once, are the model's reading (log 41). -/
def Obligations.Rendering : Prop :=
  (∀ (h : RG) (p : RastP) (s : State), Issues s → Performed s → selected s h.g h.n ≠ [] → (p.ez = true → p.hiz = true) →
    let w := curWave s
    let tok := wGet w h.b.toNat
    let j := rastJob h p w
    let ls := selected s h.g h.n
    let t0 := tok.toNat % 2 ^ 32
    let low (t : Nat) : Bool := p.hiz && decide ((j.tile t).1 < j.tpitch)
    let skip (t : Nat) : Bool := low t && ltF (unpackF .fp32 (windowNum s (depthWord j t) 4)) (unpackF .fp32 (j.zExt false).toNat)
    let r := rastAnswer j skip ls.length tok
    tok.extractLsb' 41 21 = 0 → (p.hiz = true → j.tpitch ≠ 0 ∧ j.base.toNat % 4 = 0) →
    (∀ t, t0 ≤ t → t < tileLimit j t0 (tok.extractLsb' 32 9).toNat → low t = true → QuietAt s (depthWord j t) 4) →
    ∃ t, exec (.rast h p) s = .next t ∧ t.teams = s.teams ∧ WroteBoth 2 (setNth r.2 w.w h.b.toNat) (fun l =>
        if selects w h.g h.n l then (match r.1[ls.findIdx (fun k => k.id == l.id)]? with
          | some (tl, m) => (span 0 5).map (fun i => (h.d.toNat + i, nth 0 (j.results (j.tile tl, m, j.full (j.tile tl))) i))
          | none => (span 0 5).map (fun i => (h.d.toNat + i, 0)))
        else []) s t ∧
      (∀ k, tilePassed j skip ls.length tok k → windowNum t (depthWord j k) 4 = (fminmaxE .fp32 false (windowNum s (depthWord j k) 4) (j.zExt true).toNat).1) ∧
      ∀ a, (∀ k, tilePassed j skip ls.length tok k → ¬ (windowPaOf s w.ctx (depthWord j k) ≤ a ∧ a < windowPaOf s w.ctx (depthWord j k) + 4)) → byteAt t a = byteAt s a) ∧
  (∀ (o : RG) (s : State), Issues s → selected s o.g o.n ≠ [] →
    let w := curWave s
    let hd := wGet w o.a.toNat
    let x := wGet w o.b.toNat
    let pitch := (hd.extractLsb' 52 12).toNat
    let tx := (x.extractLsb' 0 16).toNat
    let va := (hd.extractLsb' 0 52).signExtend 64 + BitVec.ofNat 64 (4 * ((x.extractLsb' 16 16).toNat * pitch + tx))
    pitch ≠ 0 → hd.toNat % 4 = 0 →
    (pitch ≤ tx → exec (.hizupd o) s = .next (issueUpd id (moved 1) s)) ∧
    (tx < pitch → Performed s → QuietAt s va 4 → ∃ t, exec (.hizupd o) s = .next t ∧ MovedOn 1 s t ∧ t.teams = s.teams ∧
      StoredAt s t (windowPaOf s w.ctx va) 4 (fminmaxE .fp32 false (windowNum s va 4) (x.extractLsb' 32 32).toNat).1)) ∧
  ∀ (o : RG) (s : State) (slot : Nat), Issues s →
    let w := curWave s
    let a := o.a.toNat
    let stops (l : Lane) : Bool := selects w o.g o.n l && (vGet l a).getLsbD 3 && (vGet l a).getLsbD 4
    let marks (l : Lane) : List (Nat × W32) := if (vGet l a).getLsbD 3 then [(a, vGet l a ||| (if o.x then 0x40 else 0x20))] else []
    ((active s).any stops = true → Handles s ∧ (if (active s).all stops then slot = s.cur.2 else (freeSlots w).head? = some slot)) →
    exec (.discard o) s = .next (issueUpd id (fun l =>
      if stops l then enter s 14 ((vGet l a).setWidth 64) (curPc s) slot l
      else moved 1 (if selects w o.g o.n l then wrote (marks l) 0 l else l)) s)

/-- TEXQ (R290): the four results in each selected lane, with no condition on a slot or a texel, neither of which it reads or changes. -/
def Obligations.TexqResult : Prop :=
  ∀ (h : RG) (p : TexP) (s : State) (d : TexDesc), Issues s → Performed s → selected s h.g h.n ≠ [] → QuietAt s (wGet (curWave s) h.b.toNat) 16 →
    texDesc (windowBytes s (wGet (curWave s) h.b.toNat) 16) = some d →
    let w := curWave s
    let size (n l : Nat) : W32 := BitVec.ofNat 32 (Nat.max 1 ((n + 1) / 2 ^ l))
    let D := h.d.toNat
    ∃ t, exec (.texq h p) s = .next t ∧ t.mem = s.mem ∧ t.teams = s.teams ∧
      (getCluster t w.cluster).tex = (getCluster s w.cluster).tex ∧ (getCluster t w.cluster).texc = (getCluster s w.cluster).texc ∧
      WroteBoth 2 w.w (fun l => if selects w h.g h.n l then (
        let lv := (vGet l h.a.toNat).toNat
        if d.lm1 < lv then [(D, 0), (D + 1, 0), (D + 2, 0), (D + 3, 0)]
        else [(D, size d.wm1 lv), (D + 1, size d.hm1 lv), (D + 2, BitVec.ofNat 32 (d.lm1 + 1)), (D + 3, BitVec.ofNat 32 d.kind)]) else []) s t

/-- TEX and TEXG for every filter, wrap mode and kind, TBIND in both forms (R279 to R289). The taps, weights and the decoder are those of R133, R287 and
R288 (sampleTaps, decodeTexel, filterChannel). The generation's number is the model's own count. -/
def Obligations.Textures : Prop :=
  (∀ (h : RG) (p : TexP) (s : State) (d : TexDesc), Issues s → Performed s → selected s h.g h.n ≠ [] → (curWave s).log = [] → QuietAt s (wGet (curWave s) h.b.toNat) 16 →
    texDesc (windowBytes s (wGet (curWave s) h.b.toNat) 16) = some d → (getCluster s (curWave s).cluster).texc = [] →
    TexDone (.tex h p) h p false s d ∧ TexDone (.texg h p) h p true s d) ∧
  (∀ (o : RG) (s : State), Issues s → Performed s → selected s o.g o.n ≠ [] → o.d.toNat < 8 → (getCluster s (curWave s).cluster).tex.length = 8 →
    let w := curWave s
    let va := wGet w o.a.toNat
    let table := (span 0 18).flatMap (fun k => windowBytes s (va + BitVec.ofNat 64 (64 * k)) 64)
    (∀ k < 18, QuietAt s (va + BitVec.ofNat 64 (64 * k)) 64) → leNat (table.take 4) = 1 → (∀ k, 8 ≤ k → k < 64 → nth 0 table k = 0) →
    ∃ t, exec (.tbind o) s = .next t ∧ MovedOn 1 s t ∧ t.mem = s.mem ∧ t.teams = s.teams ∧ (getCluster t w.cluster).texc = [] ∧
      ∀ k < 8, nth {} (getCluster t w.cluster).tex k = if k = o.d.toNat then
          { addr := va, gen := (nth {} (getCluster s w.cluster).tex k).gen + 1, h := ((active s).head?.map (·.h)).getD false
            tag := (getCtx s w.ctx).ctxid, bound := true, lost := false, table }
        else nth {} (getCluster s w.cluster).tex k) ∧
  ∀ (o : RG) (s : State), Issues s → selected s o.g o.n ≠ [] →
    ∃ t, exec (.tbindFlush o) s = .next t ∧ t.waves = (issueUpd id (moved 1) s).waves ∧ t.mem = s.mem ∧ t.teams = s.teams ∧
      getCluster t (curWave s).cluster = { getCluster s (curWave s).cluster with texc := [] }

/-- IBOX, ITRI, BLD, SBE_COMMAND_DONE and both BLDDONE events (R292 to R301, R305, R370). The exact tests are iboxResult and itriResult; the engine is
stated for MORTON and SORT. That vector 6 is raised once for every BLD that the host is to perform is the model's reading (log 60), and so is that a
SORT of records of 16 bytes moves their last 4 bytes with them (log 92); that the barrier word keeps bits [31:30] and the address of a barrier drops
its high half are its choices (logs 30, 65). -/
def Obligations.RaysAndBuilds : Prop :=
  (∀ (h : RG) (p : NoP) (s : State), Issues s → Performed s → selected s h.g h.n ≠ [] → (curWave s).log = [] →
    ((∀ l ∈ selected s h.g h.n, (rayAddr h (curWave s) l).toNat % 128 = 0) → RayDone (.ibox h p) h 16 iboxResult s) ∧
    ((∀ l ∈ selected s h.g h.n, (rayAddr h (curWave s) l).toNat % 16 = 0) → RayDone (.itri h p) h 20 itriResult s)) ∧
  (∀ (h : RG) (p : EngP) (s : State),
    let w := curWave s
    let d := w.cluster / 64
    let a := wGet w h.a.toNat
    let cb := wGet w p.cb.toNat
    let x := windowNum s a 64
    let b := buildOf (windowBytes s a 64) cb
    let c := newCmd (.bld h p) (selected s h.g h.n) (b.toOps a) s
    EngReady h cb p.rel p.scope.toNat s → QuietAt s a 64 → b.ok (x % 2 ^ 211) = true →
    (s.regs.funcmode.getLsbD 1 = false → (getDie s d).sbe.length < 32 →
      ∃ t, exec (.bld h p) s = .next t ∧ t.waves = (issueUpd id (moved 2) s).waves ∧ t.mem = s.mem ∧ t.teams = s.teams ∧
        (d, Instr.sbeCommandDone) ∈ t.agenda ∧ (getDie t d).sbe = (getDie s d).sbe ++ [c] ∧ (getDie t d).builds = (getDie s d).builds) ∧
    (s.regs.funcmode.getLsbD 1 = true → (getDie s d).builds.length < 32 →
      ∃ t, exec (.bld h p) s = .next t ∧ t.waves = (issueUpd id (moved 2) s).waves ∧ t.mem = s.mem ∧ t.teams = s.teams ∧
        (getDie t d).builds = c :: (getDie s d).builds ∧ (getDie t d).sbe = (getDie s d).sbe ∧ t.msix = (8 * d + 6) :: s.msix)) ∧
  (∀ (s : State), (getDie s s.site).sbe = [] → exec .sbeCommandDone s = .next s) ∧
  (∀ (s : State) (c : EngCmd) (rest : List EngCmd) (desc : W64) (b : Build) (team off : Nat) (x : W64),
    (getDie s s.site).sbe = c :: rest → c.ops = b.toOps desc → c.cluster / 64 = s.site → b.ok 0 = true → b.overlaps = false →
    ArrivesAt s c b.cb b.bytes team off x → AreaAt s c b.inp b.areas.1 → AreaAt s c b.aux b.areas.2.1 → AreaAt s c b.tmp b.areas.2.2.1 → AreaAt s c b.out b.areas.2.2.2 →
    let n := b.recBytes
    (b.op = 0 → ∃ t, exec .sbeCommandDone s = .next t ∧ (getDie t s.site).sbe = rest ∧ localWord t team off (phaseCheck (x + BitVec.ofNat 64 b.bytes)) ∧
      (∀ a, ¬ inArea s c b.out b.areas.2.2.2 a → byteAt t a = byteAt s a) ∧
      ∀ i < b.n, let key := mortonKey b.kw (bxAt ((span 0 24).map (areaByte s c b.aux)) 0) (bxAt ((span (24 * i) 24).map (areaByte s c b.inp)) 0)
        leNat ((span (n * i) n).map (areaByte t c b.out)) = if b.kw then key + 2 ^ 64 * i else key + 2 ^ 32 * i) ∧
    (b.op = 1 → ∃ t, exec .sbeCommandDone s = .next t ∧ (getDie t s.site).sbe = rest ∧ localWord t team off (phaseCheck (x + BitVec.ofNat 64 b.bytes)) ∧
      (∀ a, ¬ inArea s c b.out b.areas.2.2.2 a → ¬ inArea s c b.tmp b.areas.2.2.1 a → byteAt t a = byteAt s a) ∧
      ∃ at_ : List Nat, at_.Perm (List.range b.n) ∧
        (let key (i : Nat) : Nat := let r := leNat ((span (n * i) n).map (areaByte s c b.inp)); if b.kw then r % 2 ^ 64 else r % 2 ^ 30
         at_.Pairwise (fun i j => key i < key j ∨ (key i = key j ∧ i < j))) ∧
        ∀ i < b.n, ∀ k < n, areaByte t c b.out (n * i + k) = areaByte s c b.inp (n * nth 0 at_ i + k))) ∧
  (∀ (s : State) (c : EngCmd) (rest : List EngCmd), rdy s = true → s.regs.funcmode.getLsbD 1 = true → (getDie s s.site).builds = c :: rest →
    let b := Build.ofOps c.ops
    (∀ team off x, ArrivesAt s c b.cb b.bytes team off x →
      ∃ t, exec .blddoneArrive s = .next t ∧ (getDie t s.site).builds = rest ∧ t.mem = s.mem ∧ localWord t team off (phaseCheck (x + BitVec.ofNat 64 b.bytes)) ∧
        ∀ k a, ¬ wordPlace team off (.lm k a) → localByte t k a = localByte s k a) ∧
    ∃ t, exec .blddoneHandback s = .next t ∧ (getDie t s.site).builds = rest ∧ t.mem = s.mem ∧ t.waves = s.waves ∧ t.teams = s.teams ∧
      (s.nextId, Instr.engineHandback) ∈ t.agenda ∧ ∃ e, t.hands = s.hands ++ [e] ∧ e.id = s.nextId ∧ e.cmd = c ∧ e.cb = some b.cb ∧ e.trap.code = 9 ∧ e.trap.targ = 0) ∧
  ∀ (s : State), rdy s = true → (s.regs.funcmode.getLsbD 1 = false ∨ (getDie s s.site).builds = []) →
    exec .blddoneArrive s = .next (accErr s.site s) ∧ exec .blddoneHandback s = .next (accErr s.site s)

/-- The instructions of work distribution (R306 to R329) on mapped queues, legal records and quiet memory. The arm form is stated for a block with no
action, the graph form for a replay whose blocks all have a count. The model's choices and readings: a new share's last position is 63 (log 9), an
offer keeps the operands that its instruction read (log 31), and a grid has one share on each die of DIES (log 33). -/
def Obligations.WorkInstructions : Prop :=
  (∀ (h : RG) (p : SpawnP) (s : State) (d k : Nat) (q : QSlot), Issues s → Performed s → selected s h.g h.n ≠ [] → (p.rel = true → Released p.scope.toNat s) →
    let w := curWave s
    let ls := selected s h.g h.n
    let ans (x : W64) : List W64 := if h.x then setNth x w.w h.d.toNat else w.w
    let rec_ (i j : Nat) : W64 := recordAt q (q.tail + BitVec.ofNat 32 i) + BitVec.ofNat 64 j
    findSlot s w.ctx (wGet w h.a.toNat) = some (d, k) → getSlot s d k = some q → q.rsz = 16 * (p.nrs.toNat + 1) →
    (hasRoom q ls.length = true → q.lcap ≤ 24 → (∀ i < ls.length, ∀ j < q.rsz, QuietAt s (rec_ i j) 1) →
      ∃ t, exec (.spawn h p) s = .next t ∧ WroteBoth 2 (ans 0) (fun _ => []) s t ∧ t.teams = s.teams ∧
        (∀ i < ls.length, ∀ j < q.rsz, byteAt t (windowPaOf s w.ctx (rec_ i j)) = ((vGet (nth default ls i) (h.b.toNat + j / 4)) >>> (8 * (j % 4))).setWidth 8) ∧
        (∀ a, (∀ i < ls.length, ∀ j < q.rsz, a ≠ windowPaOf s w.ctx (rec_ i j)) → byteAt t a = byteAt s a) ∧
        (d, Instr.qmDecision) ∈ t.agenda ∧ (getSlot t d k).map (·.tail) = some (q.tail + BitVec.ofNat 32 ls.length) ∧ (getSlot t d k).map (·.head) = some q.head) ∧
    (hasRoom q ls.length = false → h.x = true → ∃ t, exec (.spawn h p) s = .next t ∧ WroteBoth 2 (ans 1) (fun _ => []) s t ∧ t.mem = s.mem ∧
      (getSlot t d k).map (fun x => (x.head, x.tail)) = some (q.head, q.tail))) ∧
  (∀ (o : RG) (s : State) (d k : Nat) (q : QSlot), Issues s → Performed s → Released 2 s → findSlot s (curWave s).ctx (wGet (curWave s) o.a.toNat) = some (d, k) → getSlot s d k = some q →
    QuietAt s q.notify 8 → ∃ t, exec (.qnotify o) s = .next t ∧ MovedOn 1 s t ∧ t.teams = s.teams ∧ (d, Instr.notifyFold d k) ∈ t.agenda ∧
      StoredAt s t (windowPaOf s (curWave s).ctx q.notify) 8 ((windowNum s q.notify 8 + (wGet (curWave s) o.b.toNat).toNat % 2 ^ 32) % 2 ^ 64)) ∧
  (∀ (h : RG) (p : Launch0) (s : State) (lr : LaunchRec) (at_ : Nat → Nat × Nat), Issues s → Performed s → selected s h.g h.n ≠ [] → Released 2 s →
    let w := curWave s
    let die := w.cluster / 64
    let dies := gridDies lr die
    RecordAt s (wGet w h.a.toNat) lr →
    (∀ j < lr.nq, QuietAt s (lr.qtab + BitVec.ofNat 64 (8 * j)) 8 ∧ findSlot s w.ctx (BitVec.ofNat 64 (windowNum s (lr.qtab + BitVec.ofNat 64 (8 * j)) 8)) = some (at_ j)) →
    (∀ d ∈ dies, ∃ k < 256, (∀ x ∈ (getDie s d).slots, x.1 ≠ k) ∧ ∀ x ∈ (getDie s d).shares, x.1 ≠ k) →
    ∃ t, exec (.launchGrid h p) s = .next t ∧ WroteBoth 2 (setNth 0 w.w h.d.toNat) (fun _ => []) s t ∧ t.mem = s.mem ∧ t.teams = s.teams ∧
      t.grids = s.grids ++ [{ id := s.nextId, ctx := w.ctx, lr, die, alive := lr.nteam, queues := (span 0 lr.nq).map at_, tcb := none }] ∧
      (∀ j < lr.nq, (getSlot t (at_ j).1 (at_ j).2).map (·.pinned) = some true) ∧
      ∀ j < dies.length, let d := nth 0 dies j
        (d, Instr.qmDecision) ∈ t.agenda ∧ ∃ k < 256, (∀ x ∈ (getDie s d).slots, x.1 ≠ k) ∧
          (k, { grid := s.nextId, die := d, teams := teamsOf lr.nteam dies.length j, last := 63, pass := 0, since := s.clock }) ∈ (getDie t d).shares) ∧
  (∀ (h : RG) (p : Launch2) (s : State), Issues s → Performed s → selected s h.g h.n ≠ [] → Released 2 s →
    let w := curWave s
    let tcb := wGet w h.a.toNat
    let x := windowNum s (tcb + 32) 8
    QuietAt s tcb 64 →
    (¬ (tcbPend x = 0 ∧ tcbState x = 0) → ∃ t, exec (.launchArm h p) s = .next t ∧ WroteBoth 2 (setNth 2 w.w h.d.toNat) (fun _ => []) s t ∧ t.teams = s.teams ∧
      ∀ a, byteAt t a = byteAt s a) ∧
    (tcbPend x = 0 → tcbState x = 0 → tcbAct x = 2 → DeviceFree s w.ctx (w.cluster / 64) → SuccsAt s w.ctx (w.cluster / 64) tcb (tcbNsucc x) →
      ∃ t, exec (.launchArm h p) s = .next t ∧ WroteBoth 2 (setNth 0 w.w h.d.toNat) (fun _ => []) s t ∧ Retired s t w.ctx (w.cluster / 64) tcb x)) ∧
  (∀ (h : RG) (p : Launch1) (s : State), Issues s → Performed s → selected s h.g h.n ≠ [] → Released 2 s →
    let w := curWave s
    let obj := wGet w h.a.toNat
    let patch := wGet w h.b.toNat
    let x := windowNum s obj 64
    let c := windowNum s (obj + 24) 8
    let np := c / 2 ^ 28 % 8
    let g := graphOf x
    let pa (va : W64) : Nat := windowPaOf s w.ctx va
    let word (i : Nat) : W64 := g.tcbs + BitVec.ofNat 64 (64 * i) + 32
    let start (i : Nat) : W64 := g.init + BitVec.ofNat 64 (4 * i)
    QuietAt s obj 128 → graphOk x = true →
    (patch ≠ 0 → QuietAt s patch 8 ∧ QuietAt s (patch + 8) 8 ∧ windowNum s (patch + 8) 8 % 2 ^ 16 + windowNum s (patch + 8) 8 / 2 ^ 16 % 2 ^ 16 ≤ g.pmax) →
    (c / 2 ^ 31 % 2 = 1 → np < 4 → let slot := obj + BitVec.ofNat 64 (64 + 8 * ((c / 2 ^ 26 % 4 + np) % 4))
      ∃ t, exec (.launchGraph h p) s = .next t ∧ WroteBoth 2 (setNth 0 w.w h.d.toNat) (fun _ => []) s t ∧ t.teams = s.teams ∧ t.replays = s.replays ∧
        windowNum t (obj + 24) 8 = c + 2 ^ 28 ∧ windowNum t slot 8 = patch.toNat ∧
        ∀ a, ¬ (pa (obj + 24) ≤ a ∧ a < pa (obj + 24) + 8) → ¬ (pa slot ≤ a ∧ a < pa slot + 8) → byteAt t a = byteAt s a) ∧
    (c / 2 ^ 31 % 2 = 1 → 4 ≤ np → ∃ t, exec (.launchGraph h p) s = .next t ∧ WroteBoth 2 (setNth 1 w.w h.d.toNat) (fun _ => []) s t ∧ t.teams = s.teams ∧
      t.replays = s.replays ∧ ∀ a, byteAt t a = byteAt s a) ∧
    (c / 2 ^ 31 % 2 = 0 → patch = 0 → DeviceFree s w.ctx (w.cluster / 64) →
      (∀ i < g.nt, QuietAt s (start i) 4 ∧ windowNum s (start i) 4 ≠ 0 ∧ QuietAt s (word i) 8 ∧ apart (pa (start i)) 4 (pa (obj + 24)) 8 ∧
        apart (pa (word i)) 8 (pa (obj + 24)) 8 ∧ ∀ j < g.nt, apart (pa (start j)) 4 (pa (word i)) 8) →
      ∃ t, exec (.launchGraph h p) s = .next t ∧ WroteBoth 2 (setNth 0 w.w h.d.toNat) (fun _ => []) s t ∧
        t.replays = [{ ctx := w.ctx, die := w.cluster / 64, obj, left := (span 0 g.nt).map (fun i => g.tcbs + BitVec.ofNat 64 (64 * i)), starting := none }] ∧
        windowNum t (obj + 24) 8 = c + 2 ^ 31 ∧
        (∀ i < g.nt, windowNum t (word i) 8 = tcbWith (windowNum s (start i) 4) 0 false (windowNum s (word i) 8)) ∧
        ∀ a, ¬ (pa (obj + 24) ≤ a ∧ a < pa (obj + 24) + 8) → (∀ i < g.nt, ¬ (pa (word i) ≤ a ∧ a < pa (word i) + 8)) → byteAt t a = byteAt s a)) ∧
  (∀ (h : RG) (p : MbpostP) (s : State) (lr : LaunchRec), Issues s → Performed s → selected s h.g h.n ≠ [] →
    let w := curWave s
    let n := p.n.toNat + 1
    RecordAt s (wGet w h.a.toNat) lr → lr.cart = false → 2 * n ≤ lr.regs →
    (h.x = false → HandedOver (.mbpost h p) h s id ((selected s h.g h.n).map (fun l => offerOf w l (some (.entry lr.entry)) lr (postStart w n lr) false))) ∧
    (h.x = true → (selected s h.g h.n).length = 1 → contended w.cluster s = false → (getCluster s w.cluster).offers = [] →
      (CanOpen s w.cluster w.team w.ctx (.entry lr.entry) → ∃ t, exec (.mbpost h p) s = .next t ∧ WroteBoth 2 (setNth 0 w.w h.d.toNat) (fun _ => []) s t ∧ t.mem = s.mem ∧
        (getCluster t w.cluster).opens = (getCluster s w.cluster).opens ++ [opened s w.cluster w.team w.ctx (.entry lr.entry) lr (postStart w n lr)]) ∧
      ((getCluster s w.cluster).opens = [] → 16 ≤ (getCluster s w.cluster).releaseQ.length →
        ∃ t, exec (.mbpost h p) s = .next t ∧ WroteBoth 2 (setNth 1 w.w h.d.toNat) (fun _ => []) s t ∧ t.mem = s.mem ∧ (getCluster t w.cluster).opens = []))) ∧
  (∀ (h : RG) (p : NoP) (s : State) (lr : LaunchRec), Issues s → Performed s → selected s h.g h.n ≠ [] → releaseReady 0 s = true →
    let w := curWave s
    let ls := selected s h.g h.n
    (RecordAt s (wGet w h.b.toNat) lr → lr.cart = false → 32 ≤ lr.regs →
      HandedOver (.reorder h p) h s (moved 2) (ls.map (fun l => offerOf w l (some (.reorder (vGet l h.a.toNat))) lr (moveStart w l lr) true))) ∧
    (RecordAt s (wGet w h.a.toNat) lr → lr.cart = (!w.cart) → (w.cart = true → 32 ≤ lr.regs) →
      (h.x = false → HandedOver (.migrate h p) h s (moved 2) (ls.map (fun l => offerOf w l (if w.cart then some (.entry lr.entry) else none) lr (moveStart w l lr) true))) ∧
      (h.x = true → w.cart = false → (getCluster s w.cluster).dispatchQ.length + ls.length ≤ 64 →
        ∃ t, exec (.migrate h p) s = .next t ∧ t.mem = s.mem ∧ (w.cluster, Instr.cartDispatch) ∈ t.agenda ∧
          t.waves = (issueUpd (fun x => { x with log := logAfterExit (ls.map (·.id)) x.log })
            (fun l => if selects w h.g h.n l then { l with st := .exited } else moved 2 l) s).waves ∧
          (getCluster t w.cluster).dispatchQ = (getCluster s w.cluster).dispatchQ ++
            ls.map (fun l => { team := w.team, ctx := w.ctx, lr, start := moveStart w l lr })))) ∧
  ∀ (o : RG) (s : State),
    let w := curWave s
    let mine (x : OpenWave) : Bool := x.team == w.team && x.ctx == w.ctx
    let flush (i : Instr) (p : OpenWave → Bool) : Prop := Flushable p w.cluster s →
      ∃ t, exec i s = .next t ∧ t.waves = (issueUpd id (moved 1) s).waves ∧ t.mem = s.mem ∧
        FlushDone p ((getCluster s w.cluster).opens.filter p) w.cluster s t
    flush (.cplflush o) mine ∧ flush (.cplflushPc o) (fun x => mine x && x.key == .entry (wGet w o.a.toNat)) ∧
    flush (.cplflushKey o) (fun x => mine x && x.key == .reorder ((wGet w o.a.toNat).setWidth 32))

/-- Nine events (R149 to R153, R317 to R327), each for the ordinary case named in its clause. That the records and lanes of a decision not yet carried out
count as taken (unclaimed, heldSoon) is the model's reading (log 75), and so are the candidates of a decision and who acts for a grid (log 33). -/
def Obligations.WorkEvents : Prop :=
  (∀ (s : State) (o : Offer) (key : CplKey), (getCluster s s.site).offers = [o] → (getCluster s s.site).qmQ = [] → o.key = some key → offerLive s o = true → CanOpen s s.site o.team o.ctx key →
    ∃ t, exec .couplerAccept s = .next t ∧ t.mem = s.mem ∧ (getCluster t s.site).offers = [] ∧
      (getCluster t s.site).opens = (getCluster s s.site).opens ++ [opened s s.site o.team o.ctx key o.lr o.start] ∧
      t.waves.map (·.lanes) = s.waves.map (fun w => if w.id = o.wave then
        w.lanes.map (fun l => if l.id = o.lane then (if o.exits then { l with st := .exited } else { l with st := .ready, pc := l.pc + 8 }) else l) else w.lanes)) ∧
  (∀ (s : State), let late (o : OpenWave) : Bool := decide (o.since + o.timeout ≤ s.clock)
    Flushable late s.site s → ∃ t, exec .couplerTimeout s = .next t ∧ t.waves = s.waves ∧ t.mem = s.mem ∧
      FlushDone late (sortBy (fun o => o.since + o.timeout) ((getCluster s s.site).opens.filter late)) s.site s t) ∧
  (∀ (s : State) (o : OpenWave) (rest : List OpenWave), (getCluster s s.site).releaseQ = o :: rest → (getCluster s s.site).failed = false →
    (∀ x ∈ (getCluster s s.site).opens, x.due = none) → (∃ u < 4, ∃ k < 16, k ∈ waveSlots s s.site u ∧ regsUsed s s.site u + o.lr.regs ≤ 512) →
    ∃ t u k, exec .waveAdmit s = .next t ∧ u < 4 ∧ k ∈ waveSlots s s.site u ∧ regsUsed s s.site u + o.lr.regs ≤ 512 ∧ (getCluster t s.site).releaseQ = rest ∧ t.mem = s.mem ∧
      t.waves = s.waves ++ [startWave s.nextId { cart := false, cluster := s.site, unit := u, slot := k } o.team none o.ctx o.lr
        ((span 0 o.lanes.length).map (fun i => (i, nth default o.lanes i)))]) ∧
  (∀ (s : State) (x : CartStart) (rest : List CartStart) (u k : Nat) (free : List (Nat × Nat)), (getCluster s s.site).dispatchQ = x :: rest →
    freeThreads s s.site = (u, k) :: free → (getCluster s s.site).failed = false → (getCluster s s.site).offers = [] →
    ∃ t, exec .cartDispatch s = .next t ∧ (getCluster t s.site).dispatchQ = rest ∧ t.mem = s.mem ∧ (rest ≠ [] → (s.site, Instr.cartDispatch) ∈ t.agenda) ∧
      t.waves = s.waves ++ [startWave s.nextId { cart := true, cluster := s.site, unit := u, slot := k } x.team none x.ctx x.lr [(0, x.start)]]) ∧
  (∀ (s : State) (g : Grid) (k c n : Nat) (sh : Share) (rest : List Nat), let d := s.site % 4
    s.grids.find? (fun x => x.id == s.site / 4) = some g → (getDie s d).shares.find? (fun p => p.2.grid == s.site / 4) = some (k, sh) → sh.teams = n :: rest →
    (getCtx s g.ctx).stat = .live → g.lr.gw * g.lr.gh = 1 → sharePlace s d g.lr sh.last = some [c] → bit (getDie s (c / 64)).regs.chrbase 0 = false →
    ∃ t tm, exec .teamAdmit s = .next t ∧ t.teams = s.teams ++ [tm] ∧ tm.cluster = c ∧ tm.lm = g.lr.lm ∧ tm.mem = [] ∧ tm.grid = some g.id ∧ tm.ctx = g.ctx ∧ tm.gang = none ∧
      (d, Instr.qmDecision) ∈ t.agenda ∧ t.mem = s.mem ∧ t.waves.length = s.waves.length + g.lr.teamsz ∧ t.waves.take s.waves.length = s.waves ∧
      ∀ i < g.lr.teamsz, let w := nth default t.waves (s.waves.length + i)
        w.team = tm.id ∧ w.member = some i ∧ w.cluster = c ∧ w.cart = g.lr.cart ∧ w.ctx = g.ctx ∧ w.w = g.lr.w ∧ w.lanes.length = (if g.lr.cart then 1 else 128) ∧
        ∀ l ∈ w.lanes, l.pc = g.lr.entry ∧ l.st = .ready ∧ vGet l 0 = BitVec.ofNat 32 ((if g.lr.cart then 1 else 128) * i + l.id) ∧ vGet l 1 = BitVec.ofNat 32 n) ∧
  (∀ (s : State), let d := s.site
    s.tcbWork = [] → s.replays = [] → s.regs.funcmode.getLsbD 0 = false → (∀ p ∈ (getDie s d).slots, p.2.waiters = [] ∧ p.2.headDue = false) → bit (getDie s d).regs.chrbase 0 = false →
    (choose (eligible s d) = none → ∃ t, exec .qmDecision s = .next t ∧ t.waves = s.waves ∧ t.mem = s.mem ∧ ∀ p ∈ (getDie t d).slots, p.2.pass = 0) ∧
    (∀ c, choose (eligible s d) = some c → c.share = true → ∀ k sh, (getDie s d).shares.find? (fun p => p.1 == c.k) = some (k, sh) →
      ∃ t, exec .qmDecision s = .next t ∧ t.waves = s.waves ∧ t.mem = s.mem ∧ (4 * sh.grid + d, Instr.teamAdmit) ∈ t.agenda ∧
        ∀ j, (getSlot t d j).map (·.pass) = (getSlot s d j).map (fun q => if j ≠ c.k ∧ (eligible s d).any (fun x => x.k == j) = true then q.pass + 1 else 0)) ∧
    (∀ c q cl team, choose (eligible s d) = some c → c.share = false → getSlot s d c.k = some q → q.cart = false →
      (clustersAfter d q.last).find? (canLaunch s q) = some cl → queueTeam s q cl = some team →
      ∃ t, exec .qmDecision s = .next t ∧ t.waves = s.waves ∧ t.mem = s.mem ∧ (d, Instr.qmDecision) ∈ t.agenda ∧ (cl, Instr.couplerAccept) ∈ t.agenda ∧
        (getCluster t cl).qmQ = (getCluster s cl).qmQ ++
          [{ slot := c.k, team, left := Nat.min (Nat.min (unclaimed s d c.k q) 128) (shareOf q.cart q.maxsh - heldSoon s d c.k) }])) ∧
  (∀ (s : State) (l : QmLaunch) (q : QSlot), let c := s.site
    let d := c / 64
    (getCluster s c).offers = [] → (getCluster s c).qmQ = [l] → l.left = 1 → getSlot s d l.slot = some q → 1 ≤ occ q → q.cart = false →
    CanOpen s c l.team q.ctx (.entry q.lr.entry) → (getDie s d).rdc = [] → bit (getDie s d).regs.chrbase 0 = false →
    (∀ j < q.rsz / 8, QuietOf s q.ctx d (recordAt q q.head + BitVec.ofNat 64 (8 * j)) 8) → q.rsz % 8 = 0 → QuietOf s q.ctx d (q.desc + 36) 4 →
    let x : Start := { pc := q.lr.entry, m := [], queue := some (d, l.slot), tcb := (q.tcbs.find? (fun p => p.1 == q.head)).map (·.2)
                       v := (span 0 (q.rsz / 4)).map (fun i => BitVec.ofNat 32 (windowNumOf s q.ctx (recordAt q q.head + BitVec.ofNat 64 (4 * i)) 4)) }
    ∃ t, exec .couplerAccept s = .next t ∧ t.waves = s.waves ∧ (getCluster t c).qmQ = [] ∧
      (getCluster t c).opens = (getCluster s c).opens ++ [opened s c l.team q.ctx (.entry q.lr.entry) q.lr x] ∧
      (getSlot t d l.slot).map (·.head) = some (q.head + 1) ∧ (d, Instr.qmDecision) ∈ t.agenda ∧
      StoredAt s t (windowPaOf s q.ctx (q.desc + 36)) 4 (q.head + 1).toNat) ∧
  (∀ (s : State) (d k : Nat) (q : QSlot), getSlot s d k = some q → QuietOf s q.ctx d q.notify 8 →
    let n := windowNumOf s q.ctx q.notify 8
    ∃ t, exec (.notifyFold d k) s = .next t ∧ StoredAt s t (windowPaOf s q.ctx q.notify) 8 0 ∧ (d, Instr.qmDecision) ∈ t.agenda ∧
      (getSlot t d k).map (·.tail) = some (q.tail + BitVec.ofNat 32 n) ∧ (n = 0 → getSlot t d k = some q)) ∧
  ∀ (s : State) (ctx die : Nat) (tcb : W64) (by_ : DecBy),
    let x := windowNumOf s ctx (tcb + 32) 8
    let pend := x / 2 ^ 32
    let state := x / 2 ^ 12 % 4
    QuietOf s ctx die (tcb + 32) 8 → (getDie s die).rdc = [] →
    (state = 0 → 2 ≤ pend → ∃ t, exec (.tcbDecrement ctx die tcb by_) s = .next t ∧ StoredAt s t (windowPaOf s ctx (tcb + 32)) 8 (x - 2 ^ 32)) ∧
    ((state ≠ 0 ∨ pend = 0) → ∃ t, exec (.tcbDecrement ctx die tcb by_) s = .next t ∧ StoredAt s t (windowPaOf s ctx (tcb + 32)) 8 (x ||| 2 ^ 11)) ∧
    (state = 0 → pend = 1 → tcbAct x = 2 → DeviceFree s ctx die → (∀ j < 4, QuietOf s ctx die (tcb + BitVec.ofNat 64 (16 * j)) 16) → SuccsAt s ctx die tcb (tcbNsucc x) →
      ∃ t, exec (.tcbDecrement ctx die tcb by_) s = .next t ∧ Retired s t ctx die tcb x)

/-- HOME_LOAD_MISS, FILL_RETURN, HOME_STORE, BACK_INVALIDATION_ANSWER, HOME_ATOMIC, HOME_WRITEBACK, RDC_PULL, RDC_DRAIN_TIMER, DIRTY_NOTICE,
CLUSTER_PROBE, RDC_INVALIDATE, PROBE_TIMEOUT and ATOMO_ACCEPT, at quiet lines whose L2 set has room. What ERRLOG names and on which die, after a
PROBE_TIMEOUT, is the model's choice (log 66); which contexts stop, and what of them stops, is its reading (log 47). -/
def Obligations.HomeEvents : Prop :=
  (∀ (s : State) (line : Nat), AtHome s (line * 64) 64 →
    let bytes := (span (line * 64) 64).map (byteAt s)
    let home := homeDie (line * 64)
    let fill (rdc : Bool) (c u : Nat) : Fill := { line, forRdc := rdc, cluster := c, unit := u, bytes }
    (∀ c < 256, (getCluster s c).failed = false → (c / 64 ≠ home → (getDie s (c / 64)).rdcFenced = false) →
      ∃ t, ∃ u < 5, exec (.homeLoadMiss (.cluster c) line) s = .next t ∧ t.mem = s.mem ∧
        (getDie t (c / 64)).fills = (getDie s (c / 64)).fills ++ [fill (c / 64 != home) c u] ∧ (c, Instr.fillReturn (c / 64) line) ∈ t.agenda ∧
        (if c / 64 = home then bit (getDir t (line / 8)).cl (c % 64) = true else bit (getDir t (line / 8)).rdcp (c / 64) = true)) ∧
    (∀ d < 4, d ≠ home → (getDie s d).rdcFenced = false → ∃ t, exec (.homeLoadMiss (.rdc d) line) s = .next t ∧ t.mem = s.mem ∧
      (getDie t d).fills = (getDie s d).fills ++ [fill true (64 * d) 5] ∧ (64 * d, Instr.fillReturn d line) ∈ t.agenda ∧ bit (getDir t (line / 8)).rdcp d = true) ∧
    (s.regs.hostFenced = false → line * 64 < 2 ^ 39 ∨ s.boot.exported = true → ∃ t, exec (.homeLoadMiss .host line) s = .next t ∧ t.mem = s.mem ∧ (getDir t (line / 8)).host = true)) ∧
  (∀ (s : State) (d line : Nat) (f : Fill), (getDie s d).fills.find? (fun f => f.line == line) = some f → (getDie s d).rdc.length < 524288 →
    ∃ t, exec (.fillReturn d line) s = .next t ∧ t.mem = s.mem ∧ t.waves = s.waves ∧ (getDie t d).fills = (getDie s d).fills.erase f ∧
      (f.invalidated = true → (getDie t d).rdc = (getDie s d).rdc ∧ ∀ c, (getCluster t c).filter = (getCluster s c).filter) ∧
      (f.invalidated = false → f.forRdc = true → (rdcGet t d line).filled = true ∧ (rdcGet t d line).mask = (rdcGet s d line).mask ∧
        ∀ i < 64, nth 0 (rdcGet t d line).bytes i = if bit (rdcGet s d line).mask i then nth 0 (rdcGet s d line).bytes i else nth 0 f.bytes i) ∧
      (f.invalidated = false → f.unit < 5 → bit (aget 0 (getCluster t f.cluster).filter line) f.unit = true)) ∧
  (∀ (s : State) (c pa : Nat) (bs : List Byte),
    (AtHome s pa bs.length → ∃ t, exec (.homeStore c pa bs) s = .next t ∧ PutBytes s t pa bs ∧ t.teams = s.teams) ∧
    (asksHost s (pa / 64) = true → exists_ s pa = true → (getDie s (homeDie pa)).dir.length < 24 → (∀ x ∈ (getDie s (homeDie pa)).held, x.pa / 64 ≠ pa / 64) →
      ∃ t, exec (.homeStore c pa bs) s = .next t ∧ t.mem = s.mem ∧ t.waves = s.waves ∧
      (getDie t (homeDie pa)).held = (getDie s (homeDie pa)).held ++ [{ cluster := c, pa, bytes := bs }] ∧ (pa / 64, Instr.backInvalidationAnswer) ∈ t.agenda)) ∧
  (∀ (s : State) (x : HeldStore), let d := homeDie (s.site * 64)
    (getDie s d).peerQ = [] →
    ((∀ y ∈ (getDie s d).held, y.pa / 64 ≠ s.site) → ∃ t, exec .backInvalidationAnswer s = .next t ∧ t.mem = s.mem ∧ t.waves = s.waves ∧
      (getDir t (s.site / 8)).host = false) ∧
    ((getDie s d).held.filter (fun y => y.pa / 64 == s.site) = [x] → x.pa % 64 + x.bytes.length ≤ 64 → (∀ e < 4, (rdcGet s e s.site).mask = 0) →
      ∃ t, exec .backInvalidationAnswer s = .next t ∧ PutBytes s t x.pa x.bytes ∧ (getDir t (s.site / 8)).host = false ∧
        (∀ q, x.dec = some q → (x.cluster, Instr.tcbDecrement q.1 q.2.1 q.2.2.1 (.stc q.2.2.2)) ∈ t.agenda) ∧
        (getDie t d).held = (getDie s d).held.filter (fun y => y.pa / 64 != s.site))) ∧
  (∀ (s : State) (d pa : Nat) (wide : Bool) (op : BitVec 4) (x y : W64), let n := if wide then 8 else 4
    AtHome s pa n → (rdcGet s d (pa / 64)).mask = 0 →
    ∃ t, exec (.homeAtomic d pa wide op x y) s = .next t ∧ t.teams = s.teams ∧
      StoredAt s t pa n (atomNew (8 * n) op.toNat (BitVec.ofNat (8 * n) (leNat ((span pa n).map (byteAt s)))) (x.setWidth (8 * n)) (y.setWidth (8 * n))).toNat) ∧
  (∀ (s : State) (d line : Nat), d < 4 → HomeOpen s line →
    (∃ t, exec (.homeWriteback d line) s = .next t ∧ WrittenBack s t d line ∧ t.teams = s.teams) ∧
    (∃ t, exec (.rdcPull d line) s = .next t ∧ WrittenBack s t d line ∧ t.teams = s.teams) ∧
    ∃ t, exec (.rdcDrainTimer d line) s = .next t ∧ WrittenBack s t d line ∧ t.teams = s.teams) ∧
  (∀ (s : State) (d region : Nat), d < 4 → (getDie s (homeDie (region * 512))).dir.length < 24 →
    ((∃ p ∈ (getDie s d).rdc, p.1 / 8 = region ∧ p.2.mask ≠ 0) → ∃ t, exec (.dirtyNotice d region) s = .next t ∧ t.mem = s.mem ∧ t.waves = s.waves ∧
      bit (getDir t region).rdcp d = true ∧ bit (getDir t region).rdcd d = true) ∧
    ((∀ p ∈ (getDie s d).rdc, p.1 / 8 = region → p.2.mask = 0) → exec (.dirtyNotice d region) s = .next s)) ∧
  (∀ (s : State) (c region : Nat) (mask : BitVec 8) (keep : Option Nat),
    ∃ t, exec (.clusterProbe c region mask keep) s = .next t ∧ t.mem = s.mem ∧ t.waves = s.waves ∧ ∀ k line u, u < 5 →
      bit (aget 0 (getCluster t k).filter line) u =
        (bit (aget 0 (getCluster s k).filter line) u && !(decide (k = c ∧ line / 8 = region ∧ keep ≠ some u) && bit mask (line % 8)))) ∧
  (∀ (s : State) (d line : Nat), ∃ t, exec (.rdcInvalidate d line) s = .next t ∧ t.mem = s.mem ∧ t.waves = s.waves ∧ (rdcGet t d line).filled = false ∧
    (rdcGet t d line).mask = (rdcGet s d line).mask ∧ ((rdcGet s d line).mask ≠ 0 → (rdcGet t d line).bytes = (rdcGet s d line).bytes) ∧
    ∀ e k, e ≠ d ∨ k ≠ line → rdcGet t e k = rdcGet s e k) ∧
  (∀ (s : State) (line : Nat), let h := homeDie (line * 64)
    (∀ x ∈ (getDie s h).held, x.pa / 64 ≠ line) → Untraced s h →
    (∀ c, ∃ t, exec (.probeTimeout (.cluster c) line) s = .next t ∧ t.mem = s.mem ∧ Logged s t h 2 (c / 8 % 8) (line * 64) ∧ (getCluster t c).failed = true ∧
      (getCluster t c).filter = [] ∧ (∀ f ∈ (getDie t (c / 64)).fills, f.cluster = c → if f.forRdc then f.unit = 5 else f.invalidated = true) ∧
      (∀ k ∈ ctxsOn s c, (getCtx t k).stat = .stopped ∧ (∀ e ∈ (getCluster t c).copyQ ++ (getCluster t c).pubQ ++ (getCluster t c).collQ, e.ctx ≠ k) ∧
        ∀ e < 4, ∀ q ∈ (getDie t e).slots, q.2.ctx ≠ k) ∧ t.waves = s.waves.map (fun w => if w.ctx ∈ ctxsOn s c then { w with halted := true } else w)) ∧
    (∀ d < 4, ∃ t, exec (.probeTimeout (.rdc d) line) s = .next t ∧ t.mem = s.mem ∧ t.waves = s.waves ∧ Logged s t h 2 d (line * 64) ∧ (getDie t d).rdc = [] ∧ (getDie t d).rdcFenced = true ∧
      ∀ k, k ∈ t.poison ↔ k ∈ s.poison ∨ ∃ p ∈ (getDie s d).rdc, p.1 = k ∧ p.2.mask ≠ 0) ∧
    ((∀ d < 4, (getDie s d).held = [] ∧ (getDie s d).peerQ = []) → ∃ t, exec (.probeTimeout .host line) s = .next t ∧ t.mem = s.mem ∧ t.waves = s.waves ∧ Logged s t h 2 8 (line * 64) ∧
      t.regs.hostFenced = true ∧ ∀ r, (getDir t r).host = false)) ∧
  ∀ (s : State) (ctx pa : Nat) (key value : W32), let d := homeDie pa
    ((getDie s d).buf.filter (fun c => !c.spilled)).length < 65536 →
    ∃ t, exec (.atomoAccept ctx pa key value) s = .next t ∧ t.mem = s.mem ∧ t.waves = s.waves ∧
      (getDie t d).buf = (getDie s d).buf ++ [Contribution.mk ctx pa key value (getDie s d).bufPos false]

/-- PEER_ACCESS, HOST_MEM_READ and _WRITE, PGRESP, the PCTL events, TEAM_RESUME_PLACE, GDOOR, QNC, DISPATCH, FUNCMODE_WRITE, PRQBASE_WRITE, RESETCTL,
ERRLOG_CLEAR, STATUS_ACCERR_CLEAR, ATTESTATION and HOST_REGISTER_WRITE (R63, R64, R342, R347, R348, R360 to R375), each for the case its clause names.
The model's own: memory after a reset (log 45), what a malformed access does and the bounds of LOGN (log 46), that a discarded page answer leaves no
request (log 21), what counts as resident work (log 83), and that a GO while BUSY is 1 changes nothing (log 84). -/
def Obligations.HostEvents : Prop :=
  (∀ (s : State) (pa size : Nat) (bs : List Byte) (wide : Bool) (op : BitVec 4) (x y : W64) (port : Nat), pa < 2 ^ 39 → (getDie s (homeDie pa)).peerQ = [] →
    let peer (op : PeerOp) : Instr := .peerAccess { port, pa, op }
    ((∀ k < size, AtHome s (pa + k) 1) → (∃ t, exec (peer (.read size)) s = .next t ∧ t.mem = s.mem ∧ t.waves = s.waves) ∧
      (6 ≤ s.regs.stage → s.regs.hostFenced = false → (∀ d < 4, (getDie s d).dir.length + size / 512 + 2 ≤ 24) →
        ∃ t, exec (.hostMemRead pa size) s = .next t ∧ t.mem = s.mem ∧ t.waves = s.waves ∧ ∀ k < size, (getDir t ((pa + k) / 512)).host = true)) ∧
    (AtHome s pa bs.length → (∃ t, exec (peer (.write bs)) s = .next t ∧ PutBytes s t pa bs ∧ t.teams = s.teams) ∧
      (6 ≤ s.regs.stage → s.regs.hostFenced = false → ∃ t, exec (.hostMemWrite pa bs) s = .next t ∧ PutBytes s t pa bs ∧ t.teams = s.teams)) ∧
    (let n := if wide then 8 else 4
     AtHome s pa n → ∃ t, exec (peer (.atomic wide op x y)) s = .next t ∧ t.teams = s.teams ∧
      StoredAt s t pa n (atomNew (8 * n) op.toNat (BitVec.ofNat (8 * n) (leNat ((span pa n).map (byteAt s)))) (x.setWidth (8 * n)) (y.setWidth (8 * n))).toNat)) ∧
  (∀ (s : State) (k d : Nat) (v : W64) (q : PageReq), 7 ≤ s.regs.stage → tagDie s (v.extractLsb' 48 16).toNat = some (d, q) →
    let good := (q.ctxid.extractLsb' 16 12 = v.extractLsb' 36 12 ∧ q.ctxid.extractLsb' 0 16 = v.extractLsb' 20 16) ∧ (getCtx s q.ctx).ctxid = q.ctxid ∧
      (getCtx s q.ctx).stat ≠ .killed
    (good → (v.getLsbD 19 = false ∨ ∀ w ∈ s.waves, w.log = [] ∧ ∀ l ∈ w.lanes, ∀ k, l.st ≠ .waiting (.data k)) →
      exec (.pgresp k v) s = .next { s with dies := aset d { getDie s d with reqs := (getDie s d).reqs.map (fun y => if y = q then { y with answer := some (v.getLsbD 19) } else y) } s.dies }) ∧
    (¬ good → exec (.pgresp k v) s = .next { s with dies := aset d { getDie s d with reqs := (getDie s d).reqs.filter (fun y => y ≠ q) } s.dies })) ∧
  (∀ (s : State) (v : W64) (h : Nat), PctlFree s v h →
    ((getCtx s h).stat = .live → (getCtx s h).csa.getLsbD 0 = true → hasWork s h = true → ctxSlots s h = [] → (getCtx s h).saved.pinned = [] →
      (s.waves.map (·.id)).Nodup → (∀ w ∈ s.waves, w.ctx = h → w.log = []) → stillRuns s h = false →
      (∀ e ∈ s.agenda ++ s.stalled, e.2 ≠ .teamAdmit) → (∀ d < 4, (getDie s d).held = [] ∧ (getDie s d).rdc = [] ∧ ∀ p ∈ (getDie s d).dir, p.2.host = false) → Untraced s 0 →
      ∃ t, exec (.pctlPreempt v) s = .next t ∧ t.regs.pctl = pctlRunning 1 v ∧ (0, Instr.pctlDone) ∈ t.agenda ∧ (getCtx t h).stat = .saved ∧
        (getCtx t h).saved.waves = (s.waves.filter (fun w => w.ctx == h)).map savedWave ∧
        t.waves.map (·.id) = (s.waves.filter (fun w => w.ctx != h)).map (·.id) ∧ t.teams.map (·.id) = (s.teams.filter (fun x => x.ctx != h)).map (·.id)) ∧
    ((getCtx s h).stat = .live → (getCtx s h).csa.getLsbD 0 = true → hasWork s h = true → stillRuns s h = true →
      ∃ t, exec (.pctlPreempt v) s = .next t ∧ t.regs.pctl = pctlRunning 1 v ∧ (1, Instr.pctlPreempt v) ∈ t.stalled ∧ (getCtx t h).stat = .preempting ∧ t.waves = s.waves ∧ t.mem = s.mem) ∧
    (((getCtx s h).stat ≠ .live ∨ (getCtx s h).csa.getLsbD 0 = false ∨ hasWork s h = false) → ∃ t, exec (.pctlPreempt v) s = .next t ∧ Ended s t true ∧ t.waves = s.waves) ∧
    ((getCtx s h).stat = .saved → ∃ t, exec (.pctlResume v) s = .next t ∧ t.regs.pctl = pctlRunning 2 v ∧ (h, Instr.teamResumePlace) ∈ t.agenda ∧
      (getCtx t h).stat = .resuming ∧ (getCtx t h).saved = (getCtx s h).saved ∧ t.waves = s.waves) ∧
    ((getCtx s h).stat ≠ .saved → ∃ t, exec (.pctlResume v) s = .next t ∧ Ended s t true ∧ t.waves = s.waves) ∧
    ∃ t, exec (.pctlKill v) s = .next t ∧ t.regs.pctl = pctlRunning 3 v ∧ (0, Instr.pctlDone) ∈ t.agenda ∧ (getCtx t h).stat = .killed ∧
      t.waves = s.waves.filter (fun w => w.ctx != h) ∧ t.grids = s.grids.filter (fun g => g.ctx != h) ∧ t.teams.map (·.id) = (s.teams.filter (fun x => x.ctx != h)).map (·.id) ∧
      t.mem = s.mem) ∧
  (∀ (s : State), ∃ t, exec .pctlDone s = .next t ∧ Ended s t false ∧ t.waves = s.waves ∧ t.mem = s.mem) ∧
  (∀ (s s1 : State) (tm : Team) (w : Wave), let h := s.site
    (getCtx s h).stat = .resuming → (getCtx s h).saved = { teams := [tm], waves := [w] } → tm.gang = none → tm.cluster < 256 → w.team = tm.id → w.log = [] → (∀ x ∈ s.waves, x.team ≠ tm.id) → (∀ x ∈ s.teams, x.id ≠ tm.id) →
    tm.arr.tcon = none → tm.again = none → tm.againRing = none → seatTeam tm [w] tm.cluster s = some s1 →
    ∃ t u k, exec .teamResumePlace s = .next t ∧ (getCtx t h).stat = .live ∧ (getCtx t h).saved = {} ∧ t.teams = s.teams ++ [tm] ∧ t.mem = s.mem ∧
      t.waves = s.waves ++ [{ w with cluster := tm.cluster, unit := u, slot := k }] ∧ (s.regs.pctl.getLsbD 32 = true → (0, Instr.pctlDone) ∈ t.agenda)) ∧
  (∀ (s : State) (v : W64), 7 ≤ s.regs.stage → s.regs.gstat.getLsbD 63 = false →
    let name := ctxByPair s (v.extractLsb' 16 12).toNat (v.extractLsb' 0 16).toNat
    (name = none → ∃ t, exec (.gdoor v) s = .next t ∧ t.regs.gstat = 3 ∧ t.msix = 2 :: s.msix ∧ t.mem = s.mem ∧ t.waves = s.waves) ∧
    ∀ h, name = some h →
      let obj := s.regs.gobj
      let c := windowNumOf s h (obj + 24) 8
      let np := c / 2 ^ 28 % 8
      QuietOf s h 0 obj 128 → obj.toNat % 128 = 0 → graphOk (windowNumOf s h obj 64) = true → s.regs.gpatch = 0 → c / 2 ^ 31 % 2 = 1 →
      (np < 4 → ∃ t, exec (.gdoor v) s = .next t ∧ t.regs.gstat = 0 ∧ t.msix = 2 :: s.msix ∧ windowNumOf t h (obj + 24) 8 = c + 2 ^ 28) ∧
      (4 ≤ np → ∃ t, exec (.gdoor v) s = .next t ∧ t.regs.gstat = 1 ∧ t.msix = 2 :: s.msix ∧ SameBytes s t)) ∧
  (∀ (s : State) (d k : Nat) (v : W64), 7 ≤ s.regs.stage → k < 256 → (∀ e ∈ (getDie s d).regs.qncQ, e.1 ≠ k) →
    let name := ctxByPair s (v.extractLsb' 32 12).toNat (v.extractLsb' 48 16).toNat
    (name = none → ∃ t, exec (.qnc d k v) s = .next t ∧ k ∈ (getDie t d).regs.qncErr ∧ t.mem = s.mem ∧ t.waves = s.waves) ∧
    ∀ h q, name = some h → getSlot s d k = some q → q.ctx = h → q.desc = aget 0 (getDie s d).regs.qna k →
      ∃ t, exec (.qnc d k v) s = .next t ∧ k ∉ (getDie t d).regs.qncErr ∧ t.mem = s.mem ∧ t.waves = s.waves ∧ (d, Instr.qmDecision) ∈ t.agenda ∧
        (getSlot t d k).map (·.tail) = some (q.tail + v.setWidth 32)) ∧
  (∀ (s : State) (d : Nat) (v : W64), 7 ≤ s.regs.stage →
    let k := (v.extractLsb' 0 8).toNat
    let cl := 64 * d + (v.extractLsb' 8 6).toNat
    (s.regs.funcmode.getLsbD 0 = false → exec (.dispatch d v) s = .next (accErr d s)) ∧
    (s.regs.funcmode.getLsbD 0 = true → ∀ q team, getSlot s d k = some q → (getCtx s q.ctx).stat = .live → sharesAllow s d k q = true → canLaunch s q cl = true →
      q.cart = false → queueTeam s q cl = some team →
      ∃ t, exec (.dispatch d v) s = .next t ∧ t.waves = s.waves ∧ t.mem = s.mem ∧ (cl, Instr.couplerAccept) ∈ t.agenda ∧
        let n := Nat.min (Nat.min (Nat.min (v.extractLsb' 16 8).toNat (unclaimed s d k q)) 128) (shareOf q.cart q.maxsh - heldSoon s d k)
        (getCluster t cl).qmQ = (getCluster s cl).qmQ ++ [{ slot := k, team, left := n }])) ∧
  (∀ (s : State) (v : W64), 7 ≤ s.regs.stage →
    (s.waves ≠ [] → exec (.funcmodeWrite v) s = .next (accErr 0 s)) ∧
    (s.waves = [] → (∀ p ∈ s.ctxs, hasWork s p.1 = false ∧ p.2.stat ≠ .saved ∧ p.2.stat ≠ .preempting ∧ p.2.stat ≠ .resuming) →
      exec (.funcmodeWrite v) s = .next { s with regs := { s.regs with funcmode := v &&& 7 } }) ∧
    (∀ d, (∀ q ∈ (getDie s d).reqs, q.posted = true) →
      let n := (v.extractLsb' 1 5).toNat
      ∃ t, exec (.prqbaseWrite d v) s = .next t ∧ t.mem = s.mem ∧ t.waves = s.waves ∧ (getDie t d).reqs = (getDie s d).reqs ∧
        (getDie t d).regs.prqbase = (v &&& 0xFFFFFFFFF001) ||| BitVec.ofNat 64 (2 * Nat.max 4 (Nat.min 16 n))) ∧
    (v.toNat % 256 = 0xA5 → ∃ t, exec (.resetctl v) s = .next t ∧ Booted s.flash 1 s t) ∧ (v.toNat % 256 ≠ 0xA5 → exec (.resetctl v) s = .next s) ∧
    (∀ d, (v.msb = true → ∃ t, exec (.errlogClear d v) s = .next t ∧ (getDie t d).regs.errlog = (getDie s d).regs.errlog &&& 0x7FFFFFFFFFFFFFFF ∧
        (getDie t d).regs.mchk = false ∧ t.waves = s.waves ∧ t.mem = s.mem) ∧
      (v.msb = false → exec (.errlogClear d v) s = .next s) ∧
      (v.getLsbD 7 = true → ∃ t, exec (.statusAccerrClear d v) s = .next t ∧ (getDie t d).regs.accerr = false ∧ t.waves = s.waves ∧ t.mem = s.mem) ∧
      (v.getLsbD 7 = false → exec (.statusAccerrClear d v) s = .next s)) ∧
    (let a := (s.regs.attbuf.extractLsb' 12 36).toNat * 4096
     v.getLsbD 0 = true → (s.regs.attctl.getLsbD 1 = false → ∃ t, exec (.attestation v) s = .next t ∧ t.regs.attctl.getLsbD 1 = true ∧ (1, Instr.attestation v) ∈ t.agenda ∧
        t.mem = s.mem ∧ t.waves = s.waves) ∧
      (s.regs.attctl.getLsbD 1 = true → s.site ≠ 1 → exec (.attestation v) s = .next s) ∧
      (s.regs.attctl.getLsbD 1 = true → s.site = 1 → s.regs.attnonce.length = 8 → (∀ k < 7507, HomeQuiet s (homeDie (a + k)) (a + k) ∧ exists_ s (a + k) = true ∧ (rdcGet s 0 ((a + k) / 64)).mask = 0) →
      ∃ t, exec (.attestation v) s = .next t ∧ t.msix = 5 :: s.msix ∧ t.regs.attctl.getLsbD 1 = false ∧ leNat ((span a 8).map (byteAt t)) = 1 ∧
        leNat ((span (a + 8) 8).map (byteAt t)) = s.clock % 2 ^ 64 ∧ leNat ((span (a + 16) 8).map (byteAt t)) = 0x00040001 ∧
        leNat ((span (a + 24) 8).map (byteAt t)) = statusReg s 0 % 2 ^ 64 ∧ (∀ j < 8, leNat ((span (a + 32 + 8 * j) 8).map (byteAt t)) = (nth 0 s.regs.attnonce j).toNat) ∧
        (span (a + 96) 192).map (byteAt t) = digest (s.boot.firmware.flatMap recordBytes) ++ digest (recordBytes s.boot.config) ++ digest (recordBytes s.boot.certificate) ∧
        ∀ q, q < a ∨ a + 7507 ≤ q → byteAt t q = byteAt s q))) ∧
  ∀ (s : State) (d off : Nat) (x : W64),
    exec (.hostRegisterWrite (.malformedRead d off)) s = .next s ∧ exec (.hostRegisterWrite (.malformedWrite d off)) s = .next (accErr d s) ∧
    (let does (die off : Nat) (e : Instr) : Prop := exec (.hostRegisterWrite (.write die off x)) s = exec e { s with site := 0 }
     does d 0x008 (.statusAccerrClear d x) ∧ does 0 0x010 (.resetctl x) ∧ does d 0x018 (.errlogClear d x) ∧ does d 0x020 (.prqbaseWrite d x) ∧
      does d 0x038 (.pgresp d x) ∧ does 0 0x060 (.gdoor x) ∧ does 0 0x078 (.funcmodeWrite x) ∧ does 0 0x0E8 (.attestation x) ∧ does d 0x0F8 (.dispatch d x) ∧
      (x.extractLsb' 30 2 = 1 → does 0 0x040 (.pctlPreempt x)) ∧ (x.extractLsb' 30 2 = 2 → does 0 0x040 (.pctlResume x)) ∧
      (x.extractLsb' 30 2 = 3 → does 0 0x040 (.pctlKill x)) ∧ ∀ k < 256, does d (0x1008 + 16 * k) (.qnc d k x)) ∧
    exec (.hostRegisterWrite (.write d 0x110 x)) s = exec (if x.getLsbD 0 then .blddoneHandback else .blddoneArrive) { s with site := d } ∧
    (7 ≤ s.regs.stage → exec (.hostRegisterWrite (.write 0 0x050 x)) s = .next { s with regs := { s.regs with gobj := x } } ∧
      exec (.hostRegisterWrite (.write 0 0x048 x)) s = .next { s with regs := { s.regs with pooltab := x &&& 0xFFFFFFFFF000 } })

/-- CORRECTED_ERROR, UNCORRECTABLE_ERROR, UNIT_FAILURE, POWER_ON, THERMAL_TRIP, POWER_GATING, CLUSTER_CLOCK_STOP, FLIT_CRC_FAIL, LINK_LANE_FAIL,
HOST_WRITE_COMPLETION and UNASSIGNED_MAJOR. The model's own: that the thermal trip stands in the log of die 0 and a later event replaces an earlier
one in ERRLOG (log 79), that memory is empty after a trip and a boot (log 45), what of a record stops the boot where, how a spare stands for a unit
(log 76), and which contexts have work on a cluster (log 85). A completion of a host write has nothing left to do, as each is performed or fails at
its issue (log 46). -/
def Obligations.ErrorsAndPower : Prop :=
  (∀ (s : State) (d : Nat) (u : BitVec 4) (a : BitVec 52), ∃ t, exec (.correctedError d u a) s = .next t ∧ Logged s t d 0 u.toNat a.toNat ∧ t.mem = s.mem ∧ t.waves = s.waves ∧
    t.msix = s.msix ∧ t.poison = s.poison) ∧
  (∀ (s : State), let d := homeDie (s.site * 64)
    Untraced s d → ∃ t, exec .uncorrectableError s = .next t ∧ Logged s t d 1 0 (s.site * 64) ∧ t.mem = s.mem ∧ t.waves = s.waves ∧ ∀ k, k ∈ t.poison ↔ k = s.site ∨ k ∈ s.poison) ∧
  (∀ (s : State) (d c : Nat), s.site = 0 → Untraced s d → ctxsOn s c = [] →
    (s.regs.funcmode.getLsbD 2 = true → ∃ t, exec (.unitFailure d (.cluster c)) s = .next t ∧ Logged s t d 3 (c / 8 % 8) c ∧ t.clusters = s.clusters ∧ t.waves = s.waves ∧ t.mem = s.mem) ∧
    (s.regs.funcmode.getLsbD 2 = false → ∃ t, exec (.unitFailure d (.cluster c)) s = .next t ∧ Logged s t d 3 (c / 8 % 8) c ∧ t.waves = s.waves ∧ t.mem = s.mem ∧
      (if spareLeft s d (.cluster c) then t.clusters = s.clusters ∧ (getDie t d).spared = FailUnit.cluster c :: (getDie s d).spared
       else t.clusters = aset c { getCluster s c with failed := true } s.clusters))) ∧
  (∀ (s : State) (d c h : Nat), s.site = 0 → Untraced s d → ctxsOn s c = [h] → (getCtx s h).stat = .live → (getCtx s h).csa.getLsbD 0 = true → s.regs.pctl.getLsbD 32 = false →
    stillRuns s h = true →
    ∃ t, exec (.unitFailure d (.cluster c)) s = .next t ∧ Logged s t d 3 (c / 8 % 8) c ∧ t.waves = s.waves ∧ t.mem = s.mem ∧ (getCtx t h).stat = .preempting ∧
      t.regs.pctl = BitVec.ofNat 64 (2 ^ 32 + 2 ^ 30 + (getCtx s h).ctxid.toNat % 2 ^ 28) ∧ (1, Instr.unitFailure d (.cluster c)) ∈ t.stalled) ∧
  (∀ (s : State) (cfg : BootCfg), ∃ t, exec (.powerOn cfg) s = .next t ∧ Booted cfg 0 s t) ∧
  (∀ (s : State), ∃ t, exec .thermalTrip s = .next t ∧ t.waves = [] ∧ t.teams = [] ∧ t.mem = [] ∧ t.ctxs = [] ∧ t.flash = s.flash ∧ t.boot = establish (bootStage s.flashMin s.flash) s.flash ∧
    t.regs.cause = 2 ∧
    (getDie t 0).regs.errlog = 0xC000000000000000 ∧ (getDie t 0).regs.mchk = true ∧ 1 ∈ t.msix) ∧
  (∀ (s : State) (d : Nat) (x : BitVec 2), ∃ t, exec (.powerGating d x) s = .next t ∧ (getDie t d).regs.pwr = x.toNat ∧ t.mem = s.mem ∧ t.waves = s.waves ∧ t.clusters = s.clusters ∧
    ∀ e, e ≠ d → getDie t e = getDie s e) ∧
  (∀ (s : State) (c : Nat),
    ((∃ x ∈ s.teams, x.cluster = c ∧ x.retired = false) → exec (.clusterClockStop c true) s = .next s) ∧
    ((∀ x ∈ s.teams, x.cluster = c → x.retired = true) → (getDie s (c / 64)).rdc = [] → exec (.clusterClockStop c true) s = .next { s with clusters := aset c { getCluster s c with stopped := true } s.clusters }) ∧
    exec (.clusterClockStop c false) s = .next { s with clusters := aset c { getCluster s c with stopped := false } s.clusters }) ∧
  (∀ (s : State), exec .flitCrcFail s = .next s ∧ exec .hostWriteCompletion s = .next s ∧ (Untraced s (s.site / 16 % 4) → exec .linkLaneFail s = .next s)) ∧
  ∀ (s : State) (x : W32), Issues s → Handles s →
    exec (.unassignedMajor x) s = .next (issueUpd id (fun l =>
      enter s 1 (BitVec.ofNat 64 ((curPc s).toNat / 4 % 4 * 2 ^ 32) ||| x.setWidth 64) (curPc s) s.cur.2 l) s)

/-- LOAD_RETURN, LOG_REPLAY, PAGE_WALK, WALK_COMPLETE, PAGE_COPY_DONE, ENGINE_HANDBACK, FP_PARK_ACTION, SUPV_POST_RETRY, REMOTE_RESPONSE,
REMOTE_ACCESS_TIMEOUT and PAGE_REQUEST_ROOM_RECHECK, each for the case its clause names. The model's reading: that who waited for a walk is told of
its end (log 61), where a hand-back is taken, in Parked lanes too (logs 36, 94), in which slot a released FP-parked lane goes on (log 23), and what
counts as an earlier access of a thread to a peer (log 49). -/
def Obligations.WaitingWorkReturns : Prop :=
  (∀ (s : State) (w : Wave) (o : MA) (idx : Nat) (l : Lane) (pa : Nat), s.site = w.id → alive l = true →
    (OneLogged s w o idx .data l pa → ∃ t, exec .loadReturn s = .next t ∧ LoadDone s t w o l pa) ∧
    (∀ tag, (∀ x, tag = some x → tagAnswer s x = some false) → OneLogged s w o idx (.page tag) l pa → ∃ t, exec .logReplay s = .next t ∧ LoadDone s t w o l pa)) ∧
  (∀ (s : State), let d := s.site
    (getDie s d).misses.length ≤ 64 → (∀ m ∈ (getDie s d).misses, m.cluster / 64 = d) →
    ((getDie s d).misses ≠ [] → (∀ j < 64, (getCluster s (64 * d + j)).missq = []) → ∃ t, exec .pageWalk s = .next t ∧ t.waves = s.waves ∧ t.mem = s.mem ∧
      (d, Instr.walkComplete) ∈ t.agenda ∧ (getDie t d).misses = (getDie s d).misses.map (fun x => { x with walking := true })) ∧
    (∀ j < 64, ∀ m, (getDie s d).misses = [] → (getCluster s (64 * d + j)).missq = [m] → m.cluster = 64 * d + j → (∀ i < 64, i ≠ j → (getCluster s (64 * d + i)).missq = []) →
      ∃ t, exec .pageWalk s = .next t ∧ t.waves = s.waves ∧ t.mem = s.mem ∧ (getCluster t (64 * d + j)).missq = [] ∧
        (d, Instr.walkComplete) ∈ t.agenda ∧ (getDie t d).misses = [{ m with walking := true }])) ∧
  (∀ (s s1 : State) (m : Miss) (x : Xl), (getDie s s.site).misses.find? (fun m => m.walking) = some m → (getDie s s.site).misses.length ≤ 1024 →
    let acc : Acc := if m.kind = 1 then .write else if m.kind = 2 then .fetch else .read
    walkNow { ctx := m.ctx, cluster := m.cluster, h := m.h, acc, va := canon52 (m.granule * 65536), size := 1, engine := true } s = (s1, x) →
    ∃ t, exec .walkComplete s = .next t ∧ t.waves = s1.waves ∧ t.mem = s1.mem ∧ t.stalled = [] ∧ (∀ e ∈ s1.stalled, e ∈ t.agenda) ∧
      (∀ y ∈ (getDie t s.site).misses, y ∈ (getDie s1 s.site).misses ∧ ¬ (y.ctx = m.ctx ∧ y.granule = m.granule)) ∧
      (∀ j < 64, ∀ y ∈ (getCluster t (64 * s.site + j)).missq, ¬ (y.ctx = m.ctx ∧ y.granule = m.granule)) ∧ ∀ q ∈ m.waits, (q.2, m.ctx, m.granule) ∈ t.walked) ∧
  (∀ (s : State) (c : PageCopy) (rest : List PageCopy), (getDie s s.site).copies = c :: rest → (∀ w ∈ s.waves, w.log = []) → (getDie s s.site).regs.prqbase.getLsbD 0 = false →
    let src := c.pte.toNat / 65536 % 2 ^ 32 * 65536
    c.frame % 65536 = 0 → c.frame < 2 ^ 39 → c.pteAddr % 8 = 0 → apart src 65536 c.frame 65536 → apart c.pteAddr 8 src 65536 → apart c.pteAddr 8 c.frame 65536 →
    (∀ k < 65536, HomeQuiet s (homeDie (src + k)) (src + k) ∧ HomeQuiet s (homeDie (c.frame + k)) (c.frame + k)) → HomeQuiet s (homeDie c.pteAddr) c.pteAddr →
    ∃ t, exec .pageCopyDone s = .next t ∧ (getDie t s.site).copies = rest ∧
      leNat ((span c.pteAddr 8).map (byteAt t)) = (c.pte.toNat % 65536 ||| c.frame ||| c.pte.toNat / 2 ^ 48 * 2 ^ 48 ||| 3) ∧
      ∀ a, ¬ (c.pteAddr ≤ a ∧ a < c.pteAddr + 8) → byteAt t a = if c.frame ≤ a ∧ a < c.frame + 65536 then byteAt s (a - c.frame + src) else byteAt s a) ∧
  (∀ (s : State) (h : Hand) (w : Wave) (l : Lane) (pc : W64), s.hands.find? (fun x => x.id == s.site) = some h → h.id = s.site →
    (handReady s h = false → exec .engineHandback s = .next s) ∧
    (handReady s h = true → s.waves.find? (fun x => x.id == h.cmd.wave) = some w → w.lanes = [l] → alive l = true → l.st ≠ .overflowed → l.id ∈ h.cmd.lanes → handlerPc s w.ctx = some pc →
      (s.waves.map (·.id)).Nodup → Untraced s (w.cluster / 64) →
      ∃ t, exec .engineHandback s = .next t ∧ t.mem = s.mem ∧ t.hands = s.hands.filter (fun x => x.id != h.id) ∧
        t.waves = s.waves.map (fun x => if x.id = w.id then { x with lanes := [{ l with
          tcause := tcauseWord h.trap l.h false 0 0, tval := h.trap.tval, tepc := l.pc, targ := h.trap.targ, h := true, pc := pc, chainPc := none, opPc := none, st := .ready, slot := l.slot }] } else x))) ∧
  (∀ (s : State) (w : Wave) (l : Lane), s.waves.find? (fun x => x.id == s.site) = some w → w.halted = false → (getCtx s w.ctx).stat = .live → w.lanes = [l] →
    l.st = .fpParked → l.held = false → l.targ ≠ 0 → s.posts = [] → QuietOf s w.ctx (w.cluster / 64) l.targ 8 → (s.waves.map (·.id)).Nodup → w.log = [] →
    let act := windowNumOf s w.ctx l.targ 8
    let after (k : Lane) : List Wave := s.waves.map (fun x => if x.id = w.id then { x with lanes := [k] } else x)
    (act = 0 → ∃ t, exec .fpParkAction s = .next t ∧ t.waves = s.waves ∧ t.mem = s.mem) ∧
    (act = 1 → ∃ t, exec .fpParkAction s = .next t ∧ t.waves = after { l with st := .ready, targ := 0, noFpe := true } ∧ t.mem = s.mem) ∧
    (act = 3 → ∃ t, exec .fpParkAction s = .next t ∧ t.waves = after { l with st := .exited, targ := 0 } ∧ t.mem = s.mem)) ∧
  (∀ (s : State) (p : Post), s.posts[s.site]? = some p → p.after = .nothing → postSaved s p = false → (getDie s (p.cluster / 64)).rdc = [] → p.msg < 2 ^ 256 →
    let x := (getCtx s p.ctx).supv
    let ring : W64 := ((x.extractLsb' 6 46).setWidth 52 <<< 6).signExtend 64
    let n := 2 ^ (x.extractLsb' 2 4).toNat
    let tail := windowNumOf s p.ctx ring 8
    let head := windowNumOf s p.ctx (ring + 8) 8
    let va := ring + BitVec.ofNat 64 (64 + 32 * (tail % n))
    let pa := windowPaOf s p.ctx va
    QuietOf s p.ctx (p.cluster / 64) ring 8 → QuietOf s p.ctx (p.cluster / 64) (ring + 8) 8 →
    (n ≤ (tail + 2 ^ 64 - head) % 2 ^ 64 → ∃ t, exec .supvPostRetry s = .next t ∧ t.posts = s.posts ∧ SameBytes s t) ∧
    ((tail + 2 ^ 64 - head) % 2 ^ 64 < n → (∀ k < 32, QuietOf s p.ctx (p.cluster / 64) (va + BitVec.ofNat 64 k) 1) →
      ∃ t, exec .supvPostRetry s = .next t ∧ t.posts = s.posts.take s.site ++ s.posts.drop (s.site + 1) ∧
        leNat ((span pa 32).map (byteAt t)) = p.msg ∧ windowNumOf t p.ctx ring 8 = (tail + 1) % 2 ^ 64 ∧
        ∀ a, ¬ (pa ≤ a ∧ a < pa + 32) → ¬ (windowPaOf s p.ctx ring ≤ a ∧ a < windowPaOf s p.ctx ring + 8) → byteAt t a = byteAt s a)) ∧
  (∀ (s : State) (i : Nat) (r : Remote), s.remote[i]? = some r → r.log = none → r.tcb = none → r.scatter = none →
    (∀ j < i, ∀ x, s.remote[j]? = some x → x.dev = r.dev → ofAgents x.who r.who = false) →
    (∀ a ok, r.agent = some a → agentWaits s a = true → ∃ t, exec (.remoteResponse i ok) s = .next t ∧ t.mem = s.mem ∧ t.peer = s.peer ∧ t.waves = s.waves ∧
      { agent := a, dev := r.dev, pa := r.pa, n := r.n, kind := r.kind, ok } ∈ t.answers ∧ t.remote = s.remote.take i ++ s.remote.drop (i + 1)) ∧
    (r.agent = none → exec (.remoteResponse i true) s = .next { s with remote := s.remote.take i ++ s.remote.drop (i + 1), peer := cellsWrite s.peer (r.dev * 2 ^ 48 + r.pa) r.bytes } ∧
    ((getCtx s r.ctx).supv.getLsbD 0 = false → exec (.remoteResponse i false) s = .next { s with remote := s.remote.take i ++ s.remote.drop (i + 1) } ∧
      (i = s.site → exec .remoteAccessTimeout s = .next { s with remote := s.remote.take i ++ s.remote.drop (i + 1) })))) ∧
  ∀ (s : State) (q : PageReq), let d := s.site
    (getDie s d).reqs = [q] → q.posted = false → q.kind < 3 → q.granule < 2 ^ 36 → (getDie s d).regs.prqbase.getLsbD 0 = true → Untraced s d → (getDie s d).rdc = [] →
    let r := (getDie s d).regs
    let n := 2 ^ (r.prqbase.extractLsb' 1 5).toNat
    let a := (r.prqbase.extractLsb' 12 36).toNat * 4096 + 16 * (r.prqtail.toNat % n)
    (n ≤ (r.prqtail - r.prqhead).toNat → exec .pageRequestRoomRecheck s = .next s) ∧
    ((r.prqtail - r.prqhead).toNat < n → HomeQuiet s d a → exists_ s a = true →
      ∃ t, exec .pageRequestRoomRecheck s = .next t ∧ (getDie t d).regs.prqtail = r.prqtail + 1 ∧ (getDie t d).reqs = [{ q with posted := true }] ∧ (8 * d) ∈ t.msix ∧
        StoredAt s t a 16 (leNat (reqBytes q)))

/-- A step of a subgroup whose PC names a word that decodes to a well-formed instruction outside a chain is exec of that instruction at the state after
the fetch, followed by what follows every instruction (afterIssue; commitIssue, by which an attempt that needs an answer of the host or of a peer
first only asks for it; finishIssue); an illegal word, or a wave-only instruction on a cart, traps every lane of the subgroup (an illegal RAST or
HIZUPD in the converged fallback, R265 and R278) with its word and index in TVAL and the PC in TEPC; of a chain none of whose later words has to wait,
all words run in the step (R140, R157); a step of an event is exec of the event (commitEvent likewise), and a step with nothing to do lets time pass.
That an illegal RAST traps only the lanes its guard selects (log 82), and that a chain's later words are tried first (log 97), are the model's
readings; that a PC which is no multiple of 4 names the word that holds its byte is its choice (log 86). -/
def Obligations.StepRunsDecoded : Prop :=
  (∀ (s s1 s2 : State) (k slot pa : Nat), FetchedAt s s1 s2 k slot pa →
    let s3 := cachedLine (curWave s1) pa s2
    let w := curWave s3
    let j := (curPc s3).toNat % 16 / 4
    let x := wordAt s2 pa j
    let t (code : Nat) : LaneTrap := { code, tval := BitVec.ofNat 64 (j * 2 ^ 32 + x.toNat), tepc := curPc s3 }
    let trap (code : Nat) : State := finishIssue k slot (commitIssue s1 (trapAll (t code) s3))
    let own := convergedIll x (wordAfter s2 pa j) s3
    let ill : State := if own = [] then trap 1 else finishIssue k slot (commitIssue s1 (convergeAll own (fun _ => t 1) s3))
    (∀ i, decode x (wordAfter s2 pa j) = .ok i → i.wf w.cart w.regs = true → bit x 31 = false → w.log = [] →
      (∀ u, use i = some u → u.waveOnly = true → w.cart = false) →
        step s = andThen (fun t => finishIssue k slot (commitIssue s3 (afterIssue i false s3 t))) (exec i s3)) ∧
    (∀ i u, decode x (wordAfter s2 pa j) = .ok i → use i = some u → i.wf w.cart w.regs = true → bit x 31 = false → u.waveOnly = true → w.cart = true → step s = .next (trap 3)) ∧
    (∀ i, decode x (wordAfter s2 pa j) = .ok i → i.wf w.cart w.regs = false → unassigned (majorOf x) = false → step s = .next ill) ∧
    (∀ e, decode x (wordAfter s2 pa j) = .error e → unassigned (majorOf x) = false → step s = .next ill) ∧
    (unassigned (majorOf x) = true → step s = andThen (fun t => finishIssue k slot (commitIssue s3 (afterIssue (.unassignedMajor x) false s3 t))) (exec (.unassignedMajor x) s3))) ∧
  (∀ (s s3 : State) (k slot : Nat) (i : Instr) (c : Bool) (rest : List ChainWord), nextMove (tick s) = .issue k slot →
    prepare k slot (startIssue (tick s)) = (s3, .run i c rest) →
    (rest = [] → step s = andThen (fun t => finishIssue k slot (commitIssue s3 (afterIssue i c s3 t))) (exec i s3)) ∧
    (rest ≠ [] → holdChain exec s3 rest = none → gathersChain exec s3 rest = false → ∀ t, runWords exec ((i, c) :: rest.map (fun y => (y.ins, y.c))) s3 = .next t →
      (∀ l ∈ (curWave t).lanes, l.chainPc = none) → step s = .next (finishIssue k slot (commitIssue s3 { t with chain := none })))) ∧
  (∀ (s : State) (site : Nat) (e : Instr), nextMove (tick s) = .event site e →
    let s1 := takeEvent site e (tick s)
    step s = andThen (fun t => settle true (commitEvent site e s1 t)) (exec e s1)) ∧
  ∀ (s : State), nextMove (tick s) = .idle → step s = .next (settle true (idleTick (tick s)))

/-- Whatever happens in a step (any instruction, trap or event), each wave ends settled: a lane whose MP names the packet of its PC has parked; parked
lanes have a partner that has not parked yet, or no slot to go on in; with an Overflowed lane every one of the 16 slots is held by a lane that is not
Parked. That a slot which Parked lanes alone hold counts as free for an Overflowed group is the model's reading (log 77). -/
def Obligations.SettledInvariant : Prop :=
  ∀ s t : State, Settled s → step s = .next t → Settled t

/-- Reset holds no wave and is settled; its memory is canonical, and every byte reads the 0 that the model chose (a DESIGN CHOICE, log 1); PCTL, STATUS,
HOSTMEM and the context registers hold their reset value 0, the other host registers the model's 0 (log 2). -/
def Obligations.ResetState : Prop :=
  let s := State.reset
  Settled s ∧ s.waves = [] ∧ Memory.wf s.mem = true ∧ (∀ a, byteAt s a = 0) ∧ s.clock = 0 ∧ s.regs.pctl = 0 ∧ s.regs.stage = 0 ∧ s.regs.cause = 0 ∧
    (∀ k, getCtx s k = {}) ∧ (∀ d, (getDie s d).regs = {}) ∧ (∀ c, (getCluster s c).cplTimeout = 0x400 ∧ (getTensor s c).holder = none) ∧ s.agenda = []
end

