-- ==== Sys2Proof/Machine/Chas.lean ====
section
/-! DEFINITION. The assembler chas beyond its text (R169 to R173): modifiers, the form it encodes an instruction in, the packets it places, and its
directives. Mnemonics and operands stand as constructors of Instr. -/

namespace Sys2Proof.Chas

open Sys2Proof Sys2Proof.Machine

/-! ### Modifiers (R170) -/

inductive Category where
  | size | type | rounding | ordering | scope | uniformity | other
deriving DecidableEq, Repr, Inhabited

/-- A modifier, by its spelling; `other` stands for those of a single instruction. -/
inductive Modifier where
  | b | h | w | d
  | u32 | i64 | f16 | bf16 | e4m3 | e5m2 | n8 | n4
  | rne | rz | ru | rd
  | acq | rel | ar
  | cl | die | pkg | h1 | h2 | h3 | h4 | sys
  | u
  | other (name : String)
deriving DecidableEq, Repr, Inhabited

def Modifier.category : Modifier → Category
  | .b | .h | .w | .d => .size
  | .u32 | .i64 | .f16 | .bf16 | .e4m3 | .e5m2 | .n8 | .n4 => .type
  | .rne | .rz | .ru | .rd => .rounding
  | .acq | .rel | .ar => .ordering
  | .cl | .die | .pkg | .h1 | .h2 | .h3 | .h4 | .sys => .scope
  | .u => .uniformity
  | .other _ => .other

/-- The value of a modifier's field (R91, R121, R160, R162, R163); the narrow types share TY 7, and `u` sets U. -/
def Modifier.code : Modifier → Nat
  | .b => 0 | .h => 1 | .w => 2 | .d => 3
  | .u32 => 1 | .i64 => 6 | .f16 => 2 | .bf16 => 3 | .e4m3 => 4 | .e5m2 => 5 | .n8 => 7 | .n4 => 7
  | .rne => 0 | .rz => 1 | .ru => 2 | .rd => 3
  | .acq => 1 | .rel => 2 | .ar => 3
  | .cl => 0 | .die => 1 | .pkg => 2 | .h1 => 3 | .h2 => 4 | .h3 => 5 | .h4 => 6 | .sys => 7
  | .u => 1
  | .other _ => 0

/-- Each category at most once, and no ordering without a scope nor a scope without an ordering; `scopeAlone` where the instruction's description gives a
scope alone. The instruction's own modifiers are its own matter. -/
def modifiersOk (scopeAlone : Bool) (ms : List Modifier) : Bool :=
  let cs := (ms.map Modifier.category).filter (· != .other)
  let once := cs.all (fun c => (cs.filter (· == c)).length == 1)
  let ord := cs.contains .ordering
  let scope := cs.contains .scope
  once && (!ord || scope) && (!scope || ord || scopeAlone)

/-! ### The first form that represents an instruction (R171) -/

/-- RG represents it: short-form classes, no modifier, and for an accumulating function its third source is D (R164). -/
def fitsRG (unary acc : Bool) (o : XR) : Bool :=
  o.kd == .v && o.ka == .v && (o.kb == .v || (o.kb == .w && !unary)) && (!unary || o.h.b == 0) && o.kc == .v
    && o.rc == (if acc then o.h.d else 0) && o.rm == .rne && o.ty == 0 && o.md == 0 && !o.h.x

def toRG (o : XR) : RG := { o.h with x := o.kb == .w }

/-- IM represents it: no guard, and the immediate in 11 bits. -/
def fitsIM (o : XI) : Bool := o.g == 0 && !o.n && decide (-1024 ≤ sgn 32 o.imm.toNat) && decide (sgn 32 o.imm.toNat ≤ 1023)

def toIM (o : XI) : IM := { c := o.c, d := o.d, a := o.a, imm := BitVec.ofNat 11 o.imm.toNat, k := o.k }

/-- IW represents it: no guard, no A, and the immediate in 17 bits. -/
def fitsIW (o : XI) : Bool := o.g == 0 && !o.n && o.a == 0 && decide (-65536 ≤ sgn 32 o.imm.toNat) && decide (sgn 32 o.imm.toNat ≤ 65535)

def toIW (o : XI) : IW := { c := o.c, d := o.d, imm := BitVec.ofNat 17 o.imm.toNat, k := o.k }

/-- The form that chas encodes a long instruction in; an instruction with one form is left alone. -/
def shortForm (i : Instr) : Instr :=
  let rg (o : XR) (f : RG → Instr) : Instr := if fitsRG false false o then f (toRG o) else i
  let un (o : XR) (f : RG → Instr) : Instr := if fitsRG true false o then f (toRG o) else i
  let acc (o : XR) (f : RG → Instr) : Instr := if fitsRG false true o then f (toRG o) else i
  let im (o : XI) (f : IM → Instr) : Instr := if fitsIM o then f (toIM o) else i
  let iw (o : XI) (f : IW → Instr) : Instr := if fitsIW o then f (toIW o) else i
  match i with
  | .add (.xr o) => rg o .addRg | .add (.xi o) => im o .addIm
  | .sub (.xr o) => rg o .subRg | .mul (.xr o) => rg o .mulRg | .mad o => acc o .madRg
  | .and (.xr o) => rg o .andRg | .and (.xi o) => im o .andIm
  | .or (.xr o) => rg o .orRg | .or (.xi o) => im o .orIm
  | .xor (.xr o) => rg o .xorRg | .xor (.xi o) => im o .xorIm
  | .andn (.xr o) => rg o .andnRg
  | .shl (.xr o) => rg o .shlRg | .shl (.xi o) => im o .shlIm
  | .shr (.xr o) => rg o .shrRg | .shr (.xi o) => im o .shrIm
  | .sra (.xr o) => rg o .sraRg | .sra (.xi o) => im o .sraIm
  | .min (.xr o) => rg o .minRg | .max (.xr o) => rg o .maxRg
  | .clz o => un o .clzRg | .ctz o => un o .ctzRg | .popc o => un o .popcRg | .mov o => un o .movRg
  | .movi o => iw o .moviIw | .movh o => iw o .movhIw
  | .fadd (.xr o) => rg o .faddRg | .fsub (.xr o) => rg o .fsubRg | .fmul (.xr o) => rg o .fmulRg | .ffma o => acc o .ffmaRg
  | .fmin (.xr o) => rg o .fminRg | .fmax (.xr o) => rg o .fmaxRg
  | .frcp o => un o .frcpRg | .frsq o => un o .frsqRg | .fsqrt o => un o .fsqrtRg | .fexp2 o => un o .fexp2Rg | .flog2 o => un o .flog2Rg
  | .fsin o => un o .fsinRg | .fcos o => un o .fcosRg
  | .shfl o => rg o .shflRg
  | i => i

/-! ### Source lines after their text is read (R169, R173) -/

/-- Integer expressions over numbers and names (R169). -/
inductive Expr where
  | num (x : Int)
  | name (n : String)
  | neg (a : Expr)
  | add (a b : Expr)
  | sub (a b : Expr)
  | mul (a b : Expr)
  | shl (a b : Expr)
deriving DecidableEq, Repr, Inhabited

/-- Why chas refuses a program. -/
inductive Refused where
  /-- a name that no label or .equ defines -/
  | unknownName (n : String)
  /-- a chain that breaks R157, or a register, field or class that traps ILLOP (R172) -/
  | illegal (cause : Nat)
  /-- a chain that no packet holds, or that a label or a directive cuts -/
  | chain
  /-- a branch target that is no packet address in reach (R160, R169) -/
  | target
  /-- a directive with a value outside its range, or in a section that it does not belong to (R173) -/
  | directive
  /-- a kernel without exactly one executor kind, without an entry, or a .wave kernel without its allocation (R173) -/
  | kernel
deriving DecidableEq, Repr, Inhabited

abbrev Names := List (String × Int)

def Names.get (e : Names) (n : String) : Except Refused Int :=
  match e.find? (fun p => p.1 == n) with
  | some p => .ok p.2
  | none => .error (.unknownName n)

/-- The value of an expression. -/
def Expr.value (e : Names) : Expr → Except Refused Int
  | .num x => .ok x
  | .name n => Names.get e n
  | .neg a => (a.value e).map (fun x => -x)
  | .add a b => (a.value e).bind (fun x => (b.value e).map (fun y => x + y))
  | .sub a b => (a.value e).bind (fun x => (b.value e).map (fun y => x - y))
  | .mul a b => (a.value e).bind (fun x => (b.value e).map (fun y => x * y))
  | .shl a b => (a.value e).bind (fun x => (b.value e).bind (fun y => if 0 ≤ y then .ok (x * 2 ^ y.toNat) else .error .directive))

/-- A decimal floating value: digits * 10^exponent. -/
structure Decimal where
  digits : Int
  exponent : Int
deriving DecidableEq, Repr, Inhabited

/-- Rounded by RNE (R169, R173). -/
def Decimal.encode (f : Fmt) (x : Decimal) : Nat :=
  (roundF f .rne (if 0 ≤ x.exponent then ratVal (x.digits * 10 ^ x.exponent.toNat) 1 0 else ratVal x.digits (10 ^ (-x.exponent).toNat) 0)).1

/-- The directives of R173 within a kernel. -/
inductive Directive where
  | entry (label : String)
  | wave
  | cart
  | regs (n : Expr)
  | lm (n : Expr)
  | text
  | data
  | align (n : Expr)
  | word (vs : List Expr)
  | half (vs : List Expr)
  | byte (vs : List Expr)
  | f32 (vs : List Decimal)
  | bf16 (vs : List Decimal)
  | space (n : Expr)
  | equ (name : String) (v : Expr)
deriving DecidableEq, Repr, Inhabited

/-- A transfer whose operand is a branch target (R202 to R204). -/
inductive Jump where
  | bra | call | setmeet
deriving DecidableEq, Repr, Inhabited

/-- What stands on a line beside its label. -/
inductive Body where
  | none
  | ins (i : Instr)
  | jump (k : Jump) (g : BitVec 4) (n u : Bool) (target : Expr)
  | dir (d : Directive)
deriving DecidableEq, Repr, Inhabited

/-- A source line (R169): its label, whether `|` chains it to the instruction before, and its body. -/
structure Line where
  label : Option String := none
  chained : Bool := false
  body : Body := .none
deriving DecidableEq, Repr, Inhabited

/-- A kernel's source: its name and the lines up to .end. -/
structure Source where
  name : String
  lines : List Line
deriving DecidableEq, Repr, Inhabited

/-! ### The kernel's head -/

/-- What the launch record of a kernel needs (R173, R306). -/
structure Head where
  cart : Bool
  regs : Nat
  lm : Nat
  entry : String
deriving DecidableEq, Repr, Inhabited

def directives (ls : List Line) : List Directive := ls.filterMap (fun l => match l.body with | .dir d => some d | _ => none)

/-- The head of a kernel (R173): exactly one kind, its allocation for .wave, its entry. -/
def headOf (e : Names) (ls : List Line) : Except Refused Head :=
  let ds := directives ls
  let kinds := ds.filter (fun d => d == .wave || d == .cart)
  let cart := kinds == [.cart]
  let rs := ds.filterMap (fun d => match d with | .regs n => some n | _ => none)
  let ms := ds.filterMap (fun d => match d with | .lm n => some n | _ => none)
  let es := ds.filterMap (fun d => match d with | .entry n => some n | _ => none)
  let lm : Except Refused Nat := match ms with
    | [] => .ok 0
    | [n] => (n.value e).bind (fun x => if 0 ≤ x ∧ x ≤ 2097152 then .ok x.toNat else .error .directive)
    | _ => .error .kernel
  let regs : Except Refused Nat := match cart, rs with
    | true, [] => .ok 64
    | false, [n] => (n.value e).bind (fun x => if 8 ≤ x ∧ x ≤ 64 ∧ x % 8 = 0 then .ok x.toNat else .error .directive)
    | _, _ => .error .kernel
  match es with
  | [entry] => if kinds.length = 1 then regs.bind (fun r => lm.map (fun m => { cart, regs := r, lm := m, entry })) else .error .kernel
  | _ => .error .kernel

/-! ### Placing (R172) -/

/-- What has been placed: the words of .text, the bytes of .data, the names, and the section. -/
structure Placed where
  text : List W32 := []
  data : List Byte := []
  names : Names := []
  inText : Bool := true
deriving DecidableEq, Repr, Inhabited

/-- Where the sections stand. -/
structure Bases where
  text : Nat
  data : Nat
deriving DecidableEq, Repr, Inhabited

/-- NOP, the padding of a packet. -/
def nopWord : W32 := 0x3F000000

def padWords (n : Nat) : List W32 := (span 0 n).map (fun _ => nopWord)

/-- The next packet of .text. -/
def newPacket (p : Placed) : Placed := { p with text := p.text ++ padWords ((4 - p.text.length % 4) % 4) }

/-- The words of one instruction in the form of R171, its bit C given. -/
def wordsOf (c : Bool) (i : Instr) : List W32 :=
  match encode (shortForm i) with
  | some (a, b) => setBit a 31 c :: b.toList
  | none => []

/-- The branch at a packet address to a target (R160). -/
def jumpTo (k : Jump) (g : BitVec 4) (n u : Bool) (packet target : Int) : Except Refused Instr :=
  let off := (target - packet) / 16
  let o : BR := { c := false, off := BitVec.ofInt 18 off, g, n, u }
  if target % 16 = 0 ∧ -131072 ≤ off ∧ off ≤ 131071 then .ok (match k with | .bra => .bra o | .call => .call o | .setmeet => .setmeet o)
  else .error .target

/-- The instructions of a chain, each with its target's offset from the packet that the chain stands in. -/
def resolve (e : Names) (packet : Int) : List Body → Except Refused (List Instr)
  | [] => .ok []
  | .ins i :: r => (resolve e packet r).map (fun is => i :: is)
  | .jump k g n u t :: r => (t.value e).bind (fun a => (jumpTo k g n u packet a).bind (fun i => (resolve e packet r).map (fun is => i :: is)))
  | _ :: _ => .error .chain

/-- The words of a chain: C in every instruction but the last. -/
def chainWords : List Instr → List W32
  | [] => []
  | [i] => wordsOf false i
  | i :: r => wordsOf true i ++ chainWords r

/-- How many words a body takes. -/
def sizeOf : Body → Nat
  | .ins i => (wordsOf false i).length
  | .jump .. => 1
  | _ => 0

/-- The chain that a line begins: its own body and those that `|` lines chain to it, and the lines after it. -/
def takeChain : List Line → List Body × List Line
  | [] => ([], [])
  | l :: r => if l.chained then let q := takeChain r; (l.body :: q.1, q.2) else ([], l :: r)

/-- Whether a label or a directive cuts the chain. -/
def cut (ls : List Line) : Bool :=
  match ls with
  | [] => false
  | l :: r => l.chained && (l.label.isSome || sizeOf l.body == 0 || cut r)

/-- A chain placed (R172): in a new packet if the rest of this one does not hold it. `final`: the names are complete, and what R157 and the forms forbid is
refused. -/
def placeChain (b : Bases) (h : Head) (final : Option Names) (bodies : List Body) (p : Placed) : Except Refused Placed :=
  let n := (bodies.map sizeOf).sum
  let p1 := if 4 < p.text.length % 4 + n then newPacket p else p
  if 4 < n then .error .chain
  else match final with
    | none => .ok { p1 with text := p1.text ++ padWords n }
    | some e =>
      let idx := p1.text.length % 4
      (resolve e (b.text + 4 * (p1.text.length - idx) : Nat) bodies).bind (fun is =>
        let ws := chainWords is
        match chainTrap h.cart (chainAt h.cart h.regs 4 ws idx) with
        | some (c, _) => if c = cILLEXEC then .ok { p1 with text := p1.text ++ ws } else .error (.illegal c)
        | none => .ok { p1 with text := p1.text ++ ws })

/-- Values of a data directive, n bytes each, lowest byte first. -/
def values (e : Names) (n : Nat) : List Expr → Except Refused (List Byte)
  | [] => .ok []
  | v :: r => (v.value e).bind (fun x =>
    if -(2 ^ (8 * n - 1) : Nat) ≤ x ∧ x < (2 ^ (8 * n) : Nat) then (values e n r).map (fun bs => leBytes n (wrap (8 * n) x) ++ bs) else .error .directive)

/-- A count of bytes that fits a section. -/
def countOf (e : Names) (x : Expr) : Except Refused Nat := (x.value e).bind (fun n => if 0 ≤ n ∧ n < 2 ^ 31 then .ok n.toNat else .error .directive)

/-- A directive placed (R173). `e`: the names that data values may use. -/
def placeDir (b : Bases) (final : Option Names) (d : Directive) (p : Placed) : Except Refused Placed :=
  let e := match final with | some e => e | none => p.names
  let zeros (n : Nat) : List Byte := (span 0 n).map (fun _ => 0)
  let put (n : Nat) (vs : List Expr) : Except Refused Placed :=
    if p.inText then .error .directive
    else match final with
      | none => .ok { p with data := p.data ++ zeros (n * vs.length) }
      | some _ => (values e n vs).map (fun bs => { p with data := p.data ++ bs })
  match d with
  | .entry _ | .wave | .cart | .regs _ | .lm _ => .ok p
  | .text => .ok { p with inText := true }
  | .data => .ok { p with inText := false }
  | .align x => (countOf p.names x).bind (fun n =>
      if n = 0 ∨ n ≠ 2 ^ Nat.log2 n then .error .directive
      else if p.inText then
        if n < 16 then .error .directive
        else let q := newPacket p; .ok { q with text := q.text ++ padWords ((n - (b.text + 4 * q.text.length) % n) % n / 4) }
      else .ok { p with data := p.data ++ zeros ((n - (b.data + p.data.length) % n) % n) })
  | .word vs => put 4 vs
  | .half vs => put 2 vs
  | .byte vs => put 1 vs
  | .f32 vs => if p.inText then .error .directive else .ok { p with data := p.data ++ vs.flatMap (fun x => leBytes 4 (x.encode .fp32)) }
  | .bf16 vs => if p.inText then .error .directive else .ok { p with data := p.data ++ vs.flatMap (fun x => leBytes 2 (x.encode .bf16)) }
  | .space x => if p.inText then .error .directive else (countOf p.names x).map (fun n => { p with data := p.data ++ zeros n })
  | .equ n v => (v.value p.names).map (fun x => { p with names := (n, x) :: p.names })

/-- A label's value: in .text the address of a new packet (R172), in .data the next byte's. -/
def placeLabel (b : Bases) (l : Option String) (p : Placed) : Placed :=
  match l with
  | none => p
  | some n =>
    if p.inText then let q := newPacket p; { q with names := (n, ((b.text + 4 * q.text.length : Nat) : Int)) :: q.names }
    else { p with names := (n, ((b.data + p.data.length : Nat) : Int)) :: p.names }

/-- The lines of a kernel placed, at most `fuel` of them. -/
def placeLines (b : Bases) (h : Head) (final : Option Names) : Nat → List Line → Placed → Except Refused Placed
  | 0, _, p => .ok p
  | _ + 1, [], p => .ok p
  | fuel + 1, l :: r, p =>
    let p1 := placeLabel b l.label p
    match l.body with
    | .none => if l.chained then .error .chain else placeLines b h final fuel r p1
    | .dir d => if l.chained then .error .chain else (placeDir b final d p1).bind (fun q => placeLines b h final fuel r q)
    | body =>
      let q := takeChain r
      if l.chained || cut r || !p1.inText then .error .chain
      else (placeChain b h final (body :: q.1) p1).bind (fun s => placeLines b h final fuel q.2 s)

/-- An assembled kernel. -/
structure Kernel where
  name : String
  head : Head
  /-- address of the entry packet -/
  entry : Int
deriving DecidableEq, Repr, Inhabited

/-- A kernel placed after what stands already, starting a packet (R173): once for its names, once for its words. -/
def placeKernel (b : Bases) (k : Source) (p : Placed) : Except Refused (Placed × Kernel) :=
  let p0 := { newPacket p with inText := true }
  (headOf p0.names k.lines).bind (fun h =>
    (placeLines b h none k.lines.length k.lines p0).bind (fun n =>
      (placeLines b h (some n.names) k.lines.length k.lines p0).bind (fun q =>
        (Names.get q.names h.entry).bind (fun a => if a % 16 = 0 then .ok (q, { name := k.name, head := h, entry := a }) else .error .kernel))))

/-- A program: its kernels in source order. -/
def assemble (b : Bases) : List Source → Placed → Except Refused (Placed × List Kernel)
  | [], p => .ok (p, [])
  | k :: r, p => (placeKernel b k p).bind (fun q => (assemble b r q.1).map (fun t => (t.1, q.2 :: t.2)))

end Sys2Proof.Chas
end

