-- ==== Sys2Proof/Laws/Chas.lean ====
section
/-! SUPPORT. The form that chas encodes an instruction in has the operands of the long form (R164, R171). -/

namespace Sys2Proof.Laws

open Sys2Proof Sys2Proof.Machine Sys2Proof.Chas

/-- RG in place of XR: the same record of operands, one word long (R164). -/
theorem toRG_rec (unary acc : Bool) (o : XR) (h : fitsRG unary acc o = true) : recRG acc (toRG o) = { recXR o with words := 1 } := by
  simp only [fitsRG, Bool.and_eq_true, beq_iff_eq, Bool.or_eq_true, Bool.not_eq_true'] at h
  obtain ⟨⟨⟨⟨⟨⟨⟨⟨⟨hd, ha⟩, hb⟩, hu⟩, hc⟩, hr⟩, hm⟩, ht⟩, hq⟩, hx⟩ := h
  have f : (if acc = true then o.h.d.toNat else 0) = o.rc.toNat := by rw [hr]; cases acc <;> rfl
  rcases hb with hb | ⟨hb, _⟩ <;> simp only [recRG, recXR, toRG, f, hd, ha, hb, hc, hm, ht, hq, hx] <;> rfl

theorem wrap11 (x : BitVec 32) (lo : -1024 ≤ sgn 32 x.toNat) (hi : sgn 32 x.toNat ≤ 1023) : sgn 11 (BitVec.ofNat 11 x.toNat).toNat = sgn 32 x.toNat := by
  have h := x.isLt
  simp only [BitVec.toNat_ofNat, sgn] at *
  omega

theorem wrap17 (x : BitVec 32) (lo : -65536 ≤ sgn 32 x.toNat) (hi : sgn 32 x.toNat ≤ 65535) :
    sgn 17 (BitVec.ofNat 17 x.toNat).toNat = sgn 32 x.toNat := by
  have h := x.isLt
  simp only [BitVec.toNat_ofNat, sgn] at *
  omega

/-- IM in place of XI. -/
theorem toIM_rec (o : XI) (h : fitsIM o = true) : recIM (toIM o) = { recXI o with words := 1 } := by
  simp only [fitsIM, Bool.and_eq_true, beq_iff_eq, Bool.not_eq_true', decide_eq_true_eq] at h
  obtain ⟨⟨⟨hg, hn⟩, lo⟩, hi⟩ := h
  simp only [recIM, recXI, toIM, wrap11 o.imm lo hi, hg, hn]
  rfl

/-- IW in place of XI. -/
theorem toIW_rec (o : XI) (h : fitsIW o = true) : recIW (toIW o) = { recXI o with words := 1 } := by
  simp only [fitsIW, Bool.and_eq_true, beq_iff_eq, Bool.not_eq_true', decide_eq_true_eq] at h
  obtain ⟨⟨⟨⟨hg, hn⟩, ha⟩, lo⟩, hi⟩ := h
  simp only [recIW, recXI, toIW, wrap17 o.imm lo hi, hg, hn, ha]
  rfl

end Sys2Proof.Laws
end

