-- ==== Sys2Proof/Laws/Decode.lean ====
section
/-! SUPPORT. The formats of an encoding and back (R160, R161, R165): the fields read from the word that holds them, and the word written from the
fields read from it. -/

namespace Sys2Proof.Laws

open Sys2Proof

theorem fld_eq {n len : Nat} (w : BitVec n) (lo : Nat) (x : BitVec len) (h : w.toNat / 2 ^ lo % 2 ^ len = x.toNat) : fld w lo len = x := by
  apply BitVec.eq_of_toNat_eq; rw [fld, BitVec.toNat_ofNat, h]

theorem bit_eq {n : Nat} (w : BitVec n) (i : Nat) (b : Bool) (h : w.toNat / 2 ^ i % 2 = b.toNat) : bit w i = b := by
  rw [bit, h]; cases b <;> rfl

theorem toNat_fld {n : Nat} (w : BitVec n) (lo len : Nat) : (fld w lo len).toNat = w.toNat / 2 ^ lo % 2 ^ len := BitVec.toNat_ofNat _ _

theorem toNat_bit {n : Nat} (w : BitVec n) (i : Nat) : (bit w i).toNat = w.toNat / 2 ^ i % 2 := by
  rw [bit]; rcases Nat.mod_two_eq_zero_or_one (w.toNat / 2 ^ i) with h | h <;> rw [h] <;> rfl

theorem code_cls (x : BitVec 2) : (Cls.ofCode x).code = x.toNat := by revert x; decide
theorem code_rm (x : BitVec 2) : (Rm.ofCode x).code = x.toNat := by revert x; decide
theorem code_ord (x : BitVec 2) : (Ord.ofCode x).code = x.toNat := by revert x; decide
theorem cls_lt (k : Cls) : k.code < 4 := by cases k <;> decide
theorem rm_lt (k : Rm) : k.code < 4 := by cases k <;> decide
theorem ord_lt (k : Ord) : k.code < 4 := by cases k <;> decide

theorem cls_eq {n : Nat} (w : BitVec n) (lo : Nat) (k : Cls) (h : w.toNat / 2 ^ lo % 4 = k.code) : Cls.ofCode (fld w lo 2) = k := by
  have e : fld w lo 2 = BitVec.ofNat 2 k.code := fld_eq w lo _ (by rw [BitVec.toNat_ofNat]; have := cls_lt k; omega)
  rw [e]; cases k <;> rfl

theorem rm_eq {n : Nat} (w : BitVec n) (lo : Nat) (k : Rm) (h : w.toNat / 2 ^ lo % 4 = k.code) : Rm.ofCode (fld w lo 2) = k := by
  have e : fld w lo 2 = BitVec.ofNat 2 k.code := fld_eq w lo _ (by rw [BitVec.toNat_ofNat]; have := rm_lt k; omega)
  rw [e]; cases k <;> rfl

theorem ord_eq {n : Nat} (w : BitVec n) (lo : Nat) (k : Ord) (h : w.toNat / 2 ^ lo % 4 = k.code) : Ord.ofCode (fld w lo 2) = k := by
  have e : fld w lo 2 = BitVec.ofNat 2 k.code := fld_eq w lo _ (by rw [BitVec.toNat_ofNat]; have := ord_lt k; omega)
  rw [e]; cases k <;> rfl

/-! ### RG -/

theorem rg_toNat (op : Nat) (h : op < 128) (o : RG) : (o.toWord op).toNat = o.x.toNat + 2 * o.n.toNat + 4 * o.g.toNat + 64 * o.b.toNat + 4096 * o.a.toNat + 262144 * o.d.toNat + 16777216 * op + 2147483648 * o.c.toNat := by
  obtain ⟨c, d, a, b, g, n, x⟩ := o
  have h0 := Bool.toNat_lt c
  have h1 := d.isLt
  have h2 := a.isLt
  have h3 := b.isLt
  have h4 := g.isLt
  have h5 := Bool.toNat_lt n
  have h6 := Bool.toNat_lt x
  simp only [RG.toWord, BitVec.toNat_ofNat]; omega

theorem rg_ofWord (op : Nat) (h : op < 128) (o : RG) : RG.ofWord (o.toWord op) = o := by
  have e := rg_toNat op h o
  obtain ⟨c, d, a, b, g, n, x⟩ := o
  dsimp only at e
  have h0 := Bool.toNat_lt c
  have h1 := d.isLt
  have h2 := a.isLt
  have h3 := b.isLt
  have h4 := g.isLt
  have h5 := Bool.toNat_lt n
  have h6 := Bool.toNat_lt x
  simp only [RG.ofWord, RG.mk.injEq]
  exact ⟨bit_eq _ _ _ (by rw [e]; omega), fld_eq _ _ _ (by rw [e]; omega), fld_eq _ _ _ (by rw [e]; omega), fld_eq _ _ _ (by rw [e]; omega), fld_eq _ _ _ (by rw [e]; omega), bit_eq _ _ _ (by rw [e]; omega), bit_eq _ _ _ (by rw [e]; omega)⟩

theorem rg_major (op : Nat) (h : op < 128) (o : RG) : majorOf (o.toWord op) = op := by
  rw [majorOf, rg_toNat op h o]
  obtain ⟨c, d, a, b, g, n, x⟩ := o
  have h0 := Bool.toNat_lt c
  have h1 := d.isLt
  have h2 := a.isLt
  have h3 := b.isLt
  have h4 := g.isLt
  have h5 := Bool.toNat_lt n
  have h6 := Bool.toNat_lt x
  dsimp only; omega

theorem rg_toWord (w : W32) : RG.toWord (majorOf w) (RG.ofWord w) = w := by
  apply BitVec.eq_of_toNat_eq
  have hw := w.isLt
  simp only [RG.toWord, RG.ofWord, majorOf, BitVec.toNat_ofNat, toNat_fld, toNat_bit]; omega

/-! ### IM -/

theorem im_toNat (op : Nat) (h : op < 128) (o : IM) : (o.toWord op).toNat = o.k.toNat + 2 * o.imm.toNat + 4096 * o.a.toNat + 262144 * o.d.toNat + 16777216 * op + 2147483648 * o.c.toNat := by
  obtain ⟨c, d, a, imm, k⟩ := o
  have h0 := Bool.toNat_lt c
  have h1 := d.isLt
  have h2 := a.isLt
  have h3 := imm.isLt
  have h4 := Bool.toNat_lt k
  simp only [IM.toWord, BitVec.toNat_ofNat]; omega

theorem im_ofWord (op : Nat) (h : op < 128) (o : IM) : IM.ofWord (o.toWord op) = o := by
  have e := im_toNat op h o
  obtain ⟨c, d, a, imm, k⟩ := o
  dsimp only at e
  have h0 := Bool.toNat_lt c
  have h1 := d.isLt
  have h2 := a.isLt
  have h3 := imm.isLt
  have h4 := Bool.toNat_lt k
  simp only [IM.ofWord, IM.mk.injEq]
  exact ⟨bit_eq _ _ _ (by rw [e]; omega), fld_eq _ _ _ (by rw [e]; omega), fld_eq _ _ _ (by rw [e]; omega), fld_eq _ _ _ (by rw [e]; omega), bit_eq _ _ _ (by rw [e]; omega)⟩

theorem im_major (op : Nat) (h : op < 128) (o : IM) : majorOf (o.toWord op) = op := by
  rw [majorOf, im_toNat op h o]
  obtain ⟨c, d, a, imm, k⟩ := o
  have h0 := Bool.toNat_lt c
  have h1 := d.isLt
  have h2 := a.isLt
  have h3 := imm.isLt
  have h4 := Bool.toNat_lt k
  dsimp only; omega

theorem im_toWord (w : W32) : IM.toWord (majorOf w) (IM.ofWord w) = w := by
  apply BitVec.eq_of_toNat_eq
  have hw := w.isLt
  simp only [IM.toWord, IM.ofWord, majorOf, BitVec.toNat_ofNat, toNat_fld, toNat_bit]; omega

/-! ### IW -/

theorem iw_toNat (op : Nat) (h : op < 128) (o : IW) : (o.toWord op).toNat = o.k.toNat + 2 * o.imm.toNat + 262144 * o.d.toNat + 16777216 * op + 2147483648 * o.c.toNat := by
  obtain ⟨c, d, imm, k⟩ := o
  have h0 := Bool.toNat_lt c
  have h1 := d.isLt
  have h2 := imm.isLt
  have h3 := Bool.toNat_lt k
  simp only [IW.toWord, BitVec.toNat_ofNat]; omega

theorem iw_ofWord (op : Nat) (h : op < 128) (o : IW) : IW.ofWord (o.toWord op) = o := by
  have e := iw_toNat op h o
  obtain ⟨c, d, imm, k⟩ := o
  dsimp only at e
  have h0 := Bool.toNat_lt c
  have h1 := d.isLt
  have h2 := imm.isLt
  have h3 := Bool.toNat_lt k
  simp only [IW.ofWord, IW.mk.injEq]
  exact ⟨bit_eq _ _ _ (by rw [e]; omega), fld_eq _ _ _ (by rw [e]; omega), fld_eq _ _ _ (by rw [e]; omega), bit_eq _ _ _ (by rw [e]; omega)⟩

theorem iw_major (op : Nat) (h : op < 128) (o : IW) : majorOf (o.toWord op) = op := by
  rw [majorOf, iw_toNat op h o]
  obtain ⟨c, d, imm, k⟩ := o
  have h0 := Bool.toNat_lt c
  have h1 := d.isLt
  have h2 := imm.isLt
  have h3 := Bool.toNat_lt k
  dsimp only; omega

theorem iw_toWord (w : W32) : IW.toWord (majorOf w) (IW.ofWord w) = w := by
  apply BitVec.eq_of_toNat_eq
  have hw := w.isLt
  simp only [IW.toWord, IW.ofWord, majorOf, BitVec.toNat_ofNat, toNat_fld, toNat_bit]; omega

/-! ### BR -/

theorem br_toNat (op : Nat) (h : op < 128) (o : BR) : (o.toWord op).toNat = o.u.toNat + 2 * o.n.toNat + 4 * o.g.toNat + 64 * o.off.toNat + 16777216 * op + 2147483648 * o.c.toNat := by
  obtain ⟨c, off, g, n, u⟩ := o
  have h0 := Bool.toNat_lt c
  have h1 := off.isLt
  have h2 := g.isLt
  have h3 := Bool.toNat_lt n
  have h4 := Bool.toNat_lt u
  simp only [BR.toWord, BitVec.toNat_ofNat]; omega

theorem br_ofWord (op : Nat) (h : op < 128) (o : BR) : BR.ofWord (o.toWord op) = o := by
  have e := br_toNat op h o
  obtain ⟨c, off, g, n, u⟩ := o
  dsimp only at e
  have h0 := Bool.toNat_lt c
  have h1 := off.isLt
  have h2 := g.isLt
  have h3 := Bool.toNat_lt n
  have h4 := Bool.toNat_lt u
  simp only [BR.ofWord, BR.mk.injEq]
  exact ⟨bit_eq _ _ _ (by rw [e]; omega), fld_eq _ _ _ (by rw [e]; omega), fld_eq _ _ _ (by rw [e]; omega), bit_eq _ _ _ (by rw [e]; omega), bit_eq _ _ _ (by rw [e]; omega)⟩

theorem br_major (op : Nat) (h : op < 128) (o : BR) : majorOf (o.toWord op) = op := by
  rw [majorOf, br_toNat op h o]
  obtain ⟨c, off, g, n, u⟩ := o
  have h0 := Bool.toNat_lt c
  have h1 := off.isLt
  have h2 := g.isLt
  have h3 := Bool.toNat_lt n
  have h4 := Bool.toNat_lt u
  dsimp only; omega

theorem br_toWord (w : W32) : BR.toWord (majorOf w) (BR.ofWord w) = w := by
  apply BitVec.eq_of_toNat_eq
  have hw := w.isLt
  simp only [BR.toWord, BR.ofWord, majorOf, BitVec.toNat_ofNat, toNat_fld, toNat_bit]; omega

/-! ### Z -/

theorem z_toNat (op : Nat) (h : op < 128) (o : Z) : (o.toWord op).toNat = 2 * o.n.toNat + 4 * o.g.toNat + 256 * o.code.toNat + 16777216 * op + 2147483648 * o.c.toNat := by
  obtain ⟨c, code, g, n⟩ := o
  have h0 := Bool.toNat_lt c
  have h1 := code.isLt
  have h2 := g.isLt
  have h3 := Bool.toNat_lt n
  simp only [Z.toWord, BitVec.toNat_ofNat]; omega

theorem z_ofWord (op : Nat) (h : op < 128) (o : Z) : Z.ofWord (o.toWord op) = o := by
  have e := z_toNat op h o
  obtain ⟨c, code, g, n⟩ := o
  dsimp only at e
  have h0 := Bool.toNat_lt c
  have h1 := code.isLt
  have h2 := g.isLt
  have h3 := Bool.toNat_lt n
  simp only [Z.ofWord, Z.mk.injEq]
  exact ⟨bit_eq _ _ _ (by rw [e]; omega), fld_eq _ _ _ (by rw [e]; omega), fld_eq _ _ _ (by rw [e]; omega), bit_eq _ _ _ (by rw [e]; omega)⟩

theorem z_major (op : Nat) (h : op < 128) (o : Z) : majorOf (o.toWord op) = op := by
  rw [majorOf, z_toNat op h o]
  obtain ⟨c, code, g, n⟩ := o
  have h0 := Bool.toNat_lt c
  have h1 := code.isLt
  have h2 := g.isLt
  have h3 := Bool.toNat_lt n
  dsimp only; omega

theorem z_toWord (w : W32) (h0 : w.toNat % 2 = 0) (h1 : w.toNat / 64 % 4 = 0) : Z.toWord (majorOf w) (Z.ofWord w) = w := by
  apply BitVec.eq_of_toNat_eq
  have hw := w.isLt
  simp only [Z.toWord, Z.ofWord, majorOf, BitVec.toNat_ofNat, toNat_fld, toNat_bit]; omega

/-! ### SY -/

theorem sy_toNat (op : Nat) (h : op < 128) (o : SY) : (o.toWord op).toNat = o.x.toNat + 2 * o.ord.code + 8 * o.scope.toNat + 64 * o.b.toNat + 4096 * o.a.toNat + 262144 * o.d.toNat + 16777216 * op + 2147483648 * o.c.toNat := by
  obtain ⟨c, d, a, b, scope, ord, x⟩ := o
  have h0 := Bool.toNat_lt c
  have h1 := d.isLt
  have h2 := a.isLt
  have h3 := b.isLt
  have h4 := scope.isLt
  have h5 := ord_lt ord
  have h6 := Bool.toNat_lt x
  simp only [SY.toWord, BitVec.toNat_ofNat]; omega

theorem sy_ofWord (op : Nat) (h : op < 128) (o : SY) : SY.ofWord (o.toWord op) = o := by
  have e := sy_toNat op h o
  obtain ⟨c, d, a, b, scope, ord, x⟩ := o
  dsimp only at e
  have h0 := Bool.toNat_lt c
  have h1 := d.isLt
  have h2 := a.isLt
  have h3 := b.isLt
  have h4 := scope.isLt
  have h5 := ord_lt ord
  have h6 := Bool.toNat_lt x
  simp only [SY.ofWord, SY.mk.injEq]
  exact ⟨bit_eq _ _ _ (by rw [e]; omega), fld_eq _ _ _ (by rw [e]; omega), fld_eq _ _ _ (by rw [e]; omega), fld_eq _ _ _ (by rw [e]; omega), fld_eq _ _ _ (by rw [e]; omega), ord_eq _ _ _ (by rw [e]; omega), bit_eq _ _ _ (by rw [e]; omega)⟩

theorem sy_major (op : Nat) (h : op < 128) (o : SY) : majorOf (o.toWord op) = op := by
  rw [majorOf, sy_toNat op h o]
  obtain ⟨c, d, a, b, scope, ord, x⟩ := o
  have h0 := Bool.toNat_lt c
  have h1 := d.isLt
  have h2 := a.isLt
  have h3 := b.isLt
  have h4 := scope.isLt
  have h5 := ord_lt ord
  have h6 := Bool.toNat_lt x
  dsimp only; omega

theorem sy_toWord (w : W32) : SY.toWord (majorOf w) (SY.ofWord w) = w := by
  apply BitVec.eq_of_toNat_eq
  have hw := w.isLt
  simp only [SY.toWord, SY.ofWord, majorOf, BitVec.toNat_ofNat, toNat_fld, toNat_bit, code_ord]; omega

/-! ### CR -/

theorem cr_toNat (op : Nat) (h : op < 128) (o : CR) : (o.toWord op).toNat = o.k.toNat + 2 * o.n.toNat + 4 * o.g.toNat + 64 * o.csr.toNat + 262144 * o.reg.toNat + 16777216 * op + 2147483648 * o.c.toNat := by
  obtain ⟨c, reg, csr, g, n, k⟩ := o
  have h0 := Bool.toNat_lt c
  have h1 := reg.isLt
  have h2 := csr.isLt
  have h3 := g.isLt
  have h4 := Bool.toNat_lt n
  have h5 := Bool.toNat_lt k
  simp only [CR.toWord, BitVec.toNat_ofNat]; omega

theorem cr_ofWord (op : Nat) (h : op < 128) (o : CR) : CR.ofWord (o.toWord op) = o := by
  have e := cr_toNat op h o
  obtain ⟨c, reg, csr, g, n, k⟩ := o
  dsimp only at e
  have h0 := Bool.toNat_lt c
  have h1 := reg.isLt
  have h2 := csr.isLt
  have h3 := g.isLt
  have h4 := Bool.toNat_lt n
  have h5 := Bool.toNat_lt k
  simp only [CR.ofWord, CR.mk.injEq]
  exact ⟨bit_eq _ _ _ (by rw [e]; omega), fld_eq _ _ _ (by rw [e]; omega), fld_eq _ _ _ (by rw [e]; omega), fld_eq _ _ _ (by rw [e]; omega), bit_eq _ _ _ (by rw [e]; omega), bit_eq _ _ _ (by rw [e]; omega)⟩

theorem cr_major (op : Nat) (h : op < 128) (o : CR) : majorOf (o.toWord op) = op := by
  rw [majorOf, cr_toNat op h o]
  obtain ⟨c, reg, csr, g, n, k⟩ := o
  have h0 := Bool.toNat_lt c
  have h1 := reg.isLt
  have h2 := csr.isLt
  have h3 := g.isLt
  have h4 := Bool.toNat_lt n
  have h5 := Bool.toNat_lt k
  dsimp only; omega

theorem cr_toWord (w : W32) : CR.toWord (majorOf w) (CR.ofWord w) = w := by
  apply BitVec.eq_of_toNat_eq
  have hw := w.isLt
  simp only [CR.toWord, CR.ofWord, majorOf, BitVec.toNat_ofNat, toNat_fld, toNat_bit]; omega

/-! ### XI -/

theorem xi_toNat (op fn : Nat) (h : op < 128) (hf : fn < 64) (o : XI) : (o.toWord op fn).toNat = o.k.toNat + 2 * o.n.toNat + 4 * o.g.toNat + 64 * fn
    + 4096 * o.a.toNat + 262144 * o.d.toNat + 16777216 * op + 2147483648 * o.c.toNat := by
  obtain ⟨c, d, a, g, n, k, imm⟩ := o
  have h0 := Bool.toNat_lt c
  have h1 := d.isLt
  have h2 := a.isLt
  have h3 := g.isLt
  have h4 := Bool.toNat_lt n
  have h5 := Bool.toNat_lt k
  simp only [XI.toWord, BitVec.toNat_ofNat]; omega

theorem xi_ofWords (op fn : Nat) (h : op < 128) (hf : fn < 64) (o : XI) : XI.ofWords (o.toWord op fn) o.imm = o := by
  have e := xi_toNat op fn h hf o
  obtain ⟨c, d, a, g, n, k, imm⟩ := o
  dsimp only at e
  have h0 := Bool.toNat_lt c
  have h1 := d.isLt
  have h2 := a.isLt
  have h3 := g.isLt
  have h4 := Bool.toNat_lt n
  have h5 := Bool.toNat_lt k
  simp only [XI.ofWords, XI.mk.injEq, and_true]
  exact ⟨bit_eq _ _ _ (by rw [e]; omega), fld_eq _ _ _ (by rw [e]; omega), fld_eq _ _ _ (by rw [e]; omega), fld_eq _ _ _ (by rw [e]; omega), bit_eq _ _ _ (by rw [e]; omega), bit_eq _ _ _ (by rw [e]; omega)⟩

theorem xi_major (op fn : Nat) (h : op < 128) (hf : fn < 64) (o : XI) : majorOf (o.toWord op fn) = op ∧ (o.toWord op fn).toNat / 64 % 64 = fn := by
  rw [majorOf, xi_toNat op fn h hf o]
  obtain ⟨c, d, a, g, n, k, imm⟩ := o
  have h0 := Bool.toNat_lt c
  have h1 := d.isLt
  have h2 := a.isLt
  have h3 := g.isLt
  have h4 := Bool.toNat_lt n
  have h5 := Bool.toNat_lt k
  dsimp only; omega

/-! ### XR -/

theorem xr_payload (fn : Nat) (hf : fn < 64) (o : XR) : (o.payload fn).toNat = o.md.toNat + 128 * o.rc.toNat + 8192 * o.ty.toNat + 65536 * o.rm.code + 262144 * o.kc.code + 1048576 * o.kb.code + 4194304 * o.ka.code + 16777216 * o.kd.code + 67108864 * fn := by
  obtain ⟨h, kd, ka, kb, kc, rm, ty, rc, md⟩ := o
  have h0 := cls_lt kd
  have h1 := cls_lt ka
  have h2 := cls_lt kb
  have h3 := cls_lt kc
  have h4 := rm_lt rm
  have h5 := ty.isLt
  have h6 := rc.isLt
  have h7 := md.isLt
  simp only [XR.payload, BitVec.toNat_ofNat]; omega

theorem xr_ofWords (op : Nat) (h : op < 128) (fn : Nat) (hf : fn < 64) (o : XR) : XR.ofWords (o.h.toWord op) (o.payload fn) = o := by
  have e := xr_payload fn hf o
  have eh := rg_ofWord op h o.h
  obtain ⟨h', kd, ka, kb, kc, rm, ty, rc, md⟩ := o
  dsimp only at e eh
  have h0 := cls_lt kd
  have h1 := cls_lt ka
  have h2 := cls_lt kb
  have h3 := cls_lt kc
  have h4 := rm_lt rm
  have h5 := ty.isLt
  have h6 := rc.isLt
  have h7 := md.isLt
  simp only [XR.ofWords, XR.mk.injEq]
  exact ⟨eh, cls_eq _ _ _ (by rw [e]; omega), cls_eq _ _ _ (by rw [e]; omega), cls_eq _ _ _ (by rw [e]; omega), cls_eq _ _ _ (by rw [e]; omega), rm_eq _ _ _ (by rw [e]; omega), fld_eq _ _ _ (by rw [e]; omega), fld_eq _ _ _ (by rw [e]; omega), fld_eq _ _ _ (by rw [e]; omega)⟩

/-! ### MA -/

theorem ma_payload (o : MA) : (o.payload).toNat = o.off.toNat + 16384 * o.opx.toNat + 262144 * o.p64.toNat + 524288 * o.nb.toNat + 1048576 * o.kb.toNat + 2097152 * o.ka.toNat + 4194304 * o.scl.toNat + 16777216 * o.sz.toNat + 134217728 * o.ord.code + 536870912 * o.scope.toNat := by
  obtain ⟨h, scope, ord, sz, scl, ka, kb, nb, p64, opx, off⟩ := o
  have h0 := scope.isLt
  have h1 := ord_lt ord
  have h2 := sz.isLt
  have h3 := scl.isLt
  have h4 := Bool.toNat_lt ka
  have h5 := Bool.toNat_lt kb
  have h6 := Bool.toNat_lt nb
  have h7 := Bool.toNat_lt p64
  have h8 := opx.isLt
  have h9 := off.isLt
  simp only [MA.payload, BitVec.toNat_ofNat]; omega

theorem ma_ofWords (op : Nat) (h : op < 128) (o : MA) : MA.ofWords (o.h.toWord op) (o.payload) = o := by
  have e := ma_payload o
  have eh := rg_ofWord op h o.h
  obtain ⟨h', scope, ord, sz, scl, ka, kb, nb, p64, opx, off⟩ := o
  dsimp only at e eh
  have h0 := scope.isLt
  have h1 := ord_lt ord
  have h2 := sz.isLt
  have h3 := scl.isLt
  have h4 := Bool.toNat_lt ka
  have h5 := Bool.toNat_lt kb
  have h6 := Bool.toNat_lt nb
  have h7 := Bool.toNat_lt p64
  have h8 := opx.isLt
  have h9 := off.isLt
  simp only [MA.ofWords, MA.mk.injEq]
  exact ⟨eh, fld_eq _ _ _ (by rw [e]; omega), ord_eq _ _ _ (by rw [e]; omega), fld_eq _ _ _ (by rw [e]; omega), fld_eq _ _ _ (by rw [e]; omega), bit_eq _ _ _ (by rw [e]; omega), bit_eq _ _ _ (by rw [e]; omega), bit_eq _ _ _ (by rw [e]; omega), bit_eq _ _ _ (by rw [e]; omega), fld_eq _ _ _ (by rw [e]; omega), fld_eq _ _ _ (by rw [e]; omega)⟩

/-! ### XP payloads -/

theorem xpWord_toNat (fn pay : Nat) (hf : fn < 16) (hp : pay < 268435456) : (xpWord fn pay).toNat = pay + 268435456 * fn := by
  simp only [xpWord, BitVec.toNat_ofNat]; omega

theorem xpWord_fn (fn pay : Nat) (hf : fn < 16) (hp : pay < 268435456) : (xpWord fn pay).toNat / 268435456 = fn := by
  rw [xpWord_toNat fn pay hf hp]; omega

theorem subP_lt (o : SubP) : o.toPay < 268435456 := by
  obtain ⟨mode, fmt⟩ := o
  have h0 := Bool.toNat_lt mode
  have h1 := fmt.isLt
  simp only [SubP.toPay]; omega

theorem subP_ofPay (fn : Nat) (hf : fn < 16) (o : SubP) : SubP.ofPay (xpWord fn o.toPay) = o := by
  have e := xpWord_toNat fn o.toPay hf (subP_lt o)
  obtain ⟨mode, fmt⟩ := o
  simp only [SubP.toPay] at e ⊢
  have h0 := Bool.toNat_lt mode
  have h1 := fmt.isLt
  simp only [SubP.ofPay, SubP.mk.injEq]
  exact ⟨bit_eq _ _ _ (by rw [e]; omega), fld_eq _ _ _ (by rw [e]; omega)⟩

theorem cpyP_lt (o : CpyP) : o.toPay < 268435456 := by
  obtain ⟨cb, rel, scope, dl, sl⟩ := o
  have h0 := cb.isLt
  have h1 := Bool.toNat_lt rel
  have h2 := scope.isLt
  have h3 := Bool.toNat_lt dl
  have h4 := Bool.toNat_lt sl
  simp only [CpyP.toPay]; omega

theorem cpyP_ofPay (fn : Nat) (hf : fn < 16) (o : CpyP) : CpyP.ofPay (xpWord fn o.toPay) = o := by
  have e := xpWord_toNat fn o.toPay hf (cpyP_lt o)
  obtain ⟨cb, rel, scope, dl, sl⟩ := o
  simp only [CpyP.toPay] at e ⊢
  have h0 := cb.isLt
  have h1 := Bool.toNat_lt rel
  have h2 := scope.isLt
  have h3 := Bool.toNat_lt dl
  have h4 := Bool.toNat_lt sl
  simp only [CpyP.ofPay, CpyP.mk.injEq]
  exact ⟨fld_eq _ _ _ (by rw [e]; omega), bit_eq _ _ _ (by rw [e]; omega), fld_eq _ _ _ (by rw [e]; omega), bit_eq _ _ _ (by rw [e]; omega), bit_eq _ _ _ (by rw [e]; omega)⟩

theorem cpyqP_lt (o : CpyqP) : o.toPay < 268435456 := by
  obtain ⟨cb, rel, scope, gs, s, seq, w4⟩ := o
  have h0 := cb.isLt
  have h1 := Bool.toNat_lt rel
  have h2 := scope.isLt
  have h3 := gs.isLt
  have h4 := s.isLt
  have h5 := seq.isLt
  have h6 := Bool.toNat_lt w4
  simp only [CpyqP.toPay]; omega

theorem cpyqP_ofPay (fn : Nat) (hf : fn < 16) (o : CpyqP) : CpyqP.ofPay (xpWord fn o.toPay) = o := by
  have e := xpWord_toNat fn o.toPay hf (cpyqP_lt o)
  obtain ⟨cb, rel, scope, gs, s, seq, w4⟩ := o
  simp only [CpyqP.toPay] at e ⊢
  have h0 := cb.isLt
  have h1 := Bool.toNat_lt rel
  have h2 := scope.isLt
  have h3 := gs.isLt
  have h4 := s.isLt
  have h5 := seq.isLt
  have h6 := Bool.toNat_lt w4
  simp only [CpyqP.ofPay, CpyqP.mk.injEq]
  exact ⟨fld_eq _ _ _ (by rw [e]; omega), bit_eq _ _ _ (by rw [e]; omega), fld_eq _ _ _ (by rw [e]; omega), fld_eq _ _ _ (by rw [e]; omega), fld_eq _ _ _ (by rw [e]; omega), fld_eq _ _ _ (by rw [e]; omega), bit_eq _ _ _ (by rw [e]; omega)⟩

theorem engP_lt (o : EngP) : o.toPay < 268435456 := by
  obtain ⟨cb, rel, scope⟩ := o
  have h0 := cb.isLt
  have h1 := Bool.toNat_lt rel
  have h2 := scope.isLt
  simp only [EngP.toPay]; omega

theorem engP_ofPay (fn : Nat) (hf : fn < 16) (o : EngP) : EngP.ofPay (xpWord fn o.toPay) = o := by
  have e := xpWord_toNat fn o.toPay hf (engP_lt o)
  obtain ⟨cb, rel, scope⟩ := o
  simp only [EngP.toPay] at e ⊢
  have h0 := cb.isLt
  have h1 := Bool.toNat_lt rel
  have h2 := scope.isLt
  simp only [EngP.ofPay, EngP.mk.injEq]
  exact ⟨fld_eq _ _ _ (by rw [e]; omega), bit_eq _ _ _ (by rw [e]; omega), fld_eq _ _ _ (by rw [e]; omega)⟩

theorem tldbP_lt (o : TldbP) : o.toPay < 268435456 := by
  obtain ⟨ty, half⟩ := o
  have h0 := ty.isLt
  have h1 := Bool.toNat_lt half
  simp only [TldbP.toPay]; omega

theorem tldbP_ofPay (fn : Nat) (hf : fn < 16) (o : TldbP) : TldbP.ofPay (xpWord fn o.toPay) = o := by
  have e := xpWord_toNat fn o.toPay hf (tldbP_lt o)
  obtain ⟨ty, half⟩ := o
  simp only [TldbP.toPay] at e ⊢
  have h0 := ty.isLt
  have h1 := Bool.toNat_lt half
  simp only [TldbP.ofPay, TldbP.mk.injEq]
  exact ⟨fld_eq _ _ _ (by rw [e]; omega), bit_eq _ _ _ (by rw [e]; omega)⟩

theorem tmmqP_lt (o : TmmqP) : o.toPay < 268435456 := by
  obtain ⟨ty, half, seq, gs, ce⟩ := o
  have h0 := ty.isLt
  have h1 := Bool.toNat_lt half
  have h2 := seq.isLt
  have h3 := gs.isLt
  have h4 := ce.isLt
  simp only [TmmqP.toPay]; omega

theorem tmmqP_ofPay (fn : Nat) (hf : fn < 16) (o : TmmqP) : TmmqP.ofPay (xpWord fn o.toPay) = o := by
  have e := xpWord_toNat fn o.toPay hf (tmmqP_lt o)
  obtain ⟨ty, half, seq, gs, ce⟩ := o
  simp only [TmmqP.toPay] at e ⊢
  have h0 := ty.isLt
  have h1 := Bool.toNat_lt half
  have h2 := seq.isLt
  have h3 := gs.isLt
  have h4 := ce.isLt
  simp only [TmmqP.ofPay, TmmqP.mk.injEq]
  exact ⟨fld_eq _ _ _ (by rw [e]; omega), bit_eq _ _ _ (by rw [e]; omega), fld_eq _ _ _ (by rw [e]; omega), fld_eq _ _ _ (by rw [e]; omega), fld_eq _ _ _ (by rw [e]; omega)⟩

theorem tmspP_lt (o : TmspP) : o.toPay < 268435456 := by
  obtain ⟨ty, half, sk, cbv, c, m, phx⟩ := o
  have h0 := ty.isLt
  have h1 := Bool.toNat_lt half
  have h2 := Bool.toNat_lt sk
  have h3 := Bool.toNat_lt cbv
  have h4 := c.isLt
  have h5 := m.isLt
  have h6 := Bool.toNat_lt phx
  simp only [TmspP.toPay]; omega

theorem tmspP_ofPay (fn : Nat) (hf : fn < 16) (o : TmspP) : TmspP.ofPay (xpWord fn o.toPay) = o := by
  have e := xpWord_toNat fn o.toPay hf (tmspP_lt o)
  obtain ⟨ty, half, sk, cbv, c, m, phx⟩ := o
  simp only [TmspP.toPay] at e ⊢
  have h0 := ty.isLt
  have h1 := Bool.toNat_lt half
  have h2 := Bool.toNat_lt sk
  have h3 := Bool.toNat_lt cbv
  have h4 := c.isLt
  have h5 := m.isLt
  have h6 := Bool.toNat_lt phx
  simp only [TmspP.ofPay, TmspP.mk.injEq]
  exact ⟨fld_eq _ _ _ (by rw [e]; omega), bit_eq _ _ _ (by rw [e]; omega), bit_eq _ _ _ (by rw [e]; omega), bit_eq _ _ _ (by rw [e]; omega), fld_eq _ _ _ (by rw [e]; omega), fld_eq _ _ _ (by rw [e]; omega), bit_eq _ _ _ (by rw [e]; omega)⟩

theorem tepiP_lt (o : TepiP) : o.toPay < 268435456 := by
  obtain ⟨ofmt, act, dl, c, sr, br, scope⟩ := o
  have h0 := ofmt.isLt
  have h1 := act.isLt
  have h2 := Bool.toNat_lt dl
  have h3 := c.isLt
  have h4 := sr.isLt
  have h5 := br.isLt
  have h6 := scope.isLt
  simp only [TepiP.toPay]; omega

theorem tepiP_ofPay (fn : Nat) (hf : fn < 16) (o : TepiP) : TepiP.ofPay (xpWord fn o.toPay) = o := by
  have e := xpWord_toNat fn o.toPay hf (tepiP_lt o)
  obtain ⟨ofmt, act, dl, c, sr, br, scope⟩ := o
  simp only [TepiP.toPay] at e ⊢
  have h0 := ofmt.isLt
  have h1 := act.isLt
  have h2 := Bool.toNat_lt dl
  have h3 := c.isLt
  have h4 := sr.isLt
  have h5 := br.isLt
  have h6 := scope.isLt
  simp only [TepiP.ofPay, TepiP.mk.injEq]
  exact ⟨fld_eq _ _ _ (by rw [e]; omega), fld_eq _ _ _ (by rw [e]; omega), bit_eq _ _ _ (by rw [e]; omega), fld_eq _ _ _ (by rw [e]; omega), fld_eq _ _ _ (by rw [e]; omega), fld_eq _ _ _ (by rw [e]; omega), fld_eq _ _ _ (by rw [e]; omega)⟩

theorem tconP_lt (o : TconP) : o.toPay < 268435456 := by
  obtain ⟨scope⟩ := o
  have h0 := scope.isLt
  simp only [TconP.toPay]; omega

theorem tconP_ofPay (fn : Nat) (hf : fn < 16) (o : TconP) : TconP.ofPay (xpWord fn o.toPay) = o := by
  have e := xpWord_toNat fn o.toPay hf (tconP_lt o)
  obtain ⟨scope⟩ := o
  simp only [TconP.toPay] at e ⊢
  have h0 := scope.isLt
  simp only [TconP.ofPay, TconP.mk.injEq]
  exact fld_eq _ _ _ (by rw [e]; omega)

theorem rastP_lt (o : RastP) : o.toPay < 268435456 := by
  obtain ⟨hr, s, spp, hiz, ez, cull⟩ := o
  have h0 := hr.isLt
  have h1 := s.isLt
  have h2 := spp.isLt
  have h3 := Bool.toNat_lt hiz
  have h4 := Bool.toNat_lt ez
  have h5 := cull.isLt
  simp only [RastP.toPay]; omega

theorem rastP_ofPay (fn : Nat) (hf : fn < 16) (o : RastP) : RastP.ofPay (xpWord fn o.toPay) = o := by
  have e := xpWord_toNat fn o.toPay hf (rastP_lt o)
  obtain ⟨hr, s, spp, hiz, ez, cull⟩ := o
  simp only [RastP.toPay] at e ⊢
  have h0 := hr.isLt
  have h1 := s.isLt
  have h2 := spp.isLt
  have h3 := Bool.toNat_lt hiz
  have h4 := Bool.toNat_lt ez
  have h5 := cull.isLt
  simp only [RastP.ofPay, RastP.mk.injEq]
  exact ⟨fld_eq _ _ _ (by rw [e]; omega), fld_eq _ _ _ (by rw [e]; omega), fld_eq _ _ _ (by rw [e]; omega), bit_eq _ _ _ (by rw [e]; omega), bit_eq _ _ _ (by rw [e]; omega), fld_eq _ _ _ (by rw [e]; omega)⟩

theorem texP_lt (o : TexP) : o.toPay < 268435456 := by
  obtain ⟨lod, ch⟩ := o
  have h0 := Bool.toNat_lt lod
  have h1 := ch.isLt
  simp only [TexP.toPay]; omega

theorem texP_ofPay (fn : Nat) (hf : fn < 16) (o : TexP) : TexP.ofPay (xpWord fn o.toPay) = o := by
  have e := xpWord_toNat fn o.toPay hf (texP_lt o)
  obtain ⟨lod, ch⟩ := o
  simp only [TexP.toPay] at e ⊢
  have h0 := Bool.toNat_lt lod
  have h1 := ch.isLt
  simp only [TexP.ofPay, TexP.mk.injEq]
  exact ⟨bit_eq _ _ _ (by rw [e]; omega), fld_eq _ _ _ (by rw [e]; omega)⟩

theorem spawnP_lt (o : SpawnP) : o.toPay < 268435456 := by
  obtain ⟨rel, scope, nrs⟩ := o
  have h0 := Bool.toNat_lt rel
  have h1 := scope.isLt
  have h2 := nrs.isLt
  simp only [SpawnP.toPay]; omega

theorem spawnP_ofPay (fn : Nat) (hf : fn < 16) (o : SpawnP) : SpawnP.ofPay (xpWord fn o.toPay) = o := by
  have e := xpWord_toNat fn o.toPay hf (spawnP_lt o)
  obtain ⟨rel, scope, nrs⟩ := o
  simp only [SpawnP.toPay] at e ⊢
  have h0 := Bool.toNat_lt rel
  have h1 := scope.isLt
  have h2 := nrs.isLt
  simp only [SpawnP.ofPay, SpawnP.mk.injEq]
  exact ⟨bit_eq _ _ _ (by rw [e]; omega), fld_eq _ _ _ (by rw [e]; omega), fld_eq _ _ _ (by rw [e]; omega)⟩

theorem mbpostP_lt (o : MbpostP) : o.toPay < 268435456 := by
  obtain ⟨n⟩ := o
  have h0 := n.isLt
  simp only [MbpostP.toPay]; omega

theorem mbpostP_ofPay (fn : Nat) (hf : fn < 16) (o : MbpostP) : MbpostP.ofPay (xpWord fn o.toPay) = o := by
  have e := xpWord_toNat fn o.toPay hf (mbpostP_lt o)
  obtain ⟨n⟩ := o
  simp only [MbpostP.toPay] at e ⊢
  have h0 := n.isLt
  simp only [MbpostP.ofPay, MbpostP.mk.injEq]
  exact fld_eq _ _ _ (by rw [e]; omega)

end Sys2Proof.Laws
end

