-- ==== Sys2Proof/Laws/Memory.lean ====
section
/-! SUPPORT. Laws of byte lists and of the numbered parts of the state: what a read finds after a write, and that every memory operation keeps the
canonical form. -/

namespace Sys2Proof.Laws

open Sys2Proof Sys2Proof.Machine

/-! ### Lists of numbers and elements -/

theorem mem_span (lo n k : Nat) : k ∈ span lo n ↔ lo ≤ k ∧ k < lo + n := by
  induction n generalizing lo with
  | zero => simp only [span, List.not_mem_nil, false_iff]; omega
  | succ n ih => simp only [span, List.mem_cons, ih]; omega

theorem length_span (lo n : Nat) : (span lo n).length = n := by
  induction n generalizing lo with
  | zero => rfl
  | succ n ih => simp [span, ih]

theorem nth_span (lo n k d : Nat) (h : k < n) : nth d (span lo n) k = lo + k := by
  induction n generalizing lo k with
  | zero => omega
  | succ n ih =>
    cases k with
    | zero => rfl
    | succ k => simp only [span, nth]; rw [ih _ _ (by omega)]; omega

theorem nth_map {α β : Type} (f : α → β) (d : α) (l : List α) (k : Nat) (h : k < l.length) (e : β) : nth e (l.map f) k = f (nth d l k) := by
  induction l generalizing k with
  | nil => simp at h
  | cons x r ih => cases k with
    | zero => rfl
    | succ k => exact ih k (by simpa using h)

theorem length_setNth {α : Type} (y : α) (l : List α) (k : Nat) : (setNth y l k).length = l.length := by
  induction l generalizing k with
  | nil => rfl
  | cons x r ih => cases k with
    | zero => rfl
    | succ k => simp [setNth, ih]

theorem nth_setNth {α : Type} (d y : α) (l : List α) (k j : Nat) (h : k < l.length) : nth d (setNth y l k) j = if j = k then y else nth d l j := by
  induction l generalizing k j with
  | nil => simp at h
  | cons x r ih =>
    cases k with
    | zero => cases j <;> simp [setNth, nth]
    | succ k => cases j with
      | zero => simp [setNth, nth]
      | succ j => simp [setNth, nth, ih k j (by simpa using h)]

theorem aget_cons {α : Type} (d x : α) (b k : Nat) (r : List (Nat × α)) : aget d ((b, x) :: r) k = if b = k then x else aget d r k := by
  simp only [aget, beq_iff_eq]

theorem aget_aset {α : Type} (d x : α) (l : List (Nat × α)) (k j : Nat) : aget d (aset k x l) j = if j = k then x else aget d l j := by
  induction l with
  | nil => simp only [aset, aget_cons]; split <;> split <;> first | rfl | omega
  | cons p r ih =>
    obtain ⟨b, y⟩ := p
    simp only [aset, beq_iff_eq]
    split <;> (try split) <;> simp only [aget_cons, ih] <;> (repeat' split) <;> first | rfl | omega

/-! ### One byte, many bytes -/

theorem cellGet_cons (b a : Nat) (x : Byte) (r : List Host.Cell) : cellGet ((b, x) :: r) a = if b = a then x else cellGet r a := by
  simp only [cellGet, beq_iff_eq]

theorem cellGet_put (a : Nat) (x : Byte) (m : List Host.Cell) (b : Nat) : cellGet (cellPut a x m) b = if b = a then x else cellGet m b := by
  induction m with
  | nil => simp only [cellPut, cellGet_cons]; split <;> split <;> first | rfl | omega
  | cons p r ih =>
    obtain ⟨c, y⟩ := p
    simp only [cellPut]
    split <;> (try split) <;> simp only [cellGet_cons, ih] <;> (repeat' split) <;> first | rfl | omega

theorem cellGet_drop (a : Nat) (m : List Host.Cell) (b : Nat) : cellGet (m.filter (fun c => c.1 != a)) b = if b = a then 0 else cellGet m b := by
  induction m with
  | nil => simp only [List.filter_nil, cellGet, ite_self]
  | cons p r ih =>
    obtain ⟨c, y⟩ := p
    by_cases h : c = a
    · rw [List.filter_cons_of_neg (by simp [h]), ih, cellGet_cons]; (repeat' split) <;> first | rfl | omega
    · rw [List.filter_cons_of_pos (by simp [h]), cellGet_cons, cellGet_cons, ih]; (repeat' split) <;> first | rfl | omega

/-- A byte reads as last written; every other byte is as before. -/
theorem cellGet_set (a : Nat) (x : Byte) (m : List Host.Cell) (b : Nat) : cellGet (cellSet a x m) b = if b = a then x else cellGet m b := by
  unfold cellSet
  split
  · next h => rw [cellGet_drop, h]
  · rw [cellGet_put]

theorem cellGet_nil (a : Nat) : cellGet [] a = 0 := rfl

/-! ### The canonical form -/

theorem cellsFrom_mono (m : List Host.Cell) (lo hi : Nat) (h : lo ≤ hi) (w : cellsFrom hi m = true) : cellsFrom lo m = true := by
  cases m with
  | nil => rfl
  | cons p r => simp only [cellsFrom, Bool.and_eq_true, decide_eq_true_eq] at w ⊢; exact ⟨⟨by omega, w.1.2⟩, w.2⟩

theorem cellsFrom_put (m : List Host.Cell) (lo a : Nat) (x : Byte) (hx : x ≠ 0) (ha : lo ≤ a) (w : cellsFrom lo m = true) : cellsFrom lo (cellPut a x m) = true := by
  induction m generalizing lo with
  | nil => simp only [cellPut, cellsFrom, Bool.and_eq_true, decide_eq_true_eq, bne_iff_ne, ne_eq, and_true]; exact ⟨ha, hx⟩
  | cons p r ih =>
    obtain ⟨b, y⟩ := p
    simp only [cellsFrom, Bool.and_eq_true, decide_eq_true_eq, bne_iff_ne, ne_eq] at w
    simp only [cellPut]
    split
    · next h => simp only [cellsFrom, Bool.and_eq_true, decide_eq_true_eq, bne_iff_ne, ne_eq]; exact ⟨⟨ha, hx⟩, ⟨by omega, w.1.2⟩, w.2⟩
    · split
      · next h => simp only [cellsFrom, Bool.and_eq_true, decide_eq_true_eq, bne_iff_ne, ne_eq]; exact ⟨⟨ha, hx⟩, by rw [h]; exact w.2⟩
      · next h1 h2 => simp only [cellsFrom, Bool.and_eq_true, decide_eq_true_eq, bne_iff_ne, ne_eq]; exact ⟨w.1, ih (b + 1) (by omega) w.2⟩

theorem cellsFrom_filter (m : List Host.Cell) (lo : Nat) (p : Host.Cell → Bool) (w : cellsFrom lo m = true) : cellsFrom lo (m.filter p) = true := by
  induction m generalizing lo with
  | nil => rfl
  | cons c r ih =>
    obtain ⟨b, y⟩ := c
    simp only [cellsFrom, Bool.and_eq_true, decide_eq_true_eq, bne_iff_ne, ne_eq] at w
    by_cases h : p (b, y) = true
    · rw [List.filter_cons_of_pos h]
      simp only [cellsFrom, Bool.and_eq_true, decide_eq_true_eq, bne_iff_ne, ne_eq]
      exact ⟨w.1, ih _ w.2⟩
    · rw [List.filter_cons_of_neg h]
      exact cellsFrom_mono _ lo (b + 1) (by omega) (ih _ w.2)

theorem wf_nil : Memory.wf [] = true := rfl

/-- One byte written keeps the canonical form. -/
theorem wf_cellSet (a : Nat) (x : Byte) (m : List Host.Cell) (w : Memory.wf m = true) : Memory.wf (cellSet a x m) = true := by
  unfold cellSet
  split
  · exact cellsFrom_filter m 0 _ w
  · next h => exact cellsFrom_put m 0 a x h (Nat.zero_le a) w

/-- Consecutive bytes written keep it. -/
theorem wf_cellsWrite (bs : List Byte) (m : List Host.Cell) (a : Nat) (w : Memory.wf m = true) : Memory.wf (cellsWrite m a bs) = true := by
  induction bs generalizing m a with
  | nil => exact w
  | cons x r ih => exact ih _ _ (wf_cellSet a x m w)

/-- Bytes written at their addresses keep it. -/
theorem wf_writeBytes (bs : List (Nat × Byte)) (m : List Host.Cell) (w : Memory.wf m = true) : Memory.wf (writeBytes m bs) = true := by
  induction bs generalizing m with
  | nil => exact w
  | cons p r ih => exact ih _ (wf_cellSet p.1 p.2 m w)

/-- In canonical form, equal bytes everywhere are equal lists. -/
theorem cells_ext_from (m n : List Host.Cell) (lo : Nat) (hm : cellsFrom lo m = true) (hn : cellsFrom lo n = true) (h : ∀ a, cellGet m a = cellGet n a) : m = n := by
  have below : ∀ (l : List Host.Cell) (lo a : Nat), cellsFrom lo l = true → a < lo → cellGet l a = 0 := by
    intro l
    induction l with
    | nil => intros; rfl
    | cons p r ih =>
      intro lo a w ha
      obtain ⟨b, y⟩ := p
      simp only [cellsFrom, Bool.and_eq_true, decide_eq_true_eq] at w
      have : (b == a) = false := by simp; omega
      simp only [cellGet, this, Bool.false_eq_true, if_false]
      exact ih (b + 1) a w.2 (by omega)
  induction m generalizing n lo with
  | nil =>
    cases n with
    | nil => rfl
    | cons q t =>
      obtain ⟨c, z⟩ := q
      simp only [cellsFrom, Bool.and_eq_true, bne_iff_ne, ne_eq] at hn
      have := h c
      simp [cellGet] at this
      exact absurd this.symm hn.1.2
  | cons p r ih =>
    obtain ⟨b, y⟩ := p
    simp only [cellsFrom, Bool.and_eq_true, decide_eq_true_eq, bne_iff_ne, ne_eq] at hm
    cases n with
    | nil =>
      have := h b
      simp [cellGet] at this
      exact absurd this hm.1.2
    | cons q t =>
      obtain ⟨c, z⟩ := q
      simp only [cellsFrom, Bool.and_eq_true, decide_eq_true_eq, bne_iff_ne, ne_eq] at hn
      rcases Nat.lt_trichotomy b c with hb | hb | hb
      · have e := h b
        have g : cellGet ((c, z) :: t) b = 0 := below _ c b (by simp only [cellsFrom, Bool.and_eq_true, decide_eq_true_eq, bne_iff_ne, ne_eq]; exact ⟨⟨Nat.le_refl _, hn.1.2⟩, hn.2⟩) hb
        rw [g] at e; simp [cellGet] at e; exact absurd e hm.1.2
      · subst hb
        have e := h b
        simp [cellGet] at e
        subst e
        congr 1
        refine ih t (b + 1) hm.2 hn.2 (fun a => ?_)
        by_cases ha : b = a
        · subst ha; rw [below r (b + 1) b hm.2 (by omega), below t (b + 1) b hn.2 (by omega)]
        · have e := h a
          have hf : (b == a) = false := by simpa using ha
          simpa [cellGet, hf] using e
      · have e := h c
        have g : cellGet ((b, y) :: r) c = 0 := below _ b c (by simp only [cellsFrom, Bool.and_eq_true, decide_eq_true_eq, bne_iff_ne, ne_eq]; exact ⟨⟨Nat.le_refl _, hm.1.2⟩, hm.2⟩) hb
        rw [g] at e; simp [cellGet] at e; exact absurd e.symm hn.1.2

theorem cells_ext (m n : List Host.Cell) (hm : Memory.wf m = true) (hn : Memory.wf n = true) (h : ∀ a, cellGet m a = cellGet n a) : m = n :=
  cells_ext_from m n 0 hm hn h

/-! ### Numbers in bytes -/

theorem length_leBytes (n x : Nat) : (leBytes n x).length = n := by
  induction n generalizing x with
  | zero => rfl
  | succ n ih => simp [leBytes, ih]

theorem leNat_leBytes (n x : Nat) : leNat (leBytes n x) = x % 256 ^ n := by
  induction n generalizing x with
  | zero => simp [leBytes, leNat, Nat.mod_one]
  | succ n ih =>
    rw [leBytes, leNat, ih, BitVec.toNat_ofNat, show (2:Nat) ^ 8 = 256 from rfl]
    rw [Nat.pow_succ, Nat.mul_comm (256 ^ n) 256, Nat.mod_mul]

theorem nth_leBytes (n x k : Nat) (h : k < n) : nth 0 (leBytes n x) k = BitVec.ofNat 8 (x / 256 ^ k) := by
  induction n generalizing x k with
  | zero => omega
  | succ n ih =>
    cases k with
    | zero => simp [leBytes, nth]
    | succ k => simp only [leBytes, nth]; rw [ih _ _ (by omega), Nat.div_div_eq_div_mul, Nat.pow_succ, Nat.mul_comm 256]

end Sys2Proof.Laws
end

