-- ==== Sys2Proof/Laws/State.lean ====
section
/-! SUPPORT. What each update of the state leaves alone and what it writes: one lemma for each field and update, so that no proof unfolds a record
update. -/

namespace Sys2Proof.Laws

open Sys2Proof Sys2Proof.Machine

variable (s : State)

/-! ### setCluster -/

@[simp] theorem setCluster_mem (c : Nat) (x : Cluster) : (setCluster c x s).mem = s.mem := rfl
@[simp] theorem setCluster_peer (c : Nat) (x : Cluster) : (setCluster c x s).peer = s.peer := rfl
@[simp] theorem setCluster_poison (c : Nat) (x : Cluster) : (setCluster c x s).poison = s.poison := rfl
@[simp] theorem setCluster_waves (c : Nat) (x : Cluster) : (setCluster c x s).waves = s.waves := rfl
@[simp] theorem setCluster_teams (c : Nat) (x : Cluster) : (setCluster c x s).teams = s.teams := rfl
@[simp] theorem setCluster_grids (c : Nat) (x : Cluster) : (setCluster c x s).grids = s.grids := rfl
@[simp] theorem setCluster_ctxs (c : Nat) (x : Cluster) : (setCluster c x s).ctxs = s.ctxs := rfl
@[simp] theorem setCluster_dies (c : Nat) (x : Cluster) : (setCluster c x s).dies = s.dies := rfl
@[simp] theorem setCluster_regs (c : Nat) (x : Cluster) : (setCluster c x s).regs = s.regs := rfl
@[simp] theorem setCluster_boot (c : Nat) (x : Cluster) : (setCluster c x s).boot = s.boot := rfl
@[simp] theorem setCluster_remote (c : Nat) (x : Cluster) : (setCluster c x s).remote = s.remote := rfl
@[simp] theorem setCluster_posts (c : Nat) (x : Cluster) : (setCluster c x s).posts = s.posts := rfl
@[simp] theorem setCluster_replays (c : Nat) (x : Cluster) : (setCluster c x s).replays = s.replays := rfl
@[simp] theorem setCluster_tcbWork (c : Nat) (x : Cluster) : (setCluster c x s).tcbWork = s.tcbWork := rfl
@[simp] theorem setCluster_hands (c : Nat) (x : Cluster) : (setCluster c x s).hands = s.hands := rfl
@[simp] theorem setCluster_msix (c : Nat) (x : Cluster) : (setCluster c x s).msix = s.msix := rfl
@[simp] theorem setCluster_clock (c : Nat) (x : Cluster) : (setCluster c x s).clock = s.clock := rfl
@[simp] theorem setCluster_cur (c : Nat) (x : Cluster) : (setCluster c x s).cur = s.cur := rfl
@[simp] theorem setCluster_lastUnit (c : Nat) (x : Cluster) : (setCluster c x s).lastUnit = s.lastUnit := rfl
@[simp] theorem setCluster_chain (c : Nat) (x : Cluster) : (setCluster c x s).chain = s.chain := rfl
@[simp] theorem setCluster_agenda (c : Nat) (x : Cluster) : (setCluster c x s).agenda = s.agenda := rfl
@[simp] theorem setCluster_stalled (c : Nat) (x : Cluster) : (setCluster c x s).stalled = s.stalled := rfl
@[simp] theorem setCluster_site (c : Nat) (x : Cluster) : (setCluster c x s).site = s.site := rfl
@[simp] theorem setCluster_turn (c : Nat) (x : Cluster) : (setCluster c x s).turn = s.turn := rfl
@[simp] theorem setCluster_polls (c : Nat) (x : Cluster) : (setCluster c x s).polls = s.polls := rfl
@[simp] theorem setCluster_free (c : Nat) (x : Cluster) : (setCluster c x s).free = s.free := rfl
@[simp] theorem setCluster_flash (c : Nat) (x : Cluster) : (setCluster c x s).flash = s.flash := rfl
@[simp] theorem setCluster_flashMin (c : Nat) (x : Cluster) : (setCluster c x s).flashMin = s.flashMin := rfl
@[simp] theorem setCluster_repairs (c : Nat) (x : Cluster) : (setCluster c x s).repairs = s.repairs := rfl
@[simp] theorem setCluster_doing (c : Nat) (x : Cluster) : (setCluster c x s).doing = s.doing := rfl
@[simp] theorem setCluster_asks (c : Nat) (x : Cluster) : (setCluster c x s).asks = s.asks := rfl
@[simp] theorem setCluster_answers (c : Nat) (x : Cluster) : (setCluster c x s).answers = s.answers := rfl
@[simp] theorem setCluster_walked (c : Nat) (x : Cluster) : (setCluster c x s).walked = s.walked := rfl
@[simp] theorem setCluster_nextId (c : Nat) (x : Cluster) : (setCluster c x s).nextId = s.nextId := rfl

/-! ### updCluster -/

@[simp] theorem updCluster_mem (c : Nat) (f : Cluster → Cluster) : (updCluster c f s).mem = s.mem := rfl
@[simp] theorem updCluster_peer (c : Nat) (f : Cluster → Cluster) : (updCluster c f s).peer = s.peer := rfl
@[simp] theorem updCluster_poison (c : Nat) (f : Cluster → Cluster) : (updCluster c f s).poison = s.poison := rfl
@[simp] theorem updCluster_waves (c : Nat) (f : Cluster → Cluster) : (updCluster c f s).waves = s.waves := rfl
@[simp] theorem updCluster_teams (c : Nat) (f : Cluster → Cluster) : (updCluster c f s).teams = s.teams := rfl
@[simp] theorem updCluster_grids (c : Nat) (f : Cluster → Cluster) : (updCluster c f s).grids = s.grids := rfl
@[simp] theorem updCluster_ctxs (c : Nat) (f : Cluster → Cluster) : (updCluster c f s).ctxs = s.ctxs := rfl
@[simp] theorem updCluster_dies (c : Nat) (f : Cluster → Cluster) : (updCluster c f s).dies = s.dies := rfl
@[simp] theorem updCluster_regs (c : Nat) (f : Cluster → Cluster) : (updCluster c f s).regs = s.regs := rfl
@[simp] theorem updCluster_boot (c : Nat) (f : Cluster → Cluster) : (updCluster c f s).boot = s.boot := rfl
@[simp] theorem updCluster_remote (c : Nat) (f : Cluster → Cluster) : (updCluster c f s).remote = s.remote := rfl
@[simp] theorem updCluster_posts (c : Nat) (f : Cluster → Cluster) : (updCluster c f s).posts = s.posts := rfl
@[simp] theorem updCluster_replays (c : Nat) (f : Cluster → Cluster) : (updCluster c f s).replays = s.replays := rfl
@[simp] theorem updCluster_tcbWork (c : Nat) (f : Cluster → Cluster) : (updCluster c f s).tcbWork = s.tcbWork := rfl
@[simp] theorem updCluster_hands (c : Nat) (f : Cluster → Cluster) : (updCluster c f s).hands = s.hands := rfl
@[simp] theorem updCluster_msix (c : Nat) (f : Cluster → Cluster) : (updCluster c f s).msix = s.msix := rfl
@[simp] theorem updCluster_clock (c : Nat) (f : Cluster → Cluster) : (updCluster c f s).clock = s.clock := rfl
@[simp] theorem updCluster_cur (c : Nat) (f : Cluster → Cluster) : (updCluster c f s).cur = s.cur := rfl
@[simp] theorem updCluster_lastUnit (c : Nat) (f : Cluster → Cluster) : (updCluster c f s).lastUnit = s.lastUnit := rfl
@[simp] theorem updCluster_chain (c : Nat) (f : Cluster → Cluster) : (updCluster c f s).chain = s.chain := rfl
@[simp] theorem updCluster_agenda (c : Nat) (f : Cluster → Cluster) : (updCluster c f s).agenda = s.agenda := rfl
@[simp] theorem updCluster_stalled (c : Nat) (f : Cluster → Cluster) : (updCluster c f s).stalled = s.stalled := rfl
@[simp] theorem updCluster_site (c : Nat) (f : Cluster → Cluster) : (updCluster c f s).site = s.site := rfl
@[simp] theorem updCluster_turn (c : Nat) (f : Cluster → Cluster) : (updCluster c f s).turn = s.turn := rfl
@[simp] theorem updCluster_polls (c : Nat) (f : Cluster → Cluster) : (updCluster c f s).polls = s.polls := rfl
@[simp] theorem updCluster_free (c : Nat) (f : Cluster → Cluster) : (updCluster c f s).free = s.free := rfl
@[simp] theorem updCluster_flash (c : Nat) (f : Cluster → Cluster) : (updCluster c f s).flash = s.flash := rfl
@[simp] theorem updCluster_flashMin (c : Nat) (f : Cluster → Cluster) : (updCluster c f s).flashMin = s.flashMin := rfl
@[simp] theorem updCluster_repairs (c : Nat) (f : Cluster → Cluster) : (updCluster c f s).repairs = s.repairs := rfl
@[simp] theorem updCluster_doing (c : Nat) (f : Cluster → Cluster) : (updCluster c f s).doing = s.doing := rfl
@[simp] theorem updCluster_asks (c : Nat) (f : Cluster → Cluster) : (updCluster c f s).asks = s.asks := rfl
@[simp] theorem updCluster_answers (c : Nat) (f : Cluster → Cluster) : (updCluster c f s).answers = s.answers := rfl
@[simp] theorem updCluster_walked (c : Nat) (f : Cluster → Cluster) : (updCluster c f s).walked = s.walked := rfl
@[simp] theorem updCluster_nextId (c : Nat) (f : Cluster → Cluster) : (updCluster c f s).nextId = s.nextId := rfl

/-! ### setDie -/

@[simp] theorem setDie_mem (d : Nat) (x : Die) : (setDie d x s).mem = s.mem := rfl
@[simp] theorem setDie_peer (d : Nat) (x : Die) : (setDie d x s).peer = s.peer := rfl
@[simp] theorem setDie_poison (d : Nat) (x : Die) : (setDie d x s).poison = s.poison := rfl
@[simp] theorem setDie_waves (d : Nat) (x : Die) : (setDie d x s).waves = s.waves := rfl
@[simp] theorem setDie_teams (d : Nat) (x : Die) : (setDie d x s).teams = s.teams := rfl
@[simp] theorem setDie_grids (d : Nat) (x : Die) : (setDie d x s).grids = s.grids := rfl
@[simp] theorem setDie_ctxs (d : Nat) (x : Die) : (setDie d x s).ctxs = s.ctxs := rfl
@[simp] theorem setDie_clusters (d : Nat) (x : Die) : (setDie d x s).clusters = s.clusters := rfl
@[simp] theorem setDie_regs (d : Nat) (x : Die) : (setDie d x s).regs = s.regs := rfl
@[simp] theorem setDie_boot (d : Nat) (x : Die) : (setDie d x s).boot = s.boot := rfl
@[simp] theorem setDie_remote (d : Nat) (x : Die) : (setDie d x s).remote = s.remote := rfl
@[simp] theorem setDie_posts (d : Nat) (x : Die) : (setDie d x s).posts = s.posts := rfl
@[simp] theorem setDie_replays (d : Nat) (x : Die) : (setDie d x s).replays = s.replays := rfl
@[simp] theorem setDie_tcbWork (d : Nat) (x : Die) : (setDie d x s).tcbWork = s.tcbWork := rfl
@[simp] theorem setDie_hands (d : Nat) (x : Die) : (setDie d x s).hands = s.hands := rfl
@[simp] theorem setDie_msix (d : Nat) (x : Die) : (setDie d x s).msix = s.msix := rfl
@[simp] theorem setDie_clock (d : Nat) (x : Die) : (setDie d x s).clock = s.clock := rfl
@[simp] theorem setDie_cur (d : Nat) (x : Die) : (setDie d x s).cur = s.cur := rfl
@[simp] theorem setDie_lastUnit (d : Nat) (x : Die) : (setDie d x s).lastUnit = s.lastUnit := rfl
@[simp] theorem setDie_chain (d : Nat) (x : Die) : (setDie d x s).chain = s.chain := rfl
@[simp] theorem setDie_agenda (d : Nat) (x : Die) : (setDie d x s).agenda = s.agenda := rfl
@[simp] theorem setDie_stalled (d : Nat) (x : Die) : (setDie d x s).stalled = s.stalled := rfl
@[simp] theorem setDie_site (d : Nat) (x : Die) : (setDie d x s).site = s.site := rfl
@[simp] theorem setDie_turn (d : Nat) (x : Die) : (setDie d x s).turn = s.turn := rfl
@[simp] theorem setDie_polls (d : Nat) (x : Die) : (setDie d x s).polls = s.polls := rfl
@[simp] theorem setDie_free (d : Nat) (x : Die) : (setDie d x s).free = s.free := rfl
@[simp] theorem setDie_flash (d : Nat) (x : Die) : (setDie d x s).flash = s.flash := rfl
@[simp] theorem setDie_flashMin (d : Nat) (x : Die) : (setDie d x s).flashMin = s.flashMin := rfl
@[simp] theorem setDie_repairs (d : Nat) (x : Die) : (setDie d x s).repairs = s.repairs := rfl
@[simp] theorem setDie_doing (d : Nat) (x : Die) : (setDie d x s).doing = s.doing := rfl
@[simp] theorem setDie_asks (d : Nat) (x : Die) : (setDie d x s).asks = s.asks := rfl
@[simp] theorem setDie_answers (d : Nat) (x : Die) : (setDie d x s).answers = s.answers := rfl
@[simp] theorem setDie_walked (d : Nat) (x : Die) : (setDie d x s).walked = s.walked := rfl
@[simp] theorem setDie_nextId (d : Nat) (x : Die) : (setDie d x s).nextId = s.nextId := rfl

/-! ### updDie -/

@[simp] theorem updDie_mem (d : Nat) (f : Die → Die) : (updDie d f s).mem = s.mem := rfl
@[simp] theorem updDie_peer (d : Nat) (f : Die → Die) : (updDie d f s).peer = s.peer := rfl
@[simp] theorem updDie_poison (d : Nat) (f : Die → Die) : (updDie d f s).poison = s.poison := rfl
@[simp] theorem updDie_waves (d : Nat) (f : Die → Die) : (updDie d f s).waves = s.waves := rfl
@[simp] theorem updDie_teams (d : Nat) (f : Die → Die) : (updDie d f s).teams = s.teams := rfl
@[simp] theorem updDie_grids (d : Nat) (f : Die → Die) : (updDie d f s).grids = s.grids := rfl
@[simp] theorem updDie_ctxs (d : Nat) (f : Die → Die) : (updDie d f s).ctxs = s.ctxs := rfl
@[simp] theorem updDie_clusters (d : Nat) (f : Die → Die) : (updDie d f s).clusters = s.clusters := rfl
@[simp] theorem updDie_regs (d : Nat) (f : Die → Die) : (updDie d f s).regs = s.regs := rfl
@[simp] theorem updDie_boot (d : Nat) (f : Die → Die) : (updDie d f s).boot = s.boot := rfl
@[simp] theorem updDie_remote (d : Nat) (f : Die → Die) : (updDie d f s).remote = s.remote := rfl
@[simp] theorem updDie_posts (d : Nat) (f : Die → Die) : (updDie d f s).posts = s.posts := rfl
@[simp] theorem updDie_replays (d : Nat) (f : Die → Die) : (updDie d f s).replays = s.replays := rfl
@[simp] theorem updDie_tcbWork (d : Nat) (f : Die → Die) : (updDie d f s).tcbWork = s.tcbWork := rfl
@[simp] theorem updDie_hands (d : Nat) (f : Die → Die) : (updDie d f s).hands = s.hands := rfl
@[simp] theorem updDie_msix (d : Nat) (f : Die → Die) : (updDie d f s).msix = s.msix := rfl
@[simp] theorem updDie_clock (d : Nat) (f : Die → Die) : (updDie d f s).clock = s.clock := rfl
@[simp] theorem updDie_cur (d : Nat) (f : Die → Die) : (updDie d f s).cur = s.cur := rfl
@[simp] theorem updDie_lastUnit (d : Nat) (f : Die → Die) : (updDie d f s).lastUnit = s.lastUnit := rfl
@[simp] theorem updDie_chain (d : Nat) (f : Die → Die) : (updDie d f s).chain = s.chain := rfl
@[simp] theorem updDie_agenda (d : Nat) (f : Die → Die) : (updDie d f s).agenda = s.agenda := rfl
@[simp] theorem updDie_stalled (d : Nat) (f : Die → Die) : (updDie d f s).stalled = s.stalled := rfl
@[simp] theorem updDie_site (d : Nat) (f : Die → Die) : (updDie d f s).site = s.site := rfl
@[simp] theorem updDie_turn (d : Nat) (f : Die → Die) : (updDie d f s).turn = s.turn := rfl
@[simp] theorem updDie_polls (d : Nat) (f : Die → Die) : (updDie d f s).polls = s.polls := rfl
@[simp] theorem updDie_free (d : Nat) (f : Die → Die) : (updDie d f s).free = s.free := rfl
@[simp] theorem updDie_flash (d : Nat) (f : Die → Die) : (updDie d f s).flash = s.flash := rfl
@[simp] theorem updDie_flashMin (d : Nat) (f : Die → Die) : (updDie d f s).flashMin = s.flashMin := rfl
@[simp] theorem updDie_repairs (d : Nat) (f : Die → Die) : (updDie d f s).repairs = s.repairs := rfl
@[simp] theorem updDie_doing (d : Nat) (f : Die → Die) : (updDie d f s).doing = s.doing := rfl
@[simp] theorem updDie_asks (d : Nat) (f : Die → Die) : (updDie d f s).asks = s.asks := rfl
@[simp] theorem updDie_answers (d : Nat) (f : Die → Die) : (updDie d f s).answers = s.answers := rfl
@[simp] theorem updDie_walked (d : Nat) (f : Die → Die) : (updDie d f s).walked = s.walked := rfl
@[simp] theorem updDie_nextId (d : Nat) (f : Die → Die) : (updDie d f s).nextId = s.nextId := rfl

/-! ### setCtx -/

@[simp] theorem setCtx_mem (k : Nat) (x : Ctx) : (setCtx k x s).mem = s.mem := rfl
@[simp] theorem setCtx_peer (k : Nat) (x : Ctx) : (setCtx k x s).peer = s.peer := rfl
@[simp] theorem setCtx_poison (k : Nat) (x : Ctx) : (setCtx k x s).poison = s.poison := rfl
@[simp] theorem setCtx_waves (k : Nat) (x : Ctx) : (setCtx k x s).waves = s.waves := rfl
@[simp] theorem setCtx_teams (k : Nat) (x : Ctx) : (setCtx k x s).teams = s.teams := rfl
@[simp] theorem setCtx_grids (k : Nat) (x : Ctx) : (setCtx k x s).grids = s.grids := rfl
@[simp] theorem setCtx_clusters (k : Nat) (x : Ctx) : (setCtx k x s).clusters = s.clusters := rfl
@[simp] theorem setCtx_dies (k : Nat) (x : Ctx) : (setCtx k x s).dies = s.dies := rfl
@[simp] theorem setCtx_regs (k : Nat) (x : Ctx) : (setCtx k x s).regs = s.regs := rfl
@[simp] theorem setCtx_boot (k : Nat) (x : Ctx) : (setCtx k x s).boot = s.boot := rfl
@[simp] theorem setCtx_remote (k : Nat) (x : Ctx) : (setCtx k x s).remote = s.remote := rfl
@[simp] theorem setCtx_posts (k : Nat) (x : Ctx) : (setCtx k x s).posts = s.posts := rfl
@[simp] theorem setCtx_replays (k : Nat) (x : Ctx) : (setCtx k x s).replays = s.replays := rfl
@[simp] theorem setCtx_tcbWork (k : Nat) (x : Ctx) : (setCtx k x s).tcbWork = s.tcbWork := rfl
@[simp] theorem setCtx_hands (k : Nat) (x : Ctx) : (setCtx k x s).hands = s.hands := rfl
@[simp] theorem setCtx_msix (k : Nat) (x : Ctx) : (setCtx k x s).msix = s.msix := rfl
@[simp] theorem setCtx_clock (k : Nat) (x : Ctx) : (setCtx k x s).clock = s.clock := rfl
@[simp] theorem setCtx_cur (k : Nat) (x : Ctx) : (setCtx k x s).cur = s.cur := rfl
@[simp] theorem setCtx_lastUnit (k : Nat) (x : Ctx) : (setCtx k x s).lastUnit = s.lastUnit := rfl
@[simp] theorem setCtx_chain (k : Nat) (x : Ctx) : (setCtx k x s).chain = s.chain := rfl
@[simp] theorem setCtx_agenda (k : Nat) (x : Ctx) : (setCtx k x s).agenda = s.agenda := rfl
@[simp] theorem setCtx_stalled (k : Nat) (x : Ctx) : (setCtx k x s).stalled = s.stalled := rfl
@[simp] theorem setCtx_site (k : Nat) (x : Ctx) : (setCtx k x s).site = s.site := rfl
@[simp] theorem setCtx_turn (k : Nat) (x : Ctx) : (setCtx k x s).turn = s.turn := rfl
@[simp] theorem setCtx_polls (k : Nat) (x : Ctx) : (setCtx k x s).polls = s.polls := rfl
@[simp] theorem setCtx_free (k : Nat) (x : Ctx) : (setCtx k x s).free = s.free := rfl
@[simp] theorem setCtx_flash (k : Nat) (x : Ctx) : (setCtx k x s).flash = s.flash := rfl
@[simp] theorem setCtx_flashMin (k : Nat) (x : Ctx) : (setCtx k x s).flashMin = s.flashMin := rfl
@[simp] theorem setCtx_repairs (k : Nat) (x : Ctx) : (setCtx k x s).repairs = s.repairs := rfl
@[simp] theorem setCtx_doing (k : Nat) (x : Ctx) : (setCtx k x s).doing = s.doing := rfl
@[simp] theorem setCtx_asks (k : Nat) (x : Ctx) : (setCtx k x s).asks = s.asks := rfl
@[simp] theorem setCtx_answers (k : Nat) (x : Ctx) : (setCtx k x s).answers = s.answers := rfl
@[simp] theorem setCtx_walked (k : Nat) (x : Ctx) : (setCtx k x s).walked = s.walked := rfl
@[simp] theorem setCtx_nextId (k : Nat) (x : Ctx) : (setCtx k x s).nextId = s.nextId := rfl

/-! ### updCtx -/

@[simp] theorem updCtx_mem (k : Nat) (f : Ctx → Ctx) : (updCtx k f s).mem = s.mem := rfl
@[simp] theorem updCtx_peer (k : Nat) (f : Ctx → Ctx) : (updCtx k f s).peer = s.peer := rfl
@[simp] theorem updCtx_poison (k : Nat) (f : Ctx → Ctx) : (updCtx k f s).poison = s.poison := rfl
@[simp] theorem updCtx_waves (k : Nat) (f : Ctx → Ctx) : (updCtx k f s).waves = s.waves := rfl
@[simp] theorem updCtx_teams (k : Nat) (f : Ctx → Ctx) : (updCtx k f s).teams = s.teams := rfl
@[simp] theorem updCtx_grids (k : Nat) (f : Ctx → Ctx) : (updCtx k f s).grids = s.grids := rfl
@[simp] theorem updCtx_clusters (k : Nat) (f : Ctx → Ctx) : (updCtx k f s).clusters = s.clusters := rfl
@[simp] theorem updCtx_dies (k : Nat) (f : Ctx → Ctx) : (updCtx k f s).dies = s.dies := rfl
@[simp] theorem updCtx_regs (k : Nat) (f : Ctx → Ctx) : (updCtx k f s).regs = s.regs := rfl
@[simp] theorem updCtx_boot (k : Nat) (f : Ctx → Ctx) : (updCtx k f s).boot = s.boot := rfl
@[simp] theorem updCtx_remote (k : Nat) (f : Ctx → Ctx) : (updCtx k f s).remote = s.remote := rfl
@[simp] theorem updCtx_posts (k : Nat) (f : Ctx → Ctx) : (updCtx k f s).posts = s.posts := rfl
@[simp] theorem updCtx_replays (k : Nat) (f : Ctx → Ctx) : (updCtx k f s).replays = s.replays := rfl
@[simp] theorem updCtx_tcbWork (k : Nat) (f : Ctx → Ctx) : (updCtx k f s).tcbWork = s.tcbWork := rfl
@[simp] theorem updCtx_hands (k : Nat) (f : Ctx → Ctx) : (updCtx k f s).hands = s.hands := rfl
@[simp] theorem updCtx_msix (k : Nat) (f : Ctx → Ctx) : (updCtx k f s).msix = s.msix := rfl
@[simp] theorem updCtx_clock (k : Nat) (f : Ctx → Ctx) : (updCtx k f s).clock = s.clock := rfl
@[simp] theorem updCtx_cur (k : Nat) (f : Ctx → Ctx) : (updCtx k f s).cur = s.cur := rfl
@[simp] theorem updCtx_lastUnit (k : Nat) (f : Ctx → Ctx) : (updCtx k f s).lastUnit = s.lastUnit := rfl
@[simp] theorem updCtx_chain (k : Nat) (f : Ctx → Ctx) : (updCtx k f s).chain = s.chain := rfl
@[simp] theorem updCtx_agenda (k : Nat) (f : Ctx → Ctx) : (updCtx k f s).agenda = s.agenda := rfl
@[simp] theorem updCtx_stalled (k : Nat) (f : Ctx → Ctx) : (updCtx k f s).stalled = s.stalled := rfl
@[simp] theorem updCtx_site (k : Nat) (f : Ctx → Ctx) : (updCtx k f s).site = s.site := rfl
@[simp] theorem updCtx_turn (k : Nat) (f : Ctx → Ctx) : (updCtx k f s).turn = s.turn := rfl
@[simp] theorem updCtx_polls (k : Nat) (f : Ctx → Ctx) : (updCtx k f s).polls = s.polls := rfl
@[simp] theorem updCtx_free (k : Nat) (f : Ctx → Ctx) : (updCtx k f s).free = s.free := rfl
@[simp] theorem updCtx_flash (k : Nat) (f : Ctx → Ctx) : (updCtx k f s).flash = s.flash := rfl
@[simp] theorem updCtx_flashMin (k : Nat) (f : Ctx → Ctx) : (updCtx k f s).flashMin = s.flashMin := rfl
@[simp] theorem updCtx_repairs (k : Nat) (f : Ctx → Ctx) : (updCtx k f s).repairs = s.repairs := rfl
@[simp] theorem updCtx_doing (k : Nat) (f : Ctx → Ctx) : (updCtx k f s).doing = s.doing := rfl
@[simp] theorem updCtx_asks (k : Nat) (f : Ctx → Ctx) : (updCtx k f s).asks = s.asks := rfl
@[simp] theorem updCtx_answers (k : Nat) (f : Ctx → Ctx) : (updCtx k f s).answers = s.answers := rfl
@[simp] theorem updCtx_walked (k : Nat) (f : Ctx → Ctx) : (updCtx k f s).walked = s.walked := rfl
@[simp] theorem updCtx_nextId (k : Nat) (f : Ctx → Ctx) : (updCtx k f s).nextId = s.nextId := rfl

/-! ### updTeam -/

@[simp] theorem updTeam_mem (t : Nat) (f : Team → Team) : (updTeam t f s).mem = s.mem := rfl
@[simp] theorem updTeam_peer (t : Nat) (f : Team → Team) : (updTeam t f s).peer = s.peer := rfl
@[simp] theorem updTeam_poison (t : Nat) (f : Team → Team) : (updTeam t f s).poison = s.poison := rfl
@[simp] theorem updTeam_waves (t : Nat) (f : Team → Team) : (updTeam t f s).waves = s.waves := rfl
@[simp] theorem updTeam_grids (t : Nat) (f : Team → Team) : (updTeam t f s).grids = s.grids := rfl
@[simp] theorem updTeam_ctxs (t : Nat) (f : Team → Team) : (updTeam t f s).ctxs = s.ctxs := rfl
@[simp] theorem updTeam_clusters (t : Nat) (f : Team → Team) : (updTeam t f s).clusters = s.clusters := rfl
@[simp] theorem updTeam_dies (t : Nat) (f : Team → Team) : (updTeam t f s).dies = s.dies := rfl
@[simp] theorem updTeam_regs (t : Nat) (f : Team → Team) : (updTeam t f s).regs = s.regs := rfl
@[simp] theorem updTeam_boot (t : Nat) (f : Team → Team) : (updTeam t f s).boot = s.boot := rfl
@[simp] theorem updTeam_remote (t : Nat) (f : Team → Team) : (updTeam t f s).remote = s.remote := rfl
@[simp] theorem updTeam_posts (t : Nat) (f : Team → Team) : (updTeam t f s).posts = s.posts := rfl
@[simp] theorem updTeam_replays (t : Nat) (f : Team → Team) : (updTeam t f s).replays = s.replays := rfl
@[simp] theorem updTeam_tcbWork (t : Nat) (f : Team → Team) : (updTeam t f s).tcbWork = s.tcbWork := rfl
@[simp] theorem updTeam_hands (t : Nat) (f : Team → Team) : (updTeam t f s).hands = s.hands := rfl
@[simp] theorem updTeam_msix (t : Nat) (f : Team → Team) : (updTeam t f s).msix = s.msix := rfl
@[simp] theorem updTeam_clock (t : Nat) (f : Team → Team) : (updTeam t f s).clock = s.clock := rfl
@[simp] theorem updTeam_cur (t : Nat) (f : Team → Team) : (updTeam t f s).cur = s.cur := rfl
@[simp] theorem updTeam_lastUnit (t : Nat) (f : Team → Team) : (updTeam t f s).lastUnit = s.lastUnit := rfl
@[simp] theorem updTeam_chain (t : Nat) (f : Team → Team) : (updTeam t f s).chain = s.chain := rfl
@[simp] theorem updTeam_agenda (t : Nat) (f : Team → Team) : (updTeam t f s).agenda = s.agenda := rfl
@[simp] theorem updTeam_stalled (t : Nat) (f : Team → Team) : (updTeam t f s).stalled = s.stalled := rfl
@[simp] theorem updTeam_site (t : Nat) (f : Team → Team) : (updTeam t f s).site = s.site := rfl
@[simp] theorem updTeam_turn (t : Nat) (f : Team → Team) : (updTeam t f s).turn = s.turn := rfl
@[simp] theorem updTeam_polls (t : Nat) (f : Team → Team) : (updTeam t f s).polls = s.polls := rfl
@[simp] theorem updTeam_free (t : Nat) (f : Team → Team) : (updTeam t f s).free = s.free := rfl
@[simp] theorem updTeam_flash (t : Nat) (f : Team → Team) : (updTeam t f s).flash = s.flash := rfl
@[simp] theorem updTeam_flashMin (t : Nat) (f : Team → Team) : (updTeam t f s).flashMin = s.flashMin := rfl
@[simp] theorem updTeam_repairs (t : Nat) (f : Team → Team) : (updTeam t f s).repairs = s.repairs := rfl
@[simp] theorem updTeam_doing (t : Nat) (f : Team → Team) : (updTeam t f s).doing = s.doing := rfl
@[simp] theorem updTeam_asks (t : Nat) (f : Team → Team) : (updTeam t f s).asks = s.asks := rfl
@[simp] theorem updTeam_answers (t : Nat) (f : Team → Team) : (updTeam t f s).answers = s.answers := rfl
@[simp] theorem updTeam_walked (t : Nat) (f : Team → Team) : (updTeam t f s).walked = s.walked := rfl
@[simp] theorem updTeam_nextId (t : Nat) (f : Team → Team) : (updTeam t f s).nextId = s.nextId := rfl

/-! ### updWave -/

@[simp] theorem updWave_mem (k : Nat) (f : Wave → Wave) : (updWave k f s).mem = s.mem := rfl
@[simp] theorem updWave_peer (k : Nat) (f : Wave → Wave) : (updWave k f s).peer = s.peer := rfl
@[simp] theorem updWave_poison (k : Nat) (f : Wave → Wave) : (updWave k f s).poison = s.poison := rfl
@[simp] theorem updWave_teams (k : Nat) (f : Wave → Wave) : (updWave k f s).teams = s.teams := rfl
@[simp] theorem updWave_grids (k : Nat) (f : Wave → Wave) : (updWave k f s).grids = s.grids := rfl
@[simp] theorem updWave_ctxs (k : Nat) (f : Wave → Wave) : (updWave k f s).ctxs = s.ctxs := rfl
@[simp] theorem updWave_clusters (k : Nat) (f : Wave → Wave) : (updWave k f s).clusters = s.clusters := rfl
@[simp] theorem updWave_dies (k : Nat) (f : Wave → Wave) : (updWave k f s).dies = s.dies := rfl
@[simp] theorem updWave_regs (k : Nat) (f : Wave → Wave) : (updWave k f s).regs = s.regs := rfl
@[simp] theorem updWave_boot (k : Nat) (f : Wave → Wave) : (updWave k f s).boot = s.boot := rfl
@[simp] theorem updWave_remote (k : Nat) (f : Wave → Wave) : (updWave k f s).remote = s.remote := rfl
@[simp] theorem updWave_posts (k : Nat) (f : Wave → Wave) : (updWave k f s).posts = s.posts := rfl
@[simp] theorem updWave_replays (k : Nat) (f : Wave → Wave) : (updWave k f s).replays = s.replays := rfl
@[simp] theorem updWave_tcbWork (k : Nat) (f : Wave → Wave) : (updWave k f s).tcbWork = s.tcbWork := rfl
@[simp] theorem updWave_hands (k : Nat) (f : Wave → Wave) : (updWave k f s).hands = s.hands := rfl
@[simp] theorem updWave_msix (k : Nat) (f : Wave → Wave) : (updWave k f s).msix = s.msix := rfl
@[simp] theorem updWave_clock (k : Nat) (f : Wave → Wave) : (updWave k f s).clock = s.clock := rfl
@[simp] theorem updWave_cur (k : Nat) (f : Wave → Wave) : (updWave k f s).cur = s.cur := rfl
@[simp] theorem updWave_lastUnit (k : Nat) (f : Wave → Wave) : (updWave k f s).lastUnit = s.lastUnit := rfl
@[simp] theorem updWave_chain (k : Nat) (f : Wave → Wave) : (updWave k f s).chain = s.chain := rfl
@[simp] theorem updWave_agenda (k : Nat) (f : Wave → Wave) : (updWave k f s).agenda = s.agenda := rfl
@[simp] theorem updWave_stalled (k : Nat) (f : Wave → Wave) : (updWave k f s).stalled = s.stalled := rfl
@[simp] theorem updWave_site (k : Nat) (f : Wave → Wave) : (updWave k f s).site = s.site := rfl
@[simp] theorem updWave_turn (k : Nat) (f : Wave → Wave) : (updWave k f s).turn = s.turn := rfl
@[simp] theorem updWave_polls (k : Nat) (f : Wave → Wave) : (updWave k f s).polls = s.polls := rfl
@[simp] theorem updWave_free (k : Nat) (f : Wave → Wave) : (updWave k f s).free = s.free := rfl
@[simp] theorem updWave_flash (k : Nat) (f : Wave → Wave) : (updWave k f s).flash = s.flash := rfl
@[simp] theorem updWave_flashMin (k : Nat) (f : Wave → Wave) : (updWave k f s).flashMin = s.flashMin := rfl
@[simp] theorem updWave_repairs (k : Nat) (f : Wave → Wave) : (updWave k f s).repairs = s.repairs := rfl
@[simp] theorem updWave_doing (k : Nat) (f : Wave → Wave) : (updWave k f s).doing = s.doing := rfl
@[simp] theorem updWave_asks (k : Nat) (f : Wave → Wave) : (updWave k f s).asks = s.asks := rfl
@[simp] theorem updWave_answers (k : Nat) (f : Wave → Wave) : (updWave k f s).answers = s.answers := rfl
@[simp] theorem updWave_walked (k : Nat) (f : Wave → Wave) : (updWave k f s).walked = s.walked := rfl
@[simp] theorem updWave_nextId (k : Nat) (f : Wave → Wave) : (updWave k f s).nextId = s.nextId := rfl

/-! ### updGrid -/

@[simp] theorem updGrid_mem (g : Nat) (f : Grid → Grid) : (updGrid g f s).mem = s.mem := rfl
@[simp] theorem updGrid_peer (g : Nat) (f : Grid → Grid) : (updGrid g f s).peer = s.peer := rfl
@[simp] theorem updGrid_poison (g : Nat) (f : Grid → Grid) : (updGrid g f s).poison = s.poison := rfl
@[simp] theorem updGrid_waves (g : Nat) (f : Grid → Grid) : (updGrid g f s).waves = s.waves := rfl
@[simp] theorem updGrid_teams (g : Nat) (f : Grid → Grid) : (updGrid g f s).teams = s.teams := rfl
@[simp] theorem updGrid_ctxs (g : Nat) (f : Grid → Grid) : (updGrid g f s).ctxs = s.ctxs := rfl
@[simp] theorem updGrid_clusters (g : Nat) (f : Grid → Grid) : (updGrid g f s).clusters = s.clusters := rfl
@[simp] theorem updGrid_dies (g : Nat) (f : Grid → Grid) : (updGrid g f s).dies = s.dies := rfl
@[simp] theorem updGrid_regs (g : Nat) (f : Grid → Grid) : (updGrid g f s).regs = s.regs := rfl
@[simp] theorem updGrid_boot (g : Nat) (f : Grid → Grid) : (updGrid g f s).boot = s.boot := rfl
@[simp] theorem updGrid_remote (g : Nat) (f : Grid → Grid) : (updGrid g f s).remote = s.remote := rfl
@[simp] theorem updGrid_posts (g : Nat) (f : Grid → Grid) : (updGrid g f s).posts = s.posts := rfl
@[simp] theorem updGrid_replays (g : Nat) (f : Grid → Grid) : (updGrid g f s).replays = s.replays := rfl
@[simp] theorem updGrid_tcbWork (g : Nat) (f : Grid → Grid) : (updGrid g f s).tcbWork = s.tcbWork := rfl
@[simp] theorem updGrid_hands (g : Nat) (f : Grid → Grid) : (updGrid g f s).hands = s.hands := rfl
@[simp] theorem updGrid_msix (g : Nat) (f : Grid → Grid) : (updGrid g f s).msix = s.msix := rfl
@[simp] theorem updGrid_clock (g : Nat) (f : Grid → Grid) : (updGrid g f s).clock = s.clock := rfl
@[simp] theorem updGrid_cur (g : Nat) (f : Grid → Grid) : (updGrid g f s).cur = s.cur := rfl
@[simp] theorem updGrid_lastUnit (g : Nat) (f : Grid → Grid) : (updGrid g f s).lastUnit = s.lastUnit := rfl
@[simp] theorem updGrid_chain (g : Nat) (f : Grid → Grid) : (updGrid g f s).chain = s.chain := rfl
@[simp] theorem updGrid_agenda (g : Nat) (f : Grid → Grid) : (updGrid g f s).agenda = s.agenda := rfl
@[simp] theorem updGrid_stalled (g : Nat) (f : Grid → Grid) : (updGrid g f s).stalled = s.stalled := rfl
@[simp] theorem updGrid_site (g : Nat) (f : Grid → Grid) : (updGrid g f s).site = s.site := rfl
@[simp] theorem updGrid_turn (g : Nat) (f : Grid → Grid) : (updGrid g f s).turn = s.turn := rfl
@[simp] theorem updGrid_polls (g : Nat) (f : Grid → Grid) : (updGrid g f s).polls = s.polls := rfl
@[simp] theorem updGrid_free (g : Nat) (f : Grid → Grid) : (updGrid g f s).free = s.free := rfl
@[simp] theorem updGrid_flash (g : Nat) (f : Grid → Grid) : (updGrid g f s).flash = s.flash := rfl
@[simp] theorem updGrid_flashMin (g : Nat) (f : Grid → Grid) : (updGrid g f s).flashMin = s.flashMin := rfl
@[simp] theorem updGrid_repairs (g : Nat) (f : Grid → Grid) : (updGrid g f s).repairs = s.repairs := rfl
@[simp] theorem updGrid_doing (g : Nat) (f : Grid → Grid) : (updGrid g f s).doing = s.doing := rfl
@[simp] theorem updGrid_asks (g : Nat) (f : Grid → Grid) : (updGrid g f s).asks = s.asks := rfl
@[simp] theorem updGrid_answers (g : Nat) (f : Grid → Grid) : (updGrid g f s).answers = s.answers := rfl
@[simp] theorem updGrid_walked (g : Nat) (f : Grid → Grid) : (updGrid g f s).walked = s.walked := rfl
@[simp] theorem updGrid_nextId (g : Nat) (f : Grid → Grid) : (updGrid g f s).nextId = s.nextId := rfl

/-! ### post -/

@[simp] theorem post_mem (e : Nat) (i : Instr) : (post e i s).mem = s.mem := rfl
@[simp] theorem post_peer (e : Nat) (i : Instr) : (post e i s).peer = s.peer := rfl
@[simp] theorem post_poison (e : Nat) (i : Instr) : (post e i s).poison = s.poison := rfl
@[simp] theorem post_waves (e : Nat) (i : Instr) : (post e i s).waves = s.waves := rfl
@[simp] theorem post_teams (e : Nat) (i : Instr) : (post e i s).teams = s.teams := rfl
@[simp] theorem post_grids (e : Nat) (i : Instr) : (post e i s).grids = s.grids := rfl
@[simp] theorem post_ctxs (e : Nat) (i : Instr) : (post e i s).ctxs = s.ctxs := rfl
@[simp] theorem post_clusters (e : Nat) (i : Instr) : (post e i s).clusters = s.clusters := rfl
@[simp] theorem post_dies (e : Nat) (i : Instr) : (post e i s).dies = s.dies := rfl
@[simp] theorem post_regs (e : Nat) (i : Instr) : (post e i s).regs = s.regs := rfl
@[simp] theorem post_boot (e : Nat) (i : Instr) : (post e i s).boot = s.boot := rfl
@[simp] theorem post_remote (e : Nat) (i : Instr) : (post e i s).remote = s.remote := rfl
@[simp] theorem post_posts (e : Nat) (i : Instr) : (post e i s).posts = s.posts := rfl
@[simp] theorem post_replays (e : Nat) (i : Instr) : (post e i s).replays = s.replays := rfl
@[simp] theorem post_tcbWork (e : Nat) (i : Instr) : (post e i s).tcbWork = s.tcbWork := rfl
@[simp] theorem post_hands (e : Nat) (i : Instr) : (post e i s).hands = s.hands := rfl
@[simp] theorem post_msix (e : Nat) (i : Instr) : (post e i s).msix = s.msix := rfl
@[simp] theorem post_clock (e : Nat) (i : Instr) : (post e i s).clock = s.clock := rfl
@[simp] theorem post_cur (e : Nat) (i : Instr) : (post e i s).cur = s.cur := rfl
@[simp] theorem post_lastUnit (e : Nat) (i : Instr) : (post e i s).lastUnit = s.lastUnit := rfl
@[simp] theorem post_chain (e : Nat) (i : Instr) : (post e i s).chain = s.chain := rfl
@[simp] theorem post_stalled (e : Nat) (i : Instr) : (post e i s).stalled = s.stalled := rfl
@[simp] theorem post_site (e : Nat) (i : Instr) : (post e i s).site = s.site := rfl
@[simp] theorem post_turn (e : Nat) (i : Instr) : (post e i s).turn = s.turn := rfl
@[simp] theorem post_polls (e : Nat) (i : Instr) : (post e i s).polls = s.polls := rfl
@[simp] theorem post_free (e : Nat) (i : Instr) : (post e i s).free = s.free := rfl
@[simp] theorem post_flash (e : Nat) (i : Instr) : (post e i s).flash = s.flash := rfl
@[simp] theorem post_flashMin (e : Nat) (i : Instr) : (post e i s).flashMin = s.flashMin := rfl
@[simp] theorem post_repairs (e : Nat) (i : Instr) : (post e i s).repairs = s.repairs := rfl
@[simp] theorem post_doing (e : Nat) (i : Instr) : (post e i s).doing = s.doing := rfl
@[simp] theorem post_asks (e : Nat) (i : Instr) : (post e i s).asks = s.asks := rfl
@[simp] theorem post_answers (e : Nat) (i : Instr) : (post e i s).answers = s.answers := rfl
@[simp] theorem post_walked (e : Nat) (i : Instr) : (post e i s).walked = s.walked := rfl
@[simp] theorem post_nextId (e : Nat) (i : Instr) : (post e i s).nextId = s.nextId := rfl

/-! ### Parts by number, read after they are written -/

theorem getCluster_setCluster (c j : Nat) (x : Cluster) : getCluster (setCluster c x s) j = if j = c then x else getCluster s j :=
  aget_aset ({} : Cluster) x s.clusters c j

theorem getCluster_updCluster (c j : Nat) (f : Cluster → Cluster) :
    getCluster (updCluster c f s) j = if j = c then f (getCluster s c) else getCluster s j :=
  getCluster_setCluster s c j (f (getCluster s c))

theorem getDie_setDie (d j : Nat) (x : Die) : getDie (setDie d x s) j = if j = d then x else getDie s j :=
  aget_aset ({} : Die) x s.dies d j

theorem getDie_updDie (d j : Nat) (f : Die → Die) : getDie (updDie d f s) j = if j = d then f (getDie s d) else getDie s j :=
  getDie_setDie s d j (f (getDie s d))

theorem getCtx_setCtx_same (k : Nat) (x : Ctx) : getCtx (setCtx k x s) k = x := by
  simp only [getCtx, setCtx, aget_aset, if_true]

theorem getCtx_setCtx_other (k j : Nat) (x : Ctx) (h : j ≠ k) : getCtx (setCtx k x s) j = getCtx s j := by
  simp only [getCtx, setCtx, aget_aset, if_neg h]

theorem getCtx_updCtx_same (k : Nat) (f : Ctx → Ctx) : getCtx (updCtx k f s) k = f (getCtx s k) :=
  getCtx_setCtx_same s k (f (getCtx s k))

theorem getCtx_updCtx_other (k j : Nat) (f : Ctx → Ctx) (h : j ≠ k) : getCtx (updCtx k f s) j = getCtx s j :=
  getCtx_setCtx_other s k j (f (getCtx s k)) h

@[simp] theorem getCluster_updWave (k j : Nat) (f : Wave → Wave) : getCluster (updWave k f s) j = getCluster s j := rfl
@[simp] theorem getDie_updWave (k j : Nat) (f : Wave → Wave) : getDie (updWave k f s) j = getDie s j := rfl
@[simp] theorem getCtx_updWave (k j : Nat) (f : Wave → Wave) : getCtx (updWave k f s) j = getCtx s j := rfl
@[simp] theorem getDie_updCluster (c j : Nat) (f : Cluster → Cluster) : getDie (updCluster c f s) j = getDie s j := rfl
@[simp] theorem getCtx_updCluster (c j : Nat) (f : Cluster → Cluster) : getCtx (updCluster c f s) j = getCtx s j := rfl
@[simp] theorem getCluster_updDie (d j : Nat) (f : Die → Die) : getCluster (updDie d f s) j = getCluster s j := rfl
@[simp] theorem getCtx_updDie (d j : Nat) (f : Die → Die) : getCtx (updDie d f s) j = getCtx s j := rfl
@[simp] theorem getCluster_updCtx (k j : Nat) (f : Ctx → Ctx) : getCluster (updCtx k f s) j = getCluster s j := rfl
@[simp] theorem getDie_updCtx (k j : Nat) (f : Ctx → Ctx) : getDie (updCtx k f s) j = getDie s j := rfl
@[simp] theorem getCluster_updTeam (t j : Nat) (f : Team → Team) : getCluster (updTeam t f s) j = getCluster s j := rfl
@[simp] theorem getDie_updTeam (t j : Nat) (f : Team → Team) : getDie (updTeam t f s) j = getDie s j := rfl
@[simp] theorem getCluster_post (e j : Nat) (i : Instr) : getCluster (post e i s) j = getCluster s j := rfl
@[simp] theorem getDie_post (e j : Nat) (i : Instr) : getDie (post e i s) j = getDie s j := rfl

theorem find_map_same {α : Type} (id : α → Nat) (k : Nat) (f : α → α) (hf : ∀ x, id (f x) = id x) (l : List α) :
    (l.map (fun x => if id x == k then f x else x)).find? (fun x => id x == k) = (l.find? (fun x => id x == k)).map f := by
  induction l with
  | nil => rfl
  | cons x r ih =>
    by_cases h : id x = k
    · simp only [List.map_cons, List.find?_cons, h, hf, beq_self_eq_true, if_true, Option.map_some]
    · simp only [List.map_cons, List.find?_cons, show (id x == k) = false from by simpa using h, Bool.false_eq_true, if_false, ih]

theorem find_map_other {α : Type} (id : α → Nat) (k j : Nat) (f : α → α) (hf : ∀ x, id (f x) = id x) (h : j ≠ k) (l : List α) :
    (l.map (fun x => if id x == k then f x else x)).find? (fun x => id x == j) = l.find? (fun x => id x == j) := by
  induction l with
  | nil => rfl
  | cons x r ih =>
    by_cases hk : id x = k
    · have hj : (id x == j) = false := by simp [hk]; omega
      simp only [List.map_cons, List.find?_cons, show (id x == k) = true from by simp [hk], if_true, hf, hj, ih]
    · simp only [List.map_cons, List.find?_cons, show (id x == k) = false from by simpa using hk, Bool.false_eq_true, if_false, ih]

/-- A team read after a team with the same number is changed. -/
theorem getTeam_updTeam_same (t : Nat) (f : Team → Team) (hf : ∀ x, (f x).id = x.id) : getTeam (updTeam t f s) t = (getTeam s t).map f :=
  find_map_same Team.id t f hf s.teams

theorem getTeam_updTeam_other (t j : Nat) (f : Team → Team) (hf : ∀ x, (f x).id = x.id) (h : j ≠ t) : getTeam (updTeam t f s) j = getTeam s j :=
  find_map_other Team.id t j f hf h s.teams

/-- The issuing wave read after it is changed, where there is one. -/
theorem curWave_updCur (f : Wave → Wave) (hf : ∀ x, (f x).id = x.id) (h : (s.waves.find? (fun w => w.id == s.cur.1)).isSome) :
    curWave (updCur f s) = f (curWave s) := by
  obtain ⟨w, hw⟩ := Option.isSome_iff_exists.mp h
  have e : (updCur f s).waves.find? (fun w => w.id == s.cur.1) = some (f w) := by
    rw [show (updCur f s).waves.find? (fun w => w.id == s.cur.1) = _ from find_map_same Wave.id s.cur.1 f hf s.waves, hw]; rfl
  have a : curWave (updCur f s) = f w := by
    show ((updCur f s).waves.find? (fun w => w.id == s.cur.1)).getD default = f w
    rw [e]; rfl
  have b : curWave s = w := by
    show (s.waves.find? (fun w => w.id == s.cur.1)).getD default = w
    rw [hw]; rfl
  rw [a, b]

/-- A wave whose number is not the one changed is still there, as it was. -/
theorem mem_updWave_other (k : Nat) (f : Wave → Wave) (w : Wave) (hw : w ∈ s.waves) (h : w.id ≠ k) : w ∈ (updWave k f s).waves :=
  List.mem_map.mpr ⟨w, hw, by simp [h]⟩

end Sys2Proof.Laws
end

