-- ==== Sys2Proof/Laws/Home.lean ====
section
/-! SUPPORT. What the home of a line, the remote-data caches and the filters do to memory: they leave it alone, or they write exactly the bytes they are
given; and memory keeps its canonical form. -/

namespace Sys2Proof.Laws

open Sys2Proof Sys2Proof.Machine

/-- What every step of a fold keeps, the fold keeps. -/
theorem fold_keep {α β σ : Type} (p : σ → β) (g : σ → α → σ) (h : ∀ s a, p (g s a) = p s) (l : List α) (s : σ) : p (l.foldl g s) = p s := by
  induction l generalizing s with
  | nil => rfl
  | cons a r ih => rw [List.foldl_cons, ih, h]

/-- What every step of a fold preserves, the fold preserves. -/
theorem fold_inv {α σ : Type} (p : σ → Prop) (g : σ → α → σ) (h : ∀ s a, p s → p (g s a)) (l : List α) (s : σ) (hs : p s) : p (l.foldl g s) := by
  induction l generalizing s with
  | nil => exact hs
  | cons a r ih => exact ih (g s a) (h s a hs)

theorem foldl_mem {α : Type} (g : State → α → State) (h : ∀ s a, (g s a).mem = s.mem) (l : List α) (s : State) : (l.foldl g s).mem = s.mem :=
  fold_keep State.mem g h l s

theorem ite_mem (b : Prop) [Decidable b] (x y : State) : (if b then x else y).mem = if b then x.mem else y.mem := by split <;> rfl

/-! ### Operations that leave memory alone -/

@[simp] theorem updDir_mem (region : Nat) (f : DirEntry → DirEntry) (s : State) : (updDir region f s).mem = s.mem := rfl

@[simp] theorem filterDrop_mem (c line keep : Nat) (s : State) : (filterDrop c line keep s).mem = s.mem := by
  simp only [filterDrop]; split <;> rfl

@[simp] theorem filterAdd_mem (c line unit : Nat) (s : State) : (filterAdd c line unit s).mem = s.mem := by
  simp only [filterAdd, updCluster_mem]
  split
  · rfl
  · split <;> rfl

@[simp] theorem probeCluster_mem (region : Nat) (mask : BitVec 8) (keep : Nat → Nat) (c : Nat) (s : State) :
    (probeCluster region mask keep c s).mem = s.mem := by
  simp only [probeCluster, ite_mem, updDir_mem, updDie_mem, foldl_mem, filterDrop_mem, implies_true, ite_self]

@[simp] theorem rdcSet_mem (d line : Nat) (x : RdcLine) (s : State) : (rdcSet d line x s).mem = s.mem := rfl
@[simp] theorem rdcReport_mem (d region : Nat) (s : State) : (rdcReport d region s).mem = s.mem := rfl

@[simp] theorem rdcProbe_mem (d line : Nat) (keep : Nat → Nat) (s : State) : (rdcProbe d line keep s).mem = s.mem := by
  simp only [rdcProbe, updDie_mem, foldl_mem, ite_mem, filterDrop_mem, ite_self, implies_true]

@[simp] theorem markFills_mem (d line : Nat) (s : State) : (markFills d line s).mem = s.mem := by
  simp only [markFills]; split <;> rfl

@[simp] theorem rdcInvalidate_mem (d line : Nat) (keep : Nat → Nat) (s : State) : (rdcInvalidate d line keep s).mem = s.mem := by
  simp only [rdcInvalidate, rdcReport_mem, rdcProbe_mem, markFills_mem, rdcSet_mem]

@[simp] theorem vecSet_mem (c region : Nat) (s : State) : (vecSet c region s).mem = s.mem := rfl

@[simp] theorem updShadows_mem (c region : Nat) (fmt : BitVec 3) (f : Shadow → Shadow) (s : State) : (updShadows c region fmt f s).mem = s.mem := rfl
@[simp] theorem holdMsg_mem (c region : Nat) (fmt : BitVec 3) (ws : List Nat) (s : State) : (holdMsg c region fmt ws s).mem = s.mem := rfl
@[simp] theorem dataMsgs_mem (c region : Nat) (fmt : BitVec 3) (ws : List (Nat × W32)) (s : State) : (dataMsgs c region fmt ws s).mem = s.mem := rfl
@[simp] theorem invalMsg_mem (c region : Nat) (fmt : BitVec 3) (s : State) : (invalMsg c region fmt s).mem = s.mem := rfl

@[simp] theorem wakeIf_mem (p : Wave → WaitA → Bool) (s : State) : (wakeIf p s).mem = s.mem := by
  simp only [wakeIf]
  split
  · rfl
  · exact foldl_mem _ (by intros; rfl) _ _

@[simp] theorem needHost_mem (line : Nat) (s : State) : (needHost line s).mem = s.mem := rfl

@[simp] theorem wakeLine_mem (line : Nat) (die : Nat → Bool) (s : State) : (wakeLine line die s).mem = s.mem := wakeIf_mem _ s
@[simp] theorem wakeLocal_mem (team off : Nat) (s : State) : (wakeLocal team off s).mem = s.mem := wakeIf_mem _ s

@[simp] theorem flushData_mem (region : Nat) (s : State) : (flushData region s).mem = s.mem := by
  simp only [flushData]
  split
  · exact foldl_mem _ (by intros; split <;> rfl) _ _
  · rfl

/-! ### The home writes what it is given -/

theorem foldl_post_mem (l : List (SubClass × List (Nat × W32))) (e : SubClass × List (Nat × W32) → Nat → Instr) (s : State) :
    (l.foldl (fun s p => (classClusters p.1 false).foldl (fun s c => post c (e p c) s) s) s).mem = s.mem :=
  foldl_mem _ (by intros; exact foldl_mem _ (by intros; rfl) _ _) _ _

theorem foldl_told_mem (region : Nat) (l : List (SubClass × List (Nat × W32))) (s : State) :
    (l.foldl (fun s p => (classClusters p.1 true).foldl (fun s c => invalMsg c region p.1.fmt s)
      ((classClusters p.1 false).foldl (fun s c => holdMsg c region p.1.fmt (p.2.map (·.1)) s) s)) s).mem = s.mem :=
  foldl_mem _ (by intros; exact (foldl_mem _ (by intros; rfl) _ _).trans (foldl_mem _ (by intros; rfl) _ _)) _ _

/-- An update of a line at its home writes its bytes to memory and no others. -/
theorem homeUpdate_mem (line : Nat) (bs : List (Nat × Byte)) (src : Source) (s : State) : (homeUpdate line bs src s).mem = writeBytes s.mem bs := by
  unfold homeUpdate
  dsimp only
  rw [foldl_post_mem, wakeLine_mem]
  dsimp only
  rw [ite_mem, needHost_mem]
  simp only [updDir_mem, ite_self]
  rw [foldl_mem _ (by intros; rw [rdcInvalidate_mem]), foldl_mem _ (by intros; rw [probeCluster_mem]), foldl_told_mem, flushData_mem]

theorem wf_homeUpdate (line : Nat) (bs : List (Nat × Byte)) (src : Source) (s : State) (w : Memory.wf s.mem = true) :
    Memory.wf (homeUpdate line bs src s).mem = true := by
  rw [homeUpdate_mem]; exact wf_writeBytes bs s.mem w

/-- A writeback writes the die's dirty bytes of the line, and nothing where there are none. -/
theorem writeback_mem (d line : Nat) (s : State) : (writeback d line s).mem = writeBytes s.mem (dirtyBytes s d line) := by
  simp only [writeback]
  split
  · rename_i h; rw [List.isEmpty_iff.mp h]; rfl
  · simp only [rdcReport_mem, ite_mem, rdcProbe_mem, rdcSet_mem, ite_self, markFills_mem, homeUpdate_mem]

theorem wf_writeback (d line : Nat) (s : State) (w : Memory.wf s.mem = true) : Memory.wf (writeback d line s).mem = true := by
  rw [writeback_mem]; exact wf_writeBytes _ s.mem w

theorem wf_pullLine (line : Nat) (s : State) (w : Memory.wf s.mem = true) : Memory.wf (pullLine line s).mem = true := by
  simp only [pullLine]
  refine fold_inv (fun s : State => Memory.wf s.mem = true) _ (fun s d h => wf_writeback d line s h) _ _ ?_
  split <;> exact w

theorem wf_answerHeld (line : Nat) (s : State) (w : Memory.wf s.mem = true) : Memory.wf (answerHeld line s).mem = true := by
  simp only [answerHeld]
  split
  · exact w
  · refine fold_inv (fun s : State => Memory.wf s.mem = true) _ ?_ _ _ w
    intro s x h
    have hp := wf_pullLine line s h
    split
    · rw [post_mem]; exact wf_homeUpdate _ _ _ _ hp
    · exact wf_homeUpdate _ _ _ _ hp

theorem wf_writebackAfter (d line : Nat) (s : State) (w : Memory.wf s.mem = true) : Memory.wf (writebackAfter d line s).mem = true := by
  simp only [writebackAfter]
  split
  · exact w
  · exact wf_writeback _ _ _ (wf_answerHeld _ _ w)

/-! ### Room made for a line keeps memory canonical -/

theorem wf_evictRegion (region : Nat) (s : State) (w : Memory.wf s.mem = true) : Memory.wf (evictRegion region s).mem = true := by
  simp only [evictRegion, updDir_mem]
  rw [foldl_mem _ (fun s d => foldl_mem _ (fun s l => rdcInvalidate_mem d l _ s) _ s), foldl_mem _ (fun s c => probeCluster_mem _ _ _ _ s)]
  exact fold_inv (fun s : State => Memory.wf s.mem = true) _ (fun s l h => wf_pullLine _ _ (wf_answerHeld _ _ h)) _ _ (by rw [ite_mem, needHost_mem]; simpa using w)

theorem wf_makeRoom (region : Nat) (s : State) (w : Memory.wf s.mem = true) : Memory.wf (makeRoom region s).mem = true := by
  simp only [makeRoom]
  split
  · exact w
  · split
    · exact w
    · split
      · exact w
      · exact wf_evictRegion _ _ w

theorem wf_rdcRoom (d line : Nat) (s : State) (w : Memory.wf s.mem = true) : Memory.wf (rdcRoom d line s).mem = true := by
  simp only [rdcRoom]
  split
  · exact w
  · split
    · exact w
    · simp only [evictLine, rdcReport_mem, rdcProbe_mem, updDie_mem]
      exact wf_writebackAfter _ _ _ w

theorem wf_rdcMerge (d : Nat) (keep : Nat → Nat) (stream : Bool) (pa : Nat) (bs : List Byte) (s : State) (w : Memory.wf s.mem = true) :
    Memory.wf (rdcMerge d keep stream pa bs s).mem = true := by
  simp only [rdcMerge, wakeLine_mem, updDir_mem, rdcSet_mem, rdcProbe_mem]
  exact wf_rdcRoom _ _ _ (wf_makeRoom _ _ w)

theorem wf_rdcFill (d line : Nat) (stream : Bool) (home : List Byte) (s : State) (w : Memory.wf s.mem = true) :
    Memory.wf (rdcFill d line stream home s).mem = true := by
  simp only [rdcFill, updDir_mem, rdcSet_mem]
  exact wf_rdcRoom _ _ _ w

/-! ### Stores and loads keep memory canonical -/

theorem wf_homeStoreBytes (src : Source) (pull : Bool) (pa : Nat) (bs : List Byte) (s : State) (w : Memory.wf s.mem = true) :
    Memory.wf (homeStoreBytes src pull pa bs s).mem = true := by
  simp only [homeStoreBytes]
  apply wf_homeUpdate
  have h := wf_answerHeld (pa / 64) _ (wf_makeRoom (pa / 64 / 8) s w)
  split
  · exact wf_pullLine _ _ h
  · exact h

theorem wf_storeBytes (c unit mt pa : Nat) (bs : List Byte) (s : State) (w : Memory.wf s.mem = true) :
    Memory.wf (storeBytes c unit mt pa bs s).mem = true := by
  simp only [storeBytes]
  split
  · split <;> simp only [rdcSet_mem, rdcProbe_mem, markFills_mem] <;> exact wf_homeUpdate _ _ _ _ w
  · split
    · exact wf_homeStoreBytes _ _ _ _ _ w
    · split
      · exact wf_homeStoreBytes _ _ _ _ _ (wf_writebackAfter _ _ _ w)
      · exact wf_rdcMerge _ _ _ _ _ _ w

theorem wf_loadBytes (c unit mt pa n : Nat) (s : State) (w : Memory.wf s.mem = true) : Memory.wf (loadBytes c unit mt pa n s).1.mem = true := by
  have h := wf_answerHeld (pa / 64) _ (wf_makeRoom (pa / 64 / 8) s w)
  simp only [loadBytes]
  split
  · simp only [ite_mem, updDir_mem, filterAdd_mem, ite_self]; exact h
  · split
    · exact wf_pullLine _ _ (wf_writebackAfter _ _ _ h)
    · simp only [ite_mem, vecSet_mem, filterAdd_mem, ite_self]
      split
      · exact h
      · exact wf_rdcFill _ _ _ _ _ h

theorem wf_homeAtomicOp (d pa n : Nat) (f : Nat → Nat) (s : State) (w : Memory.wf s.mem = true) : Memory.wf (homeAtomicOp d pa n f s).1.mem = true := by
  simp only [homeAtomicOp]
  apply wf_homeUpdate
  exact wf_pullLine _ _ (wf_writebackAfter _ _ _ (wf_answerHeld _ _ (wf_makeRoom _ _ w)))

theorem wf_drainRdc (d : Nat) (s : State) (w : Memory.wf s.mem = true) : Memory.wf (drainRdc d s).mem = true :=
  fold_inv (fun s : State => Memory.wf s.mem = true) _ (fun s p h => wf_writebackAfter d p.1 s h) _ _ w

/-- Memory after reset is in canonical form. -/
theorem wf_reset : Memory.wf State.reset.mem = true := rfl

end Sys2Proof.Laws
end

