-- ==== Sys2Proof/Laws/Ops.lean ====
section
/-! SUPPORT. What the named operations over waves, lanes and registers do: the fields they leave alone, the issuing subgroup after them, and the result
operations where no exception is enabled. -/

namespace Sys2Proof.Laws

open Sys2Proof Sys2Proof.Machine

variable (s : State)


/-! ### updCur -/

@[simp] theorem updCur_mem (f : Wave → Wave) : (updCur f s).mem = s.mem := rfl
@[simp] theorem updCur_peer (f : Wave → Wave) : (updCur f s).peer = s.peer := rfl
@[simp] theorem updCur_poison (f : Wave → Wave) : (updCur f s).poison = s.poison := rfl
@[simp] theorem updCur_teams (f : Wave → Wave) : (updCur f s).teams = s.teams := rfl
@[simp] theorem updCur_grids (f : Wave → Wave) : (updCur f s).grids = s.grids := rfl
@[simp] theorem updCur_ctxs (f : Wave → Wave) : (updCur f s).ctxs = s.ctxs := rfl
@[simp] theorem updCur_clusters (f : Wave → Wave) : (updCur f s).clusters = s.clusters := rfl
@[simp] theorem updCur_dies (f : Wave → Wave) : (updCur f s).dies = s.dies := rfl
@[simp] theorem updCur_regs (f : Wave → Wave) : (updCur f s).regs = s.regs := rfl
@[simp] theorem updCur_boot (f : Wave → Wave) : (updCur f s).boot = s.boot := rfl
@[simp] theorem updCur_remote (f : Wave → Wave) : (updCur f s).remote = s.remote := rfl
@[simp] theorem updCur_posts (f : Wave → Wave) : (updCur f s).posts = s.posts := rfl
@[simp] theorem updCur_replays (f : Wave → Wave) : (updCur f s).replays = s.replays := rfl
@[simp] theorem updCur_tcbWork (f : Wave → Wave) : (updCur f s).tcbWork = s.tcbWork := rfl
@[simp] theorem updCur_hands (f : Wave → Wave) : (updCur f s).hands = s.hands := rfl
@[simp] theorem updCur_msix (f : Wave → Wave) : (updCur f s).msix = s.msix := rfl
@[simp] theorem updCur_clock (f : Wave → Wave) : (updCur f s).clock = s.clock := rfl
@[simp] theorem updCur_cur (f : Wave → Wave) : (updCur f s).cur = s.cur := rfl
@[simp] theorem updCur_lastUnit (f : Wave → Wave) : (updCur f s).lastUnit = s.lastUnit := rfl
@[simp] theorem updCur_chain (f : Wave → Wave) : (updCur f s).chain = s.chain := rfl
@[simp] theorem updCur_agenda (f : Wave → Wave) : (updCur f s).agenda = s.agenda := rfl
@[simp] theorem updCur_stalled (f : Wave → Wave) : (updCur f s).stalled = s.stalled := rfl
@[simp] theorem updCur_site (f : Wave → Wave) : (updCur f s).site = s.site := rfl
@[simp] theorem updCur_turn (f : Wave → Wave) : (updCur f s).turn = s.turn := rfl
@[simp] theorem updCur_polls (f : Wave → Wave) : (updCur f s).polls = s.polls := rfl
@[simp] theorem updCur_free (f : Wave → Wave) : (updCur f s).free = s.free := rfl
@[simp] theorem updCur_flash (f : Wave → Wave) : (updCur f s).flash = s.flash := rfl
@[simp] theorem updCur_flashMin (f : Wave → Wave) : (updCur f s).flashMin = s.flashMin := rfl
@[simp] theorem updCur_repairs (f : Wave → Wave) : (updCur f s).repairs = s.repairs := rfl
@[simp] theorem updCur_doing (f : Wave → Wave) : (updCur f s).doing = s.doing := rfl
@[simp] theorem updCur_asks (f : Wave → Wave) : (updCur f s).asks = s.asks := rfl
@[simp] theorem updCur_answers (f : Wave → Wave) : (updCur f s).answers = s.answers := rfl
@[simp] theorem updCur_walked (f : Wave → Wave) : (updCur f s).walked = s.walked := rfl
@[simp] theorem updCur_nextId (f : Wave → Wave) : (updCur f s).nextId = s.nextId := rfl

/-! ### mapActive -/

@[simp] theorem mapActive_mem (f : Lane → Lane) : (mapActive f s).mem = s.mem := rfl
@[simp] theorem mapActive_peer (f : Lane → Lane) : (mapActive f s).peer = s.peer := rfl
@[simp] theorem mapActive_poison (f : Lane → Lane) : (mapActive f s).poison = s.poison := rfl
@[simp] theorem mapActive_teams (f : Lane → Lane) : (mapActive f s).teams = s.teams := rfl
@[simp] theorem mapActive_grids (f : Lane → Lane) : (mapActive f s).grids = s.grids := rfl
@[simp] theorem mapActive_ctxs (f : Lane → Lane) : (mapActive f s).ctxs = s.ctxs := rfl
@[simp] theorem mapActive_clusters (f : Lane → Lane) : (mapActive f s).clusters = s.clusters := rfl
@[simp] theorem mapActive_dies (f : Lane → Lane) : (mapActive f s).dies = s.dies := rfl
@[simp] theorem mapActive_regs (f : Lane → Lane) : (mapActive f s).regs = s.regs := rfl
@[simp] theorem mapActive_boot (f : Lane → Lane) : (mapActive f s).boot = s.boot := rfl
@[simp] theorem mapActive_remote (f : Lane → Lane) : (mapActive f s).remote = s.remote := rfl
@[simp] theorem mapActive_posts (f : Lane → Lane) : (mapActive f s).posts = s.posts := rfl
@[simp] theorem mapActive_replays (f : Lane → Lane) : (mapActive f s).replays = s.replays := rfl
@[simp] theorem mapActive_tcbWork (f : Lane → Lane) : (mapActive f s).tcbWork = s.tcbWork := rfl
@[simp] theorem mapActive_hands (f : Lane → Lane) : (mapActive f s).hands = s.hands := rfl
@[simp] theorem mapActive_msix (f : Lane → Lane) : (mapActive f s).msix = s.msix := rfl
@[simp] theorem mapActive_clock (f : Lane → Lane) : (mapActive f s).clock = s.clock := rfl
@[simp] theorem mapActive_cur (f : Lane → Lane) : (mapActive f s).cur = s.cur := rfl
@[simp] theorem mapActive_lastUnit (f : Lane → Lane) : (mapActive f s).lastUnit = s.lastUnit := rfl
@[simp] theorem mapActive_chain (f : Lane → Lane) : (mapActive f s).chain = s.chain := rfl
@[simp] theorem mapActive_agenda (f : Lane → Lane) : (mapActive f s).agenda = s.agenda := rfl
@[simp] theorem mapActive_stalled (f : Lane → Lane) : (mapActive f s).stalled = s.stalled := rfl
@[simp] theorem mapActive_site (f : Lane → Lane) : (mapActive f s).site = s.site := rfl
@[simp] theorem mapActive_turn (f : Lane → Lane) : (mapActive f s).turn = s.turn := rfl
@[simp] theorem mapActive_polls (f : Lane → Lane) : (mapActive f s).polls = s.polls := rfl
@[simp] theorem mapActive_free (f : Lane → Lane) : (mapActive f s).free = s.free := rfl
@[simp] theorem mapActive_flash (f : Lane → Lane) : (mapActive f s).flash = s.flash := rfl
@[simp] theorem mapActive_flashMin (f : Lane → Lane) : (mapActive f s).flashMin = s.flashMin := rfl
@[simp] theorem mapActive_repairs (f : Lane → Lane) : (mapActive f s).repairs = s.repairs := rfl
@[simp] theorem mapActive_doing (f : Lane → Lane) : (mapActive f s).doing = s.doing := rfl
@[simp] theorem mapActive_asks (f : Lane → Lane) : (mapActive f s).asks = s.asks := rfl
@[simp] theorem mapActive_answers (f : Lane → Lane) : (mapActive f s).answers = s.answers := rfl
@[simp] theorem mapActive_walked (f : Lane → Lane) : (mapActive f s).walked = s.walked := rfl
@[simp] theorem mapActive_nextId (f : Lane → Lane) : (mapActive f s).nextId = s.nextId := rfl

/-! ### mapLanes -/

@[simp] theorem mapLanes_mem (ids : List Nat) (f : Lane → Lane) : (mapLanes ids f s).mem = s.mem := rfl
@[simp] theorem mapLanes_peer (ids : List Nat) (f : Lane → Lane) : (mapLanes ids f s).peer = s.peer := rfl
@[simp] theorem mapLanes_poison (ids : List Nat) (f : Lane → Lane) : (mapLanes ids f s).poison = s.poison := rfl
@[simp] theorem mapLanes_teams (ids : List Nat) (f : Lane → Lane) : (mapLanes ids f s).teams = s.teams := rfl
@[simp] theorem mapLanes_grids (ids : List Nat) (f : Lane → Lane) : (mapLanes ids f s).grids = s.grids := rfl
@[simp] theorem mapLanes_ctxs (ids : List Nat) (f : Lane → Lane) : (mapLanes ids f s).ctxs = s.ctxs := rfl
@[simp] theorem mapLanes_clusters (ids : List Nat) (f : Lane → Lane) : (mapLanes ids f s).clusters = s.clusters := rfl
@[simp] theorem mapLanes_dies (ids : List Nat) (f : Lane → Lane) : (mapLanes ids f s).dies = s.dies := rfl
@[simp] theorem mapLanes_regs (ids : List Nat) (f : Lane → Lane) : (mapLanes ids f s).regs = s.regs := rfl
@[simp] theorem mapLanes_boot (ids : List Nat) (f : Lane → Lane) : (mapLanes ids f s).boot = s.boot := rfl
@[simp] theorem mapLanes_remote (ids : List Nat) (f : Lane → Lane) : (mapLanes ids f s).remote = s.remote := rfl
@[simp] theorem mapLanes_posts (ids : List Nat) (f : Lane → Lane) : (mapLanes ids f s).posts = s.posts := rfl
@[simp] theorem mapLanes_replays (ids : List Nat) (f : Lane → Lane) : (mapLanes ids f s).replays = s.replays := rfl
@[simp] theorem mapLanes_tcbWork (ids : List Nat) (f : Lane → Lane) : (mapLanes ids f s).tcbWork = s.tcbWork := rfl
@[simp] theorem mapLanes_hands (ids : List Nat) (f : Lane → Lane) : (mapLanes ids f s).hands = s.hands := rfl
@[simp] theorem mapLanes_msix (ids : List Nat) (f : Lane → Lane) : (mapLanes ids f s).msix = s.msix := rfl
@[simp] theorem mapLanes_clock (ids : List Nat) (f : Lane → Lane) : (mapLanes ids f s).clock = s.clock := rfl
@[simp] theorem mapLanes_cur (ids : List Nat) (f : Lane → Lane) : (mapLanes ids f s).cur = s.cur := rfl
@[simp] theorem mapLanes_lastUnit (ids : List Nat) (f : Lane → Lane) : (mapLanes ids f s).lastUnit = s.lastUnit := rfl
@[simp] theorem mapLanes_chain (ids : List Nat) (f : Lane → Lane) : (mapLanes ids f s).chain = s.chain := rfl
@[simp] theorem mapLanes_agenda (ids : List Nat) (f : Lane → Lane) : (mapLanes ids f s).agenda = s.agenda := rfl
@[simp] theorem mapLanes_stalled (ids : List Nat) (f : Lane → Lane) : (mapLanes ids f s).stalled = s.stalled := rfl
@[simp] theorem mapLanes_site (ids : List Nat) (f : Lane → Lane) : (mapLanes ids f s).site = s.site := rfl
@[simp] theorem mapLanes_turn (ids : List Nat) (f : Lane → Lane) : (mapLanes ids f s).turn = s.turn := rfl
@[simp] theorem mapLanes_polls (ids : List Nat) (f : Lane → Lane) : (mapLanes ids f s).polls = s.polls := rfl
@[simp] theorem mapLanes_free (ids : List Nat) (f : Lane → Lane) : (mapLanes ids f s).free = s.free := rfl
@[simp] theorem mapLanes_flash (ids : List Nat) (f : Lane → Lane) : (mapLanes ids f s).flash = s.flash := rfl
@[simp] theorem mapLanes_flashMin (ids : List Nat) (f : Lane → Lane) : (mapLanes ids f s).flashMin = s.flashMin := rfl
@[simp] theorem mapLanes_repairs (ids : List Nat) (f : Lane → Lane) : (mapLanes ids f s).repairs = s.repairs := rfl
@[simp] theorem mapLanes_doing (ids : List Nat) (f : Lane → Lane) : (mapLanes ids f s).doing = s.doing := rfl
@[simp] theorem mapLanes_asks (ids : List Nat) (f : Lane → Lane) : (mapLanes ids f s).asks = s.asks := rfl
@[simp] theorem mapLanes_answers (ids : List Nat) (f : Lane → Lane) : (mapLanes ids f s).answers = s.answers := rfl
@[simp] theorem mapLanes_walked (ids : List Nat) (f : Lane → Lane) : (mapLanes ids f s).walked = s.walked := rfl
@[simp] theorem mapLanes_nextId (ids : List Nat) (f : Lane → Lane) : (mapLanes ids f s).nextId = s.nextId := rfl

/-! ### mapLanesOf -/

@[simp] theorem mapLanesOf_mem (k : Nat) (ids : List Nat) (f : Lane → Lane) : (mapLanesOf k ids f s).mem = s.mem := rfl
@[simp] theorem mapLanesOf_peer (k : Nat) (ids : List Nat) (f : Lane → Lane) : (mapLanesOf k ids f s).peer = s.peer := rfl
@[simp] theorem mapLanesOf_poison (k : Nat) (ids : List Nat) (f : Lane → Lane) : (mapLanesOf k ids f s).poison = s.poison := rfl
@[simp] theorem mapLanesOf_teams (k : Nat) (ids : List Nat) (f : Lane → Lane) : (mapLanesOf k ids f s).teams = s.teams := rfl
@[simp] theorem mapLanesOf_grids (k : Nat) (ids : List Nat) (f : Lane → Lane) : (mapLanesOf k ids f s).grids = s.grids := rfl
@[simp] theorem mapLanesOf_ctxs (k : Nat) (ids : List Nat) (f : Lane → Lane) : (mapLanesOf k ids f s).ctxs = s.ctxs := rfl
@[simp] theorem mapLanesOf_clusters (k : Nat) (ids : List Nat) (f : Lane → Lane) : (mapLanesOf k ids f s).clusters = s.clusters := rfl
@[simp] theorem mapLanesOf_dies (k : Nat) (ids : List Nat) (f : Lane → Lane) : (mapLanesOf k ids f s).dies = s.dies := rfl
@[simp] theorem mapLanesOf_regs (k : Nat) (ids : List Nat) (f : Lane → Lane) : (mapLanesOf k ids f s).regs = s.regs := rfl
@[simp] theorem mapLanesOf_boot (k : Nat) (ids : List Nat) (f : Lane → Lane) : (mapLanesOf k ids f s).boot = s.boot := rfl
@[simp] theorem mapLanesOf_remote (k : Nat) (ids : List Nat) (f : Lane → Lane) : (mapLanesOf k ids f s).remote = s.remote := rfl
@[simp] theorem mapLanesOf_posts (k : Nat) (ids : List Nat) (f : Lane → Lane) : (mapLanesOf k ids f s).posts = s.posts := rfl
@[simp] theorem mapLanesOf_replays (k : Nat) (ids : List Nat) (f : Lane → Lane) : (mapLanesOf k ids f s).replays = s.replays := rfl
@[simp] theorem mapLanesOf_tcbWork (k : Nat) (ids : List Nat) (f : Lane → Lane) : (mapLanesOf k ids f s).tcbWork = s.tcbWork := rfl
@[simp] theorem mapLanesOf_hands (k : Nat) (ids : List Nat) (f : Lane → Lane) : (mapLanesOf k ids f s).hands = s.hands := rfl
@[simp] theorem mapLanesOf_msix (k : Nat) (ids : List Nat) (f : Lane → Lane) : (mapLanesOf k ids f s).msix = s.msix := rfl
@[simp] theorem mapLanesOf_clock (k : Nat) (ids : List Nat) (f : Lane → Lane) : (mapLanesOf k ids f s).clock = s.clock := rfl
@[simp] theorem mapLanesOf_cur (k : Nat) (ids : List Nat) (f : Lane → Lane) : (mapLanesOf k ids f s).cur = s.cur := rfl
@[simp] theorem mapLanesOf_lastUnit (k : Nat) (ids : List Nat) (f : Lane → Lane) : (mapLanesOf k ids f s).lastUnit = s.lastUnit := rfl
@[simp] theorem mapLanesOf_chain (k : Nat) (ids : List Nat) (f : Lane → Lane) : (mapLanesOf k ids f s).chain = s.chain := rfl
@[simp] theorem mapLanesOf_agenda (k : Nat) (ids : List Nat) (f : Lane → Lane) : (mapLanesOf k ids f s).agenda = s.agenda := rfl
@[simp] theorem mapLanesOf_stalled (k : Nat) (ids : List Nat) (f : Lane → Lane) : (mapLanesOf k ids f s).stalled = s.stalled := rfl
@[simp] theorem mapLanesOf_site (k : Nat) (ids : List Nat) (f : Lane → Lane) : (mapLanesOf k ids f s).site = s.site := rfl
@[simp] theorem mapLanesOf_turn (k : Nat) (ids : List Nat) (f : Lane → Lane) : (mapLanesOf k ids f s).turn = s.turn := rfl
@[simp] theorem mapLanesOf_polls (k : Nat) (ids : List Nat) (f : Lane → Lane) : (mapLanesOf k ids f s).polls = s.polls := rfl
@[simp] theorem mapLanesOf_free (k : Nat) (ids : List Nat) (f : Lane → Lane) : (mapLanesOf k ids f s).free = s.free := rfl
@[simp] theorem mapLanesOf_flash (k : Nat) (ids : List Nat) (f : Lane → Lane) : (mapLanesOf k ids f s).flash = s.flash := rfl
@[simp] theorem mapLanesOf_flashMin (k : Nat) (ids : List Nat) (f : Lane → Lane) : (mapLanesOf k ids f s).flashMin = s.flashMin := rfl
@[simp] theorem mapLanesOf_repairs (k : Nat) (ids : List Nat) (f : Lane → Lane) : (mapLanesOf k ids f s).repairs = s.repairs := rfl
@[simp] theorem mapLanesOf_doing (k : Nat) (ids : List Nat) (f : Lane → Lane) : (mapLanesOf k ids f s).doing = s.doing := rfl
@[simp] theorem mapLanesOf_asks (k : Nat) (ids : List Nat) (f : Lane → Lane) : (mapLanesOf k ids f s).asks = s.asks := rfl
@[simp] theorem mapLanesOf_answers (k : Nat) (ids : List Nat) (f : Lane → Lane) : (mapLanesOf k ids f s).answers = s.answers := rfl
@[simp] theorem mapLanesOf_walked (k : Nat) (ids : List Nat) (f : Lane → Lane) : (mapLanesOf k ids f s).walked = s.walked := rfl
@[simp] theorem mapLanesOf_nextId (k : Nat) (ids : List Nat) (f : Lane → Lane) : (mapLanesOf k ids f s).nextId = s.nextId := rfl

/-! ### setW -/

@[simp] theorem setW_mem (k : Nat) (x : W64) : (setW k x s).mem = s.mem := rfl
@[simp] theorem setW_peer (k : Nat) (x : W64) : (setW k x s).peer = s.peer := rfl
@[simp] theorem setW_poison (k : Nat) (x : W64) : (setW k x s).poison = s.poison := rfl
@[simp] theorem setW_teams (k : Nat) (x : W64) : (setW k x s).teams = s.teams := rfl
@[simp] theorem setW_grids (k : Nat) (x : W64) : (setW k x s).grids = s.grids := rfl
@[simp] theorem setW_ctxs (k : Nat) (x : W64) : (setW k x s).ctxs = s.ctxs := rfl
@[simp] theorem setW_clusters (k : Nat) (x : W64) : (setW k x s).clusters = s.clusters := rfl
@[simp] theorem setW_dies (k : Nat) (x : W64) : (setW k x s).dies = s.dies := rfl
@[simp] theorem setW_regs (k : Nat) (x : W64) : (setW k x s).regs = s.regs := rfl
@[simp] theorem setW_boot (k : Nat) (x : W64) : (setW k x s).boot = s.boot := rfl
@[simp] theorem setW_remote (k : Nat) (x : W64) : (setW k x s).remote = s.remote := rfl
@[simp] theorem setW_posts (k : Nat) (x : W64) : (setW k x s).posts = s.posts := rfl
@[simp] theorem setW_replays (k : Nat) (x : W64) : (setW k x s).replays = s.replays := rfl
@[simp] theorem setW_tcbWork (k : Nat) (x : W64) : (setW k x s).tcbWork = s.tcbWork := rfl
@[simp] theorem setW_hands (k : Nat) (x : W64) : (setW k x s).hands = s.hands := rfl
@[simp] theorem setW_msix (k : Nat) (x : W64) : (setW k x s).msix = s.msix := rfl
@[simp] theorem setW_clock (k : Nat) (x : W64) : (setW k x s).clock = s.clock := rfl
@[simp] theorem setW_cur (k : Nat) (x : W64) : (setW k x s).cur = s.cur := rfl
@[simp] theorem setW_lastUnit (k : Nat) (x : W64) : (setW k x s).lastUnit = s.lastUnit := rfl
@[simp] theorem setW_chain (k : Nat) (x : W64) : (setW k x s).chain = s.chain := rfl
@[simp] theorem setW_agenda (k : Nat) (x : W64) : (setW k x s).agenda = s.agenda := rfl
@[simp] theorem setW_stalled (k : Nat) (x : W64) : (setW k x s).stalled = s.stalled := rfl
@[simp] theorem setW_site (k : Nat) (x : W64) : (setW k x s).site = s.site := rfl
@[simp] theorem setW_turn (k : Nat) (x : W64) : (setW k x s).turn = s.turn := rfl
@[simp] theorem setW_polls (k : Nat) (x : W64) : (setW k x s).polls = s.polls := rfl
@[simp] theorem setW_free (k : Nat) (x : W64) : (setW k x s).free = s.free := rfl
@[simp] theorem setW_flash (k : Nat) (x : W64) : (setW k x s).flash = s.flash := rfl
@[simp] theorem setW_flashMin (k : Nat) (x : W64) : (setW k x s).flashMin = s.flashMin := rfl
@[simp] theorem setW_repairs (k : Nat) (x : W64) : (setW k x s).repairs = s.repairs := rfl
@[simp] theorem setW_doing (k : Nat) (x : W64) : (setW k x s).doing = s.doing := rfl
@[simp] theorem setW_asks (k : Nat) (x : W64) : (setW k x s).asks = s.asks := rfl
@[simp] theorem setW_answers (k : Nat) (x : W64) : (setW k x s).answers = s.answers := rfl
@[simp] theorem setW_walked (k : Nat) (x : W64) : (setW k x s).walked = s.walked := rfl
@[simp] theorem setW_nextId (k : Nat) (x : W64) : (setW k x s).nextId = s.nextId := rfl

/-! ### setMb -/

@[simp] theorem setMb_mem (k : Nat) (x : W64) : (setMb k x s).mem = s.mem := rfl
@[simp] theorem setMb_peer (k : Nat) (x : W64) : (setMb k x s).peer = s.peer := rfl
@[simp] theorem setMb_poison (k : Nat) (x : W64) : (setMb k x s).poison = s.poison := rfl
@[simp] theorem setMb_teams (k : Nat) (x : W64) : (setMb k x s).teams = s.teams := rfl
@[simp] theorem setMb_grids (k : Nat) (x : W64) : (setMb k x s).grids = s.grids := rfl
@[simp] theorem setMb_ctxs (k : Nat) (x : W64) : (setMb k x s).ctxs = s.ctxs := rfl
@[simp] theorem setMb_clusters (k : Nat) (x : W64) : (setMb k x s).clusters = s.clusters := rfl
@[simp] theorem setMb_dies (k : Nat) (x : W64) : (setMb k x s).dies = s.dies := rfl
@[simp] theorem setMb_regs (k : Nat) (x : W64) : (setMb k x s).regs = s.regs := rfl
@[simp] theorem setMb_boot (k : Nat) (x : W64) : (setMb k x s).boot = s.boot := rfl
@[simp] theorem setMb_remote (k : Nat) (x : W64) : (setMb k x s).remote = s.remote := rfl
@[simp] theorem setMb_posts (k : Nat) (x : W64) : (setMb k x s).posts = s.posts := rfl
@[simp] theorem setMb_replays (k : Nat) (x : W64) : (setMb k x s).replays = s.replays := rfl
@[simp] theorem setMb_tcbWork (k : Nat) (x : W64) : (setMb k x s).tcbWork = s.tcbWork := rfl
@[simp] theorem setMb_hands (k : Nat) (x : W64) : (setMb k x s).hands = s.hands := rfl
@[simp] theorem setMb_msix (k : Nat) (x : W64) : (setMb k x s).msix = s.msix := rfl
@[simp] theorem setMb_clock (k : Nat) (x : W64) : (setMb k x s).clock = s.clock := rfl
@[simp] theorem setMb_cur (k : Nat) (x : W64) : (setMb k x s).cur = s.cur := rfl
@[simp] theorem setMb_lastUnit (k : Nat) (x : W64) : (setMb k x s).lastUnit = s.lastUnit := rfl
@[simp] theorem setMb_chain (k : Nat) (x : W64) : (setMb k x s).chain = s.chain := rfl
@[simp] theorem setMb_agenda (k : Nat) (x : W64) : (setMb k x s).agenda = s.agenda := rfl
@[simp] theorem setMb_stalled (k : Nat) (x : W64) : (setMb k x s).stalled = s.stalled := rfl
@[simp] theorem setMb_site (k : Nat) (x : W64) : (setMb k x s).site = s.site := rfl
@[simp] theorem setMb_turn (k : Nat) (x : W64) : (setMb k x s).turn = s.turn := rfl
@[simp] theorem setMb_polls (k : Nat) (x : W64) : (setMb k x s).polls = s.polls := rfl
@[simp] theorem setMb_free (k : Nat) (x : W64) : (setMb k x s).free = s.free := rfl
@[simp] theorem setMb_flash (k : Nat) (x : W64) : (setMb k x s).flash = s.flash := rfl
@[simp] theorem setMb_flashMin (k : Nat) (x : W64) : (setMb k x s).flashMin = s.flashMin := rfl
@[simp] theorem setMb_repairs (k : Nat) (x : W64) : (setMb k x s).repairs = s.repairs := rfl
@[simp] theorem setMb_doing (k : Nat) (x : W64) : (setMb k x s).doing = s.doing := rfl
@[simp] theorem setMb_asks (k : Nat) (x : W64) : (setMb k x s).asks = s.asks := rfl
@[simp] theorem setMb_answers (k : Nat) (x : W64) : (setMb k x s).answers = s.answers := rfl
@[simp] theorem setMb_walked (k : Nat) (x : W64) : (setMb k x s).walked = s.walked := rfl
@[simp] theorem setMb_nextId (k : Nat) (x : W64) : (setMb k x s).nextId = s.nextId := rfl

/-! ### putM -/

@[simp] theorem putM_mem (k : Nat) (x : Mask) : (putM k x s).mem = s.mem := rfl
@[simp] theorem putM_peer (k : Nat) (x : Mask) : (putM k x s).peer = s.peer := rfl
@[simp] theorem putM_poison (k : Nat) (x : Mask) : (putM k x s).poison = s.poison := rfl
@[simp] theorem putM_teams (k : Nat) (x : Mask) : (putM k x s).teams = s.teams := rfl
@[simp] theorem putM_grids (k : Nat) (x : Mask) : (putM k x s).grids = s.grids := rfl
@[simp] theorem putM_ctxs (k : Nat) (x : Mask) : (putM k x s).ctxs = s.ctxs := rfl
@[simp] theorem putM_clusters (k : Nat) (x : Mask) : (putM k x s).clusters = s.clusters := rfl
@[simp] theorem putM_dies (k : Nat) (x : Mask) : (putM k x s).dies = s.dies := rfl
@[simp] theorem putM_regs (k : Nat) (x : Mask) : (putM k x s).regs = s.regs := rfl
@[simp] theorem putM_boot (k : Nat) (x : Mask) : (putM k x s).boot = s.boot := rfl
@[simp] theorem putM_remote (k : Nat) (x : Mask) : (putM k x s).remote = s.remote := rfl
@[simp] theorem putM_posts (k : Nat) (x : Mask) : (putM k x s).posts = s.posts := rfl
@[simp] theorem putM_replays (k : Nat) (x : Mask) : (putM k x s).replays = s.replays := rfl
@[simp] theorem putM_tcbWork (k : Nat) (x : Mask) : (putM k x s).tcbWork = s.tcbWork := rfl
@[simp] theorem putM_hands (k : Nat) (x : Mask) : (putM k x s).hands = s.hands := rfl
@[simp] theorem putM_msix (k : Nat) (x : Mask) : (putM k x s).msix = s.msix := rfl
@[simp] theorem putM_clock (k : Nat) (x : Mask) : (putM k x s).clock = s.clock := rfl
@[simp] theorem putM_cur (k : Nat) (x : Mask) : (putM k x s).cur = s.cur := rfl
@[simp] theorem putM_lastUnit (k : Nat) (x : Mask) : (putM k x s).lastUnit = s.lastUnit := rfl
@[simp] theorem putM_chain (k : Nat) (x : Mask) : (putM k x s).chain = s.chain := rfl
@[simp] theorem putM_agenda (k : Nat) (x : Mask) : (putM k x s).agenda = s.agenda := rfl
@[simp] theorem putM_stalled (k : Nat) (x : Mask) : (putM k x s).stalled = s.stalled := rfl
@[simp] theorem putM_site (k : Nat) (x : Mask) : (putM k x s).site = s.site := rfl
@[simp] theorem putM_turn (k : Nat) (x : Mask) : (putM k x s).turn = s.turn := rfl
@[simp] theorem putM_polls (k : Nat) (x : Mask) : (putM k x s).polls = s.polls := rfl
@[simp] theorem putM_free (k : Nat) (x : Mask) : (putM k x s).free = s.free := rfl
@[simp] theorem putM_flash (k : Nat) (x : Mask) : (putM k x s).flash = s.flash := rfl
@[simp] theorem putM_flashMin (k : Nat) (x : Mask) : (putM k x s).flashMin = s.flashMin := rfl
@[simp] theorem putM_repairs (k : Nat) (x : Mask) : (putM k x s).repairs = s.repairs := rfl
@[simp] theorem putM_doing (k : Nat) (x : Mask) : (putM k x s).doing = s.doing := rfl
@[simp] theorem putM_asks (k : Nat) (x : Mask) : (putM k x s).asks = s.asks := rfl
@[simp] theorem putM_answers (k : Nat) (x : Mask) : (putM k x s).answers = s.answers := rfl
@[simp] theorem putM_walked (k : Nat) (x : Mask) : (putM k x s).walked = s.walked := rfl
@[simp] theorem putM_nextId (k : Nat) (x : Mask) : (putM k x s).nextId = s.nextId := rfl

/-! ### advance -/

@[simp] theorem advance_mem (n : Nat) : (advance n s).mem = s.mem := rfl
@[simp] theorem advance_peer (n : Nat) : (advance n s).peer = s.peer := rfl
@[simp] theorem advance_poison (n : Nat) : (advance n s).poison = s.poison := rfl
@[simp] theorem advance_teams (n : Nat) : (advance n s).teams = s.teams := rfl
@[simp] theorem advance_grids (n : Nat) : (advance n s).grids = s.grids := rfl
@[simp] theorem advance_ctxs (n : Nat) : (advance n s).ctxs = s.ctxs := rfl
@[simp] theorem advance_clusters (n : Nat) : (advance n s).clusters = s.clusters := rfl
@[simp] theorem advance_dies (n : Nat) : (advance n s).dies = s.dies := rfl
@[simp] theorem advance_regs (n : Nat) : (advance n s).regs = s.regs := rfl
@[simp] theorem advance_boot (n : Nat) : (advance n s).boot = s.boot := rfl
@[simp] theorem advance_remote (n : Nat) : (advance n s).remote = s.remote := rfl
@[simp] theorem advance_posts (n : Nat) : (advance n s).posts = s.posts := rfl
@[simp] theorem advance_replays (n : Nat) : (advance n s).replays = s.replays := rfl
@[simp] theorem advance_tcbWork (n : Nat) : (advance n s).tcbWork = s.tcbWork := rfl
@[simp] theorem advance_hands (n : Nat) : (advance n s).hands = s.hands := rfl
@[simp] theorem advance_msix (n : Nat) : (advance n s).msix = s.msix := rfl
@[simp] theorem advance_clock (n : Nat) : (advance n s).clock = s.clock := rfl
@[simp] theorem advance_cur (n : Nat) : (advance n s).cur = s.cur := rfl
@[simp] theorem advance_lastUnit (n : Nat) : (advance n s).lastUnit = s.lastUnit := rfl
@[simp] theorem advance_chain (n : Nat) : (advance n s).chain = s.chain := rfl
@[simp] theorem advance_agenda (n : Nat) : (advance n s).agenda = s.agenda := rfl
@[simp] theorem advance_stalled (n : Nat) : (advance n s).stalled = s.stalled := rfl
@[simp] theorem advance_site (n : Nat) : (advance n s).site = s.site := rfl
@[simp] theorem advance_turn (n : Nat) : (advance n s).turn = s.turn := rfl
@[simp] theorem advance_polls (n : Nat) : (advance n s).polls = s.polls := rfl
@[simp] theorem advance_free (n : Nat) : (advance n s).free = s.free := rfl
@[simp] theorem advance_flash (n : Nat) : (advance n s).flash = s.flash := rfl
@[simp] theorem advance_flashMin (n : Nat) : (advance n s).flashMin = s.flashMin := rfl
@[simp] theorem advance_repairs (n : Nat) : (advance n s).repairs = s.repairs := rfl
@[simp] theorem advance_doing (n : Nat) : (advance n s).doing = s.doing := rfl
@[simp] theorem advance_asks (n : Nat) : (advance n s).asks = s.asks := rfl
@[simp] theorem advance_answers (n : Nat) : (advance n s).answers = s.answers := rfl
@[simp] theorem advance_walked (n : Nat) : (advance n s).walked = s.walked := rfl
@[simp] theorem advance_nextId (n : Nat) : (advance n s).nextId = s.nextId := rfl

/-! ### waitHere -/

@[simp] theorem waitHere_mem (why : Wait) : (waitHere why s).mem = s.mem := rfl
@[simp] theorem waitHere_peer (why : Wait) : (waitHere why s).peer = s.peer := rfl
@[simp] theorem waitHere_poison (why : Wait) : (waitHere why s).poison = s.poison := rfl
@[simp] theorem waitHere_teams (why : Wait) : (waitHere why s).teams = s.teams := rfl
@[simp] theorem waitHere_grids (why : Wait) : (waitHere why s).grids = s.grids := rfl
@[simp] theorem waitHere_ctxs (why : Wait) : (waitHere why s).ctxs = s.ctxs := rfl
@[simp] theorem waitHere_clusters (why : Wait) : (waitHere why s).clusters = s.clusters := rfl
@[simp] theorem waitHere_dies (why : Wait) : (waitHere why s).dies = s.dies := rfl
@[simp] theorem waitHere_regs (why : Wait) : (waitHere why s).regs = s.regs := rfl
@[simp] theorem waitHere_boot (why : Wait) : (waitHere why s).boot = s.boot := rfl
@[simp] theorem waitHere_remote (why : Wait) : (waitHere why s).remote = s.remote := rfl
@[simp] theorem waitHere_posts (why : Wait) : (waitHere why s).posts = s.posts := rfl
@[simp] theorem waitHere_replays (why : Wait) : (waitHere why s).replays = s.replays := rfl
@[simp] theorem waitHere_tcbWork (why : Wait) : (waitHere why s).tcbWork = s.tcbWork := rfl
@[simp] theorem waitHere_hands (why : Wait) : (waitHere why s).hands = s.hands := rfl
@[simp] theorem waitHere_msix (why : Wait) : (waitHere why s).msix = s.msix := rfl
@[simp] theorem waitHere_clock (why : Wait) : (waitHere why s).clock = s.clock := rfl
@[simp] theorem waitHere_cur (why : Wait) : (waitHere why s).cur = s.cur := rfl
@[simp] theorem waitHere_lastUnit (why : Wait) : (waitHere why s).lastUnit = s.lastUnit := rfl
@[simp] theorem waitHere_chain (why : Wait) : (waitHere why s).chain = s.chain := rfl
@[simp] theorem waitHere_agenda (why : Wait) : (waitHere why s).agenda = s.agenda := rfl
@[simp] theorem waitHere_stalled (why : Wait) : (waitHere why s).stalled = s.stalled := rfl
@[simp] theorem waitHere_site (why : Wait) : (waitHere why s).site = s.site := rfl
@[simp] theorem waitHere_turn (why : Wait) : (waitHere why s).turn = s.turn := rfl
@[simp] theorem waitHere_polls (why : Wait) : (waitHere why s).polls = s.polls := rfl
@[simp] theorem waitHere_free (why : Wait) : (waitHere why s).free = s.free := rfl
@[simp] theorem waitHere_flash (why : Wait) : (waitHere why s).flash = s.flash := rfl
@[simp] theorem waitHere_flashMin (why : Wait) : (waitHere why s).flashMin = s.flashMin := rfl
@[simp] theorem waitHere_repairs (why : Wait) : (waitHere why s).repairs = s.repairs := rfl
@[simp] theorem waitHere_doing (why : Wait) : (waitHere why s).doing = s.doing := rfl
@[simp] theorem waitHere_asks (why : Wait) : (waitHere why s).asks = s.asks := rfl
@[simp] theorem waitHere_answers (why : Wait) : (waitHere why s).answers = s.answers := rfl
@[simp] theorem waitHere_walked (why : Wait) : (waitHere why s).walked = s.walked := rfl
@[simp] theorem waitHere_nextId (why : Wait) : (waitHere why s).nextId = s.nextId := rfl

/-! ### setM -/

@[simp] theorem setM_mem (k : Nat) (bits : List (Nat × Bool)) : (setM k bits s).mem = s.mem := by unfold setM; split <;> rfl
@[simp] theorem setM_peer (k : Nat) (bits : List (Nat × Bool)) : (setM k bits s).peer = s.peer := by unfold setM; split <;> rfl
@[simp] theorem setM_poison (k : Nat) (bits : List (Nat × Bool)) : (setM k bits s).poison = s.poison := by unfold setM; split <;> rfl
@[simp] theorem setM_teams (k : Nat) (bits : List (Nat × Bool)) : (setM k bits s).teams = s.teams := by unfold setM; split <;> rfl
@[simp] theorem setM_grids (k : Nat) (bits : List (Nat × Bool)) : (setM k bits s).grids = s.grids := by unfold setM; split <;> rfl
@[simp] theorem setM_ctxs (k : Nat) (bits : List (Nat × Bool)) : (setM k bits s).ctxs = s.ctxs := by unfold setM; split <;> rfl
@[simp] theorem setM_clusters (k : Nat) (bits : List (Nat × Bool)) : (setM k bits s).clusters = s.clusters := by unfold setM; split <;> rfl
@[simp] theorem setM_dies (k : Nat) (bits : List (Nat × Bool)) : (setM k bits s).dies = s.dies := by unfold setM; split <;> rfl
@[simp] theorem setM_regs (k : Nat) (bits : List (Nat × Bool)) : (setM k bits s).regs = s.regs := by unfold setM; split <;> rfl
@[simp] theorem setM_boot (k : Nat) (bits : List (Nat × Bool)) : (setM k bits s).boot = s.boot := by unfold setM; split <;> rfl
@[simp] theorem setM_remote (k : Nat) (bits : List (Nat × Bool)) : (setM k bits s).remote = s.remote := by unfold setM; split <;> rfl
@[simp] theorem setM_posts (k : Nat) (bits : List (Nat × Bool)) : (setM k bits s).posts = s.posts := by unfold setM; split <;> rfl
@[simp] theorem setM_replays (k : Nat) (bits : List (Nat × Bool)) : (setM k bits s).replays = s.replays := by unfold setM; split <;> rfl
@[simp] theorem setM_tcbWork (k : Nat) (bits : List (Nat × Bool)) : (setM k bits s).tcbWork = s.tcbWork := by unfold setM; split <;> rfl
@[simp] theorem setM_hands (k : Nat) (bits : List (Nat × Bool)) : (setM k bits s).hands = s.hands := by unfold setM; split <;> rfl
@[simp] theorem setM_msix (k : Nat) (bits : List (Nat × Bool)) : (setM k bits s).msix = s.msix := by unfold setM; split <;> rfl
@[simp] theorem setM_clock (k : Nat) (bits : List (Nat × Bool)) : (setM k bits s).clock = s.clock := by unfold setM; split <;> rfl
@[simp] theorem setM_cur (k : Nat) (bits : List (Nat × Bool)) : (setM k bits s).cur = s.cur := by unfold setM; split <;> rfl
@[simp] theorem setM_lastUnit (k : Nat) (bits : List (Nat × Bool)) : (setM k bits s).lastUnit = s.lastUnit := by unfold setM; split <;> rfl
@[simp] theorem setM_chain (k : Nat) (bits : List (Nat × Bool)) : (setM k bits s).chain = s.chain := by unfold setM; split <;> rfl
@[simp] theorem setM_agenda (k : Nat) (bits : List (Nat × Bool)) : (setM k bits s).agenda = s.agenda := by unfold setM; split <;> rfl
@[simp] theorem setM_stalled (k : Nat) (bits : List (Nat × Bool)) : (setM k bits s).stalled = s.stalled := by unfold setM; split <;> rfl
@[simp] theorem setM_site (k : Nat) (bits : List (Nat × Bool)) : (setM k bits s).site = s.site := by unfold setM; split <;> rfl
@[simp] theorem setM_turn (k : Nat) (bits : List (Nat × Bool)) : (setM k bits s).turn = s.turn := by unfold setM; split <;> rfl
@[simp] theorem setM_polls (k : Nat) (bits : List (Nat × Bool)) : (setM k bits s).polls = s.polls := by unfold setM; split <;> rfl
@[simp] theorem setM_free (k : Nat) (bits : List (Nat × Bool)) : (setM k bits s).free = s.free := by unfold setM; split <;> rfl
@[simp] theorem setM_flash (k : Nat) (bits : List (Nat × Bool)) : (setM k bits s).flash = s.flash := by unfold setM; split <;> rfl
@[simp] theorem setM_flashMin (k : Nat) (bits : List (Nat × Bool)) : (setM k bits s).flashMin = s.flashMin := by unfold setM; split <;> rfl
@[simp] theorem setM_repairs (k : Nat) (bits : List (Nat × Bool)) : (setM k bits s).repairs = s.repairs := by unfold setM; split <;> rfl
@[simp] theorem setM_doing (k : Nat) (bits : List (Nat × Bool)) : (setM k bits s).doing = s.doing := by unfold setM; split <;> rfl
@[simp] theorem setM_asks (k : Nat) (bits : List (Nat × Bool)) : (setM k bits s).asks = s.asks := by unfold setM; split <;> rfl
@[simp] theorem setM_answers (k : Nat) (bits : List (Nat × Bool)) : (setM k bits s).answers = s.answers := by unfold setM; split <;> rfl
@[simp] theorem setM_walked (k : Nat) (bits : List (Nat × Bool)) : (setM k bits s).walked = s.walked := by unfold setM; split <;> rfl
@[simp] theorem setM_nextId (k : Nat) (bits : List (Nat × Bool)) : (setM k bits s).nextId = s.nextId := by unfold setM; split <;> rfl

/-! ### Attempts (R52, R63, R368) -/

@[simp] theorem endAgent_mem (a : Agent) : (endAgent a s).mem = s.mem := by unfold endAgent; split <;> rfl
@[simp] theorem endAgent_peer (a : Agent) : (endAgent a s).peer = s.peer := by unfold endAgent; split <;> rfl
@[simp] theorem endAgent_poison (a : Agent) : (endAgent a s).poison = s.poison := by unfold endAgent; split <;> rfl
@[simp] theorem endAgent_waves (a : Agent) : (endAgent a s).waves = s.waves := by unfold endAgent; split <;> rfl
@[simp] theorem endAgent_teams (a : Agent) : (endAgent a s).teams = s.teams := by unfold endAgent; split <;> rfl
@[simp] theorem endAgent_grids (a : Agent) : (endAgent a s).grids = s.grids := by unfold endAgent; split <;> rfl
@[simp] theorem endAgent_ctxs (a : Agent) : (endAgent a s).ctxs = s.ctxs := by unfold endAgent; split <;> rfl
@[simp] theorem endAgent_clusters (a : Agent) : (endAgent a s).clusters = s.clusters := by unfold endAgent; split <;> rfl
@[simp] theorem endAgent_regs (a : Agent) : (endAgent a s).regs = s.regs := by unfold endAgent; split <;> rfl
@[simp] theorem endAgent_boot (a : Agent) : (endAgent a s).boot = s.boot := by unfold endAgent; split <;> rfl
@[simp] theorem endAgent_flash (a : Agent) : (endAgent a s).flash = s.flash := by unfold endAgent; split <;> rfl
@[simp] theorem endAgent_flashMin (a : Agent) : (endAgent a s).flashMin = s.flashMin := by unfold endAgent; split <;> rfl
@[simp] theorem endAgent_repairs (a : Agent) : (endAgent a s).repairs = s.repairs := by unfold endAgent; split <;> rfl
@[simp] theorem endAgent_remote (a : Agent) : (endAgent a s).remote = s.remote := by unfold endAgent; split <;> rfl
@[simp] theorem endAgent_posts (a : Agent) : (endAgent a s).posts = s.posts := by unfold endAgent; split <;> rfl
@[simp] theorem endAgent_replays (a : Agent) : (endAgent a s).replays = s.replays := by unfold endAgent; split <;> rfl
@[simp] theorem endAgent_tcbWork (a : Agent) : (endAgent a s).tcbWork = s.tcbWork := by unfold endAgent; split <;> rfl
@[simp] theorem endAgent_hands (a : Agent) : (endAgent a s).hands = s.hands := by unfold endAgent; split <;> rfl
@[simp] theorem endAgent_msix (a : Agent) : (endAgent a s).msix = s.msix := by unfold endAgent; split <;> rfl
@[simp] theorem endAgent_clock (a : Agent) : (endAgent a s).clock = s.clock := by unfold endAgent; split <;> rfl
@[simp] theorem endAgent_cur (a : Agent) : (endAgent a s).cur = s.cur := by unfold endAgent; split <;> rfl
@[simp] theorem endAgent_lastUnit (a : Agent) : (endAgent a s).lastUnit = s.lastUnit := by unfold endAgent; split <;> rfl
@[simp] theorem endAgent_chain (a : Agent) : (endAgent a s).chain = s.chain := by unfold endAgent; split <;> rfl
@[simp] theorem endAgent_agenda (a : Agent) : (endAgent a s).agenda = s.agenda := by unfold endAgent; split <;> rfl
@[simp] theorem endAgent_stalled (a : Agent) : (endAgent a s).stalled = s.stalled := by unfold endAgent; split <;> rfl
@[simp] theorem endAgent_site (a : Agent) : (endAgent a s).site = s.site := by unfold endAgent; split <;> rfl
@[simp] theorem endAgent_doing (a : Agent) : (endAgent a s).doing = s.doing := by unfold endAgent; split <;> rfl
@[simp] theorem endAgent_asks (a : Agent) : (endAgent a s).asks = s.asks := by unfold endAgent; split <;> rfl
@[simp] theorem endAgent_turn (a : Agent) : (endAgent a s).turn = s.turn := by unfold endAgent; split <;> rfl
@[simp] theorem endAgent_polls (a : Agent) : (endAgent a s).polls = s.polls := by unfold endAgent; split <;> rfl
@[simp] theorem endAgent_free (a : Agent) : (endAgent a s).free = s.free := by unfold endAgent; split <;> rfl
@[simp] theorem endAgent_nextId (a : Agent) : (endAgent a s).nextId = s.nextId := by unfold endAgent; split <;> rfl

@[simp] theorem needHost_peer (line : Nat) : (needHost line s).peer = s.peer := rfl
@[simp] theorem needHost_poison (line : Nat) : (needHost line s).poison = s.poison := rfl
@[simp] theorem needHost_waves (line : Nat) : (needHost line s).waves = s.waves := rfl
@[simp] theorem needHost_teams (line : Nat) : (needHost line s).teams = s.teams := rfl
@[simp] theorem needHost_grids (line : Nat) : (needHost line s).grids = s.grids := rfl
@[simp] theorem needHost_ctxs (line : Nat) : (needHost line s).ctxs = s.ctxs := rfl
@[simp] theorem needHost_clusters (line : Nat) : (needHost line s).clusters = s.clusters := rfl
@[simp] theorem needHost_regs (line : Nat) : (needHost line s).regs = s.regs := rfl
@[simp] theorem needHost_boot (line : Nat) : (needHost line s).boot = s.boot := rfl
@[simp] theorem needHost_flash (line : Nat) : (needHost line s).flash = s.flash := rfl
@[simp] theorem needHost_flashMin (line : Nat) : (needHost line s).flashMin = s.flashMin := rfl
@[simp] theorem needHost_repairs (line : Nat) : (needHost line s).repairs = s.repairs := rfl
@[simp] theorem needHost_remote (line : Nat) : (needHost line s).remote = s.remote := rfl
@[simp] theorem needHost_posts (line : Nat) : (needHost line s).posts = s.posts := rfl
@[simp] theorem needHost_replays (line : Nat) : (needHost line s).replays = s.replays := rfl
@[simp] theorem needHost_tcbWork (line : Nat) : (needHost line s).tcbWork = s.tcbWork := rfl
@[simp] theorem needHost_hands (line : Nat) : (needHost line s).hands = s.hands := rfl
@[simp] theorem needHost_msix (line : Nat) : (needHost line s).msix = s.msix := rfl
@[simp] theorem needHost_clock (line : Nat) : (needHost line s).clock = s.clock := rfl
@[simp] theorem needHost_cur (line : Nat) : (needHost line s).cur = s.cur := rfl
@[simp] theorem needHost_lastUnit (line : Nat) : (needHost line s).lastUnit = s.lastUnit := rfl
@[simp] theorem needHost_chain (line : Nat) : (needHost line s).chain = s.chain := rfl
@[simp] theorem needHost_agenda (line : Nat) : (needHost line s).agenda = s.agenda := rfl
@[simp] theorem needHost_stalled (line : Nat) : (needHost line s).stalled = s.stalled := rfl
@[simp] theorem needHost_site (line : Nat) : (needHost line s).site = s.site := rfl
@[simp] theorem needHost_doing (line : Nat) : (needHost line s).doing = s.doing := rfl
@[simp] theorem needHost_turn (line : Nat) : (needHost line s).turn = s.turn := rfl
@[simp] theorem needHost_polls (line : Nat) : (needHost line s).polls = s.polls := rfl
@[simp] theorem needHost_free (line : Nat) : (needHost line s).free = s.free := rfl
@[simp] theorem needHost_nextId (line : Nat) : (needHost line s).nextId = s.nextId := rfl
@[simp] theorem needHost_dies (line : Nat) : (needHost line s).dies = s.dies := rfl
@[simp] theorem needHost_answers (line : Nat) : (needHost line s).answers = s.answers := rfl
@[simp] theorem needHost_walked (line : Nat) : (needHost line s).walked = s.walked := rfl

/-- An attempt that needs no answer first has its effect. -/
theorem commitEvent_quiet (site : Nat) (e : Instr) (t : State) (h : t.asks = []) : commitEvent site e s t = endAgent (.event site e) t := by
  simp [commitEvent, h]

theorem commitIssue_quiet (t : State) (h : t.asks = []) : commitIssue s t = endAgent (agentOf s) t := by
  simp [commitIssue, h]

/-- Requests sent out change no memory, no register and no team. -/
theorem askOne_keep (a : Ask) : (askOne a s).mem = s.mem ∧ (askOne a s).peer = s.peer ∧ (askOne a s).waves = s.waves ∧ (askOne a s).teams = s.teams := by
  cases a <;> simp only [askOne] <;> split <;> exact ⟨rfl, rfl, rfl, rfl⟩

theorem askAll_keep (as : List Ask) : (askAll as s).mem = s.mem ∧ (askAll as s).peer = s.peer ∧ (askAll as s).waves = s.waves ∧ (askAll as s).teams = s.teams := by
  refine fold_inv (fun t : State => t.mem = s.mem ∧ t.peer = s.peer ∧ t.waves = s.waves ∧ t.teams = s.teams) _ ?_ as s ⟨rfl, rfl, rfl, rfl⟩
  intro t a h
  obtain ⟨h1, h2, h3, h4⟩ := askOne_keep t a
  exact ⟨h1.trans h.1, h2.trans h.2.1, h3.trans h.2.2.1, h4.trans h.2.2.2⟩

/-- An event that had to ask first has sent its requests and changed nothing else of memory, waves and teams. -/
theorem commitEvent_asked (site : Nat) (e : Instr) (t : State) (h : t.asks ≠ []) :
    (commitEvent site e s t).mem = s.mem ∧ (commitEvent site e s t).peer = s.peer ∧ (commitEvent site e s t).waves = s.waves ∧ (commitEvent site e s t).teams = s.teams := by
  obtain ⟨h1, h2, h3, h4⟩ := askAll_keep s t.asks
  unfold commitEvent
  rw [if_neg (by simpa using h)]
  dsimp only
  split
  · exact ⟨h1, h2, h3, h4⟩
  · unfold stallOnce
    split <;> exact ⟨h1, h2, h3, h4⟩

/-- A subgroup that had to ask first waits at its instruction, and memory stands. -/
theorem commitIssue_asked (t : State) (h : t.asks ≠ []) :
    (commitIssue s t).mem = s.mem ∧ (commitIssue s t).peer = s.peer ∧ commitIssue s t = waitHere .retry (askAll t.asks s) := by
  obtain ⟨h1, h2, _⟩ := askAll_keep s t.asks
  unfold commitIssue
  rw [if_neg (by simpa using h)]
  exact ⟨h1, h2, rfl⟩

/-- An access to a peer adds at most one request to those of the attempt (R368). -/
theorem needFar_eq (dev pa n kind : Nat) : ∃ l, needFar dev pa n kind s = { s with asks := s.asks ++ l } := by
  unfold needFar
  split
  · exact ⟨[], by simp⟩
  · split
    · exact ⟨[], by simp⟩
    · exact ⟨_, rfl⟩

/-! ### The issuing subgroup -/

theorem mem_active (l : Lane) : l ∈ active s ↔ l ∈ (curWave s).lanes ∧ l.st = .ready ∧ l.slot = s.cur.2 := by
  simp only [active, issuing, List.mem_filter, Bool.and_eq_true, beq_iff_eq]

theorem mem_selected (g : BitVec 4) (n : Bool) (l : Lane) : l ∈ selected s g n ↔ l ∈ active s ∧ mBit (curWave s) g.toNat l.id ≠ n := by
  simp only [selected, selects, List.mem_filter, bne_iff_ne, ne_eq]

/-- Guard 0 selects every active lane (R142, R159). -/
theorem selected_zero : selected s 0 false = active s := by
  simp [selected, selects, mBit]

/-- The issuing wave is one of the waves. -/
def HasWave (s : State) : Prop := (s.waves.find? (fun w => w.id == s.cur.1)).isSome

theorem hasWave_updCur (f : Wave → Wave) (hf : ∀ x, (f x).id = x.id) (h : HasWave s) : HasWave (updCur f s) := by
  obtain ⟨w, hw⟩ := Option.isSome_iff_exists.mp h
  have e : (updCur f s).waves.find? (fun w => w.id == s.cur.1) = some (f w) := by
    rw [show (updCur f s).waves.find? (fun w => w.id == s.cur.1) = _ from find_map_same Wave.id s.cur.1 f hf s.waves, hw]; rfl
  show ((updCur f s).waves.find? (fun w => w.id == s.cur.1)).isSome
  rw [e]; rfl

theorem curWave_mapActive (f : Lane → Lane) (h : HasWave s) :
    curWave (mapActive f s) = { curWave s with lanes := (curWave s).lanes.map (fun l => if issuing s.cur.2 l then f l else l) } :=
  curWave_updCur s _ (fun _ => rfl) h

theorem curWave_setW (k : Nat) (x : W64) (h : HasWave s) : curWave (setW k x s) = { curWave s with w := setNth x (curWave s).w k } :=
  curWave_updCur s _ (fun _ => rfl) h

theorem curWave_setMb (k : Nat) (x : W64) (h : HasWave s) : curWave (setMb k x s) = { curWave s with mb := setNth x (curWave s).mb k } :=
  curWave_updCur s _ (fun _ => rfl) h

theorem curWave_putM (k : Nat) (x : Mask) (h : HasWave s) : curWave (putM k x s) = { curWave s with m := setNth x (curWave s).m k } :=
  curWave_updCur s _ (fun _ => rfl) h

/-- A lane-wise change that keeps each lane's state and slot keeps the subgroup. -/
theorem active_mapActive (f : Lane → Lane) (h : HasWave s) (hs : ∀ l, (f l).st = l.st) (hk : ∀ l, (f l).slot = l.slot) :
    active (mapActive f s) = (active s).map f := by
  have e : active (mapActive f s) = ((curWave s).lanes.map (fun l => if issuing s.cur.2 l then f l else l)).filter (issuing s.cur.2) := by
    simp only [active, curWave_mapActive s f h, mapActive_cur]
  rw [e, active]
  induction (curWave s).lanes with
  | nil => rfl
  | cons x r ih =>
    have hi : issuing s.cur.2 (f x) = issuing s.cur.2 x := by simp only [issuing, hs, hk]
    cases hx : issuing s.cur.2 x with
    | true => rw [List.map_cons, hx, if_pos rfl, List.filter_cons_of_pos (by rw [hi]; exact hx), ih, List.filter_cons_of_pos hx, List.map_cons]
    | false =>
      rw [List.map_cons, hx, if_neg (by decide), List.filter_cons_of_neg (by rw [hx]; decide), ih, List.filter_cons_of_neg (by rw [hx]; decide)]

theorem active_setW (k : Nat) (x : W64) (h : HasWave s) : active (setW k x s) = active s := by
  simp only [active, curWave_setW s k x h, setW_cur]

theorem active_advance (n : Nat) (h : HasWave s) :
    active (advance n s) = (active s).map (fun l => { l with pc := l.pc + BitVec.ofNat 64 (4 * n) }) :=
  active_mapActive s _ h (fun _ => rfl) (fun _ => rfl)

/-- The subgroup's PC moves past the words of the instruction (R155). -/
theorem curPc_advance (n : Nat) (h : HasWave s) (ha : active s ≠ []) : curPc (advance n s) = curPc s + BitVec.ofNat 64 (4 * n) := by
  simp only [curPc, active_advance s n h]
  cases e : active s with
  | nil => exact absurd e ha
  | cons l r => rfl

/-! ### Registers of a wave and a lane -/

theorem wGet_setW (k j : Nat) (x : W64) (h : HasWave s) (hk : k < (curWave s).w.length) :
    wGet (curWave (setW k x s)) j = if j = k then x else wGet (curWave s) j := by
  simp only [wGet, curWave_setW s k x h, nth_setNth _ _ _ _ _ hk]

theorem mbGet_setMb (k j : Nat) (x : W64) (h : HasWave s) (hk : k < (curWave s).mb.length) :
    mbGet (curWave (setMb k x s)) j = if j = k then x else mbGet (curWave s) j := by
  simp only [mbGet, curWave_setMb s k x h, nth_setNth _ _ _ _ _ hk]

theorem vGet_setV (k j : Nat) (x : W32) (l : Lane) (hk : k < l.v.length) : vGet (setV k x l) j = if j = k then x else vGet l j := by
  simp only [vGet, setV, nth_setNth _ _ _ _ _ hk]

@[simp] theorem setV_id (k : Nat) (x : W32) (l : Lane) : (setV k x l).id = l.id := rfl
@[simp] theorem setV_st (k : Nat) (x : W32) (l : Lane) : (setV k x l).st = l.st := rfl
@[simp] theorem setV_slot (k : Nat) (x : W32) (l : Lane) : (setV k x l).slot = l.slot := rfl
@[simp] theorem setV_pc (k : Nat) (x : W32) (l : Lane) : (setV k x l).pc = l.pc := rfl
@[simp] theorem setV_fpflags (k : Nat) (x : W32) (l : Lane) : (setV k x l).fpflags = l.fpflags := rfl
@[simp] theorem setV_h (k : Nat) (x : W32) (l : Lane) : (setV k x l).h = l.h := rfl

/-- Register writes change nothing of a lane but its v registers. -/
theorem writeVs_eq (ws : List (Nat × W32)) (l : Lane) : writeVs ws l = { l with v := (writeVs ws l).v } := by
  induction ws generalizing l with
  | nil => rfl
  | cons p r ih => show writeVs r (setV p.1 p.2 l) = _; rw [ih]; rfl

/-- Mask register 0 reads all ones and ignores writes (R142). -/
theorem mBit_zero (w : Wave) (i : Nat) : mBit w 0 i = true := rfl
theorem mGet_zero (w : Wave) : mGet w 0 = BitVec.allOnes 128 := rfl
theorem setM_zero (bits : List (Nat × Bool)) : setM 0 bits s = s := rfl

/-! ### Splitting into subgroups -/

/-- Lanes with one PC stay one subgroup (R144). -/
theorem regroupIn_same (slot : Nat) (w : Wave) (h : (distinct ((w.lanes.filter (issuing slot)).map (·.pc))).length < 2) : regroupIn slot w = w := by
  unfold regroupIn; dsimp only; rw [if_pos h]

/-- A split moves lanes between slots and changes no memory. -/
theorem regroup_mem : (regroup s).mem = s.mem := rfl

/-! ### Traps -/

/-- A lane that takes a trap has H = 1, the handler's PC and its trap registers written (R331 to R334). -/
theorem enterHandler_spec (pc : W64) (t : LaneTrap) (conv : Bool) (k st : Nat) (l : Lane) :
    (enterHandler pc t conv k st l).h = true ∧ (enterHandler pc t conv k st l).pc = pc ∧ (enterHandler pc t conv k st l).st = .ready ∧
    (enterHandler pc t conv k st l).tcause = tcauseWord t l.h conv k st ∧ (enterHandler pc t conv k st l).tval = t.tval ∧
    (enterHandler pc t conv k st l).tepc = t.tepc ∧ (enterHandler pc t conv k st l).targ = t.targ :=
  ⟨rfl, rfl, rfl, rfl, rfl, rfl, rfl⟩

/-- It keeps its registers, flags and enables. -/
theorem enterHandler_frame (pc : W64) (t : LaneTrap) (conv : Bool) (k st : Nat) (l : Lane) :
    (enterHandler pc t conv k st l).id = l.id ∧ (enterHandler pc t conv k st l).v = l.v ∧ (enterHandler pc t conv k st l).fpflags = l.fpflags ∧
    (enterHandler pc t conv k st l).fpen = l.fpen ∧ (enterHandler pc t conv k st l).meet = l.meet ∧ (enterHandler pc t conv k st l).link = l.link :=
  ⟨rfl, rfl, rfl, rfl, rfl, rfl⟩

/-- The return takes H from PH and the PC from TEPC (R355). -/
theorem returnLane_spec (l : Lane) : (returnLane l).h = tcPH l.tcause ∧ (returnLane l).pc = l.tepc ∧ (returnLane l).v = l.v :=
  ⟨rfl, rfl, rfl⟩

theorem takeTraps_nil : takeTraps [] s = s := rfl
theorem takeConverged_nil : takeConverged [] s = s := rfl
theorem takeFpe_nil (pc : W64) : takeFpe [] pc s = s := rfl

/-! ### Results where no exception is enabled -/

theorem fpeLanes_nil (rs : List (Lane × Flags)) (h : ∀ r ∈ rs, enabledIn r.1 r.2 = false) : fpeLanes rs = [] := by
  have e : rs.filter (fun r => enabledIn r.1 r.2) = [] := List.filter_eq_nil_iff.mpr (fun r hr => by rw [h r hr]; decide)
  rw [fpeLanes, e, List.map_nil]

/-- No flag, no exception. -/
theorem enabledIn_zero (l : Lane) : enabledIn l 0 = false := by
  simp [enabledIn]

/-- Nothing enabled, no exception. -/
theorem enabledIn_off (l : Lane) (f : Flags) (h : l.fpen = 0) : enabledIn l f = false := by
  simp [enabledIn, h]

/-- A v destination (R176): each selected lane takes its writes and flags, and the subgroup moves on. -/
theorem vResult_quiet (g : BitVec 4) (n : Bool) (words : Nat) (f : Wave → Lane → List (Nat × W32) × Flags)
    (h : ∀ l ∈ selected s g n, enabledIn l (f (curWave s) l).2 = false) :
    vResult g n words f s = advance words (mapActive (fun l =>
      if selects (curWave s) g n l then raise (f (curWave s) l).2 (writeVs (f (curWave s) l).1 l) else l) s) := by
  have e : fpeLanes (((selected s g n).map (fun l => (l, f (curWave s) l))).map (fun r => (r.1, r.2.2))) = [] := by
    refine fpeLanes_nil _ (fun r hr => ?_)
    obtain ⟨q, hq, rfl⟩ := List.mem_map.mp hr
    obtain ⟨l, hl, rfl⟩ := List.mem_map.mp hq
    exact h l hl
  unfold vResult
  dsimp only
  rw [e, takeFpe_nil]
  simp only [List.any_nil, Bool.not_false, Bool.and_true]

/-- A w destination (R176): written once if a lane is selected; its flags go to every selected lane. -/
theorem wResult_quiet (g : BitVec 4) (n : Bool) (words d : Nat) (f : Wave → Lane → W64 × Flags) (l : Lane) (r : List Lane)
    (hl : selected s g n = l :: r) (h : ∀ k ∈ selected s g n, enabledIn k (f (curWave s) l).2 = false) :
    wResult g n words d f s = advance words (mapActive (fun k =>
      if selects (curWave s) g n k then raise (f (curWave s) l).2 k else k) (setW d (f (curWave s) l).1 s)) := by
  have e : fpeLanes ((l :: r).map (fun k => (k, (f (curWave s) l).2))) = [] := by
    refine fpeLanes_nil _ (fun q hq => ?_)
    obtain ⟨k, hk, rfl⟩ := List.mem_map.mp hq
    exact h k (hl ▸ hk)
  unfold wResult
  dsimp only
  rw [hl]
  dsimp only
  rw [e]
  rfl

/-- No lane selected: a w destination is left alone (R176). -/
theorem wResult_none (g : BitVec 4) (n : Bool) (words d : Nat) (f : Wave → Lane → W64 × Flags) (h : selected s g n = []) :
    wResult g n words d f s = advance words s := by
  unfold wResult
  dsimp only
  rw [h]

/-- The integer functions raise no flag, so they never trap (R178 to R182). -/
theorem intResult_v (r : Rec) (f : Nat → Nat → Nat → Nat → Int) (h : r.kd ≠ .w) :
    intResult r f s = advance r.words (mapActive (fun l =>
      if selects (curWave s) r.g r.n l then
        raise 0 (writeVs (putV r.d (widthOf r) (wrap (widthOf r)
          (f (widthOf r) (aVal r (curWave s) l (widthOf r)) (bVal r (curWave s) l (widthOf r)) (cVal r (curWave s) l (widthOf r))))) l)
      else l) s) := by
  unfold intResult putResult
  dsimp only
  split
  · rename_i e; exact absurd e h
  · exact vResult_quiet s r.g r.n r.words _ (fun l _ => enabledIn_zero l)

end Sys2Proof.Laws
end

