-- ==== Sys2Proof/Tests/Slice0.lean ====
section
/-! SUPPORT. Tests of the model: words of the specification decoded, ill-formed terms refused, one-step results worked out by hand from the rules, and for
every statement with hypotheses a state and operands that meet them together (theorems witness_…). -/

namespace Sys2Proof.Tests

open Sys2Proof Sys2Proof.Machine Sys2Proof.Spec

-- one theorem at a time: each waits for what stands before it to be checked
set_option Elab.async false

/-! ### The test machine: context 1 with a heap window of 1 MiB at 0x100000, mapped to itself, and a handler; one team; one wave of two lanes -/

def zs : List W32 := List.replicate 64 0
def zw : List W64 := List.replicate 64 0
def putAll {α : Type} (ps : List (Nat × α)) (l : List α) : List α := ps.foldl (fun l p => setNth p.2 l p.1) l

def kLane (i : Nat) (vs : List (Nat × W32)) : Lane := { id := i, pc := 0x10000, v := putAll vs zs }
def kCtx : Ctx := { ctxid := 0x10000, hwinBase := 0x100001, hwinLimit := 0x100000, tvec := 0x40000 }
def kTeam : Team := { id := 1, ctx := 1, cluster := 0, cart := false, size := 1, lm := 0x100000 }
def kWave (ws : List (Nat × W64)) (ls : List Lane) : Wave := { (default : Wave) with
  id := 0, cluster := 0, unit := 0, slot := 0, team := 1, member := some 0, ctx := 1, regs := 64, w := putAll ws zw, m := List.replicate 16 0, lanes := ls }
def kState (w : Wave) : State := { State.reset with waves := [w], teams := [kTeam], ctxs := [(1, kCtx)], nextId := 2, regs := { (default : PkgRegs) with stage := 7 } }

/-- The machine with the given w registers, and v registers in both lanes, or in its one lane. -/
def kit2 (ws : List (Nat × W64)) (vs : List (Nat × W32)) : State := kState (kWave ws [kLane 0 vs, kLane 1 vs])
def kit1 (ws : List (Nat × W64)) (vs : List (Nat × W32)) : State := kState (kWave ws [kLane 0 vs])

/-- The machine with its lanes in handler mode, in waiting, or changed otherwise. -/
def withLanes (f : Lane → Lane) (s : State) : State := { s with waves := s.waves.map (fun w => { w with lanes := w.lanes.map f }) }
def withWave (f : Wave → Wave) (s : State) : State := { s with waves := s.waves.map f }
def withTeams (f : Team → Team) (s : State) : State := { s with teams := s.teams.map f }
def withCtx (f : Ctx → Ctx) (s : State) : State := { s with ctxs := s.ctxs.map (fun p => (p.1, f p.2)) }
/-- Bytes in package memory and in local memory. -/
def withMem (a n x : Nat) (s : State) : State := { s with mem := cellsWrite s.mem a (leBytes n x) }
def withLm (a n x : Nat) (s : State) : State := withTeams (fun t => { t with mem := cellsWrite t.mem a (leBytes n x) }) s

/-- Operand records. -/
def rg (d a b : Nat) : RG := { c := false, d := BitVec.ofNat 6 d, a := BitVec.ofNat 6 a, b := BitVec.ofNat 6 b, g := 0, n := false, x := false }
def rgx (d a b : Nat) : RG := { rg d a b with x := true }
def xr (h : RG) (kd ka kb kc : Cls) (ty rc md : Nat) : XR :=
  { h, kd, ka, kb, kc, rm := .rne, ty := BitVec.ofNat 3 ty, rc := BitVec.ofNat 6 rc, md := BitVec.ofNat 7 md }
def ma (h : RG) (sz opx off : Nat) : MA :=
  { h, scope := 0, ord := .plain, sz := BitVec.ofNat 3 sz, scl := 0, ka := true, kb := false, nb := true, p64 := false, opx := BitVec.ofNat 4 opx, off := BitVec.ofNat 14 off }
def sy (d a b : Nat) : SY := { c := false, d := BitVec.ofNat 6 d, a := BitVec.ofNat 6 a, b := BitVec.ofNat 6 b, scope := 1, ord := .rel, x := false }
def z (code : Nat) : Z := { c := false, code := BitVec.ofNat 16 code, g := 0, n := false }
def br (off : Nat) (u : Bool) : BR := { c := false, off := BitVec.ofNat 18 off, g := 0, n := false, u }
def cr (reg csr : Nat) : CR := { c := false, reg := BitVec.ofNat 6 reg, csr := BitVec.ofNat 12 csr, g := 0, n := false, k := true }

/-! ### Witnesses: encoding, integer, floating and lane functions -/

theorem witness_DecodeExact : ∃ i, decode 0x150FFFF7 none = .ok i := ⟨_, rfl⟩
theorem witness_ArithmeticResult : (∃ r f, arith (.add (.xr (xr (rg 1 2 3) .v .v .v .v 0 0 0))) = some (r, f)) ∧
    ∃ r f, order (.mulh (.xr (xr (rg 1 2 3) .w .w .w .v 0 0 0))) = some (r, f) := ⟨⟨_, _, rfl⟩, ⟨_, _, rfl⟩⟩
theorem witness_DivisionResult : ∃ r f, divide (.div (.xr (xr (rg 1 2 3) .v .v .v .v 0 0 0))) = some (r, f) := ⟨_, _, rfl⟩
theorem witness_BitResult : (∃ r f, shift (.shl (.xr (xr (rg 1 2 3) .v .v .v .v 0 0 0))) = some (r, f)) ∧
    (∃ r f, bits (.bfi (xr (rg 1 2 3) .v .v .v .v 0 4 0)) = some (r, f)) ∧ ∃ r f, interleave (.bil (xr (rg 1 2 3) .v .v .v .v 0 4 0)) = some (r, f) :=
  ⟨⟨_, _, rfl⟩, ⟨_, _, rfl⟩, ⟨_, _, rfl⟩⟩
theorem witness_MoveResult : (∃ r f, immediate (.moviIw { c := false, d := 3, imm := 0x1FFFB, k := true }) = some (r, f)) ∧
    (∃ r x, high (.movhIw { c := false, d := 3, imm := 0x1FFFB, k := true }) = some (r, x)) ∧
    (∃ r, move (.mov (xr (rg 1 2 0) .v .w .v .v 0 0 0)) = some r ∧ Fits (.mov (xr (rg 1 2 0) .v .w .v .v 0 0 0)) (kit2 [] [])) ∧
    Fits (.sel (xr (rg 1 2 3) .v .v .v .m 0 4 0)) (kit2 [] []) ∧ Fits (.cmp (xr (rg 1 2 3) .m .v .v .v 0 0 2)) (kit2 [] []) ∧
    Fits (.lea (xr (rg 2 2 3) .v .w .v .v 0 0 3)) (kit2 [] []) := by
  refine ⟨⟨_, _, rfl⟩, ⟨_, _, rfl⟩, ⟨_, rfl, ?_⟩, ?_, ?_, ?_⟩ <;> unfold Fits <;> decide
theorem witness_FloatResult : (∃ r f, elementwise (.fadd (.xr (xr (rg 1 2 3) .v .v .v .v 0 0 0))) = some (r, f)) ∧
    Fits (.fadd (.xr (xr (rg 1 2 3) .v .v .v .v 0 0 0))) (kit2 [] []) ∧ NoTraps (kit2 [] []) ∧ Fits (.fcmp (xr (rg 1 2 3) .m .v .v .v 0 0 2)) (kit2 [] []) := by
  refine ⟨⟨_, _, rfl⟩, ?_, ?_, ?_⟩ <;> first | unfold Fits; decide | unfold NoTraps; decide
theorem witness_PackedResult : Fits (.dot4 (xr (rg 1 2 3) .v .v .v .v 7 4 0)) (kit2 [] []) ∧ Fits (.dot2 (xr (rg 1 2 3) .v .v .v .v 2 4 0)) (kit2 [] []) ∧
    (∃ o f, packed (.unpack (xr (rg 4 2 0) .v .v .v .v 1 0 0)) = some (o, f)) ∧ Fits (.fcvt (xr (rg 2 4 0) .v .v .v .v 0 0 4)) (kit2 [] []) ∧ NoTraps (kit2 [] []) := by
  refine ⟨?_, ?_, ⟨_, _, rfl⟩, ?_, ?_⟩ <;> first | unfold NoTraps; decide | unfold Fits; decide
theorem witness_RoundingLaws : unpackF .fp32 0x3F800000 = .fin false 8388608 (-23) ∧ 0x3F800000 < 2 ^ Fmt.fp32.width ∧ Fmt.fp32 ≠ .e4m3 := by decide
theorem witness_LaneFunctions : let i := Instr.shfl (xr (rg 7 3 5) .v .v .w .v 0 0 1)
    let s := kit2 [(5, 1)] []
    (∃ r f, laneFn i = some (r, f)) ∧ Fits i s ∧ Gathered (BitVec.allOnes 128) s ∧ NoTraps s := by
  refine ⟨⟨_, _, rfl⟩, ?_, ?_, ?_⟩ <;> first | unfold Fits; decide | unfold Gathered Issues; decide | unfold NoTraps; decide
theorem witness_MaskResult : ∃ o f, maskFn (.mand (rg 1 2 3)) = some (o, f) := ⟨_, _, rfl⟩
theorem witness_DecodeEncode : (Instr.addRg (rg 1 2 63)).wf false 64 = true ∧ (Instr.ldlm (ma (rg 1 2 0) 2 0 8191)).wf false 64 = true ∧
    (Instr.qnc 3 63 5).wf false 64 = true := by decide

/-! ### Witnesses: control transfer and traps -/

/-- A subgroup of two lanes with a third lane that waits in a slot of its own. -/
def kTwo : State := withWave (fun w => { w with lanes := w.lanes ++ [{ kLane 2 [] with slot := 3, st := .waiting .retry }] }) (kit2 [(4, 0x20000)] [])
def inHandler : Lane → Lane := fun l => { l with h := true, tepc := 0x20008, tcause := 0x11 }

theorem issues_kTwo : Issues kTwo := by unfold Issues; decide
theorem witness_TransferEffect : (∃ t, transfer kTwo (.bra (br 0x3FFFD true)) = some t) ∧ Issues kTwo ∧
    Agree kTwo (nextOf kTwo 0 false (fun l => target (br 0x3FFFD true) l.pc)) ∧
    (∀ l ∈ selected kTwo 0 false, (wGet (curWave kTwo) 4).toNat % 16 = 0 ∧ canonical (wGet (curWave kTwo) 4) = true) := by
  refine ⟨⟨_, rfl⟩, issues_kTwo, ?_, ?_⟩
  · unfold Agree; decide
  · decide
/-- SETMEET, EXIT, NOP and YIELD complete here; only EXIT asks something of the state, and the third lane, in another slot, is what a YIELD may have to wait for. -/
theorem witness_SubgroupSteps : Issues kTwo ∧ (∃ t, exec (.setmeet (br 4 false)) kTwo = .next t) ∧ (∃ t, exec (.exit (z 0)) kTwo = .next t) ∧
    (∃ t, exec (.nop (z 0)) kTwo = .next t) ∧ (∃ t, exec (.yieldv (z 0)) kTwo = .next t) := ⟨issues_kTwo, ⟨_, rfl⟩, ⟨_, rfl⟩, ⟨_, rfl⟩, ⟨_, rfl⟩⟩
/-- Slot: the subgroup's own where all its lanes trap, the lowest free one where lane 1 does (m2 = 2). -/
theorem witness_SoftTrapEntry : Issues kTwo ∧ Handles kTwo ∧ selected kTwo 0 false = active kTwo ∧ softTrapOf (.trap (z 0x12)) ≠ none ∧
    (let s := withWave (fun w => { w with m := setNth 2 w.m 2 }) kTwo
     Issues s ∧ Handles s ∧ selected s 2 false ≠ [] ∧ selected s 2 false ≠ active s ∧ (freeSlots (curWave s)).head? = some 1) := by
  refine ⟨issues_kTwo, ?_, ?_, ?_, ?_, ?_, ?_⟩ <;> first | decide | unfold Handles; decide | unfold Issues; decide
theorem witness_SoftTrapEntry_noHandler : let s := withCtx (fun x => { x with tvec := 0 }) kTwo
    Issues s ∧ linkBits (getCtx s (curWave s).ctx).tvec = 0 ∧ bit (getCtx s (curWave s).ctx).supv 0 = false := by
  refine ⟨?_, ?_⟩ <;> first | decide | unfold Issues; decide
/-- m2 = 2: lane 1 takes the branch, lane 0 does not. -/
theorem witness_UniformFallback : let s := withWave (fun w => { w with m := setNth 2 w.m 2 }) kTwo
    let o : BR := { br 4 true with g := 2 }
    Issues s ∧ Handles s ∧ o.u = true ∧ (curWave s).cart = false ∧ (∀ l ∈ (curWave s).lanes, alive l = true → tcCONV l.tcause = false) ∧ (∀ l ∈ active s, l.h = false) ∧
      (active s).any (fun l => (active s).any (fun k => k.id == l.id &&
        decide ((active s).head?.map (nextOf s o.g o.n (fun l => target o l.pc)) ≠ some (nextOf s o.g o.n (fun l => target o l.pc) k)))) = true := by
  refine ⟨?_, ?_, ?_⟩ <;> first | decide | unfold Handles; decide | unfold Issues; decide
theorem witness_HandlerReturn : let s := withLanes inHandler (kit2 [] [])
    Fits (.eret (z 0)) s ∧ Issues s ∧ (∀ l ∈ active s, l.h = true ∧ tcLOGV l.tcause = false ∧ tcPTV l.tcause = false ∧ l.atEret = []) ∧
      (∀ l ∈ (curWave s).lanes, tcCONV l.tcause = false) := by
  refine ⟨?_, ?_, ?_⟩ <;> first | decide | unfold Fits; decide | unfold Issues; decide
theorem witness_HandlerReturn_converged : let s := withLanes (fun l => { inHandler l with tcause := 0x2030000000000004 }) (kit2 [] [])
    Fits (.eret (z 0)) s ∧ Issues s ∧ (∀ l ∈ active s, l.h = true ∧ tcLOGV l.tcause = false ∧ tcPTV l.tcause = false ∧ l.atEret = []) ∧
      (curWave s).halted = false ∧ (∀ l ∈ active s, tcCONV l.tcause = true) ∧ (∀ l ∈ (curWave s).lanes, l.held = false) ∧
      (∀ l ∈ (curWave s).lanes, alive l = true → issuing s.cur.2 l = true) := by
  refine ⟨?_, ?_, ?_⟩ <;> first | decide | unfold Fits; decide | unfold Issues; decide
theorem witness_CsrReadResult : Fits (.csrr (cr 5 0x021)) (withLanes inHandler (kit2 [] [])) ∧ Issues (withLanes inHandler (kit2 [] [])) ∧
    (∀ l ∈ selected (withLanes inHandler (kit2 [] [])) 0 false, l.h = true) ∧ Fits (.csrr (cr 5 0)) (kit2 [] []) ∧ handlerReads 0 = false ∧
    ∀ n < 4, (identity (kit2 [] []) (curWave (kit2 [] [])) (kLane 1 []) n).isSome = true := by
  refine ⟨?_, ?_, ?_, ?_, ?_⟩ <;> first | decide | unfold Fits; decide | unfold Issues; decide
theorem witness_CsrWriteReadBack : let s := withLanes inHandler (kit2 [(5, 0x123456789ABCDEF0)] [])
    (∀ n ∈ [0x010, 0x011, 0x012, 0x013, 0x020, 0x021, 0x022, 0x023, 0x030, 0x031, 0x040, 0x041, 0x046], (writable n).isSome = true ∧ (Instr.csrw (cr 5 n)).wf false 64 = true) ∧
      Issues s ∧ selected s 0 false ≠ [] ∧ ∀ l ∈ selected s 0 false, l.h = true := by
  refine ⟨?_, ?_, ?_⟩ <;> first | decide | unfold Issues; decide
theorem witness_CsrGuarded : Fits (.csrw (cr 5 0x030)) (kit2 [] []) ∧ Issues (kit2 [] []) ∧ Handles (kit2 [] []) ∧ handlerWrites 0x030 = true ∧
    (∀ l ∈ active (kit2 [] []), l.h = false) ∧ selected (kit2 [] []) 0 false = active (kit2 [] []) := by
  refine ⟨?_, ?_, ?_, ?_⟩ <;> first | decide | unfold Fits; decide | unfold Handles; decide | unfold Issues; decide
def tlbinvO : RG := rg 0 4 5
theorem witness_TlbInvalidation : let s := withLanes inHandler (kit2 [] [])
    Fits (.tlbinvVa tlbinvO) s ∧ Fits (.tlbinvCtx (rg 1 0 5)) s ∧ Fits (.tlbinvAll (rg 2 0 0)) s ∧ Issues s ∧ (∀ l ∈ active s, l.h = true) ∧
      releaseReady 2 s = true ∧ accessesDone s = true ∧ (∀ w ∈ s.waves, ∀ l ∈ w.lanes, l.st = .ready) ∧ (∀ d < 4, unanswered s d = []) ∧
      (∀ l ∈ active (kit2 [] []), l.h = false) ∧ Fits (.tlbinvVa tlbinvO) (kit2 [] []) ∧ Handles (kit2 [] []) := by
  refine ⟨?_, ?_, ?_, ?_, ?_, ?_, ?_, ?_, ?_, ?_, ?_, ?_⟩ <;> first | decide | unfold Fits; decide | unfold Issues; decide | unfold Handles; decide

/-! ### Witnesses: translation and memory. Addresses 0x100000 and up lie in the heap window; 0x1000 and 0x2000 hold a page table of one 16 GiB leaf -/

/-- The instruction's operands: data v8, base w1 (at the window's last 64 bytes), no index. -/
def mo (sz opx : Nat) : MA := ma (rg 8 1 0) sz opx 0
def mow (sz opx : Nat) : MA := ma (rgx 8 1 0) sz opx 0
def kMem : State := withMem 0x1FFFC0 8 0x8877665544332211 (kit2 [(1, 0x1FFFC0), (2, 0x1FFF00)] [(8, 7), (9, 5), (10, 3), (11, 1)])
def kMem1 : State := withMem 0x1FFFC0 8 0x8877665544332211 (kit1 [(1, 0x1FFFC0), (2, 0x1FFF00)] [(8, 7), (9, 5), (10, 3), (11, 1)])
def kPaged : State := { withCtx (fun x => { x with ptbase := 0x1000 }) (withMem 0x1000 8 0x2001 (withMem 0x2000 8 0x0F (kit1 [(1, 0x30008)] [(8, 7)]))) with
  walked := [(.lanes 0 0, 1, 3)] }
def kReq (acc : Acc) (va : W64) (size : Nat) : XReq := { ctx := 1, cluster := 0, h := false, acc, va, size }

theorem issues_kMem : Issues kMem := by unfold Issues; decide
theorem issues_kMem1 : Issues kMem1 := by unfold Issues; decide
theorem witness_WindowTranslation : let x := kCtx
    let ok (q : XReq) := canonical q.va && canonical (q.va + BitVec.ofNat 64 (q.size - 1))
    (0x1FFFC1 % 8 ≠ 0) ∧ ok (kReq .read 0x8000000000000 8) = false ∧ 0x8000000000000 % 8 = 0 ∧
    ok (kReq .read 0x1FFFE0 64) = true ∧ inWindow x 0x1FFFE0 64 = .part ∧ inWindow x 0x1FFFC0 64 = .inside ∧ inWindow x 0x100000 64 = .inside ∧
    ok (kReq .read 0x1FFFC0 64) = true := by decide
theorem witness_WalkMarksEntry : let q := kReq .write 0x30008 8
    q.va.toNat % q.size = 0 ∧ q.size ≠ 0 ∧ canonical q.va = true ∧ canonical (q.va + BitVec.ofNat 64 (q.size - 1)) = true ∧
    inWindow (getCtx kPaged q.ctx) q.va q.size = .outside ∧ (getCluster kPaged q.cluster).tlb = [] ∧ (getCluster kPaged q.cluster).l1tlb = [] ∧ (getDie kPaged 0).wcache = [] ∧
    (agentOf kPaged, q.ctx, q.va.toNat % 2 ^ 52 / 65536) ∈ kPaged.walked ∧ 0x2000 % 8 = 0 ∧
    walkFrom kPaged (q.va.toNat % 2 ^ 52) 4 ((getCtx kPaged q.ctx).ptbase.toNat / 4096 % 2 ^ 36 * 4096) = (.leaf 2 0x2000 0x0F, [(3, 4096, 0x2001)]) ∧
    leafAllows 0x0F q = true ∧ leafTarget kPaged 2 0x0F (q.va.toNat % 2 ^ 52) = .loc 0x30008 0 ∧ exists_ kPaged 0x30008 = true ∧ HomeQuiet kPaged 0 0x2000 := by
  refine ⟨?_, ?_, ?_, ?_, ?_, ?_, ?_, ?_, ?_, ?_, ?_, ?_, ?_, ?_, ?_⟩ <;> first | decide | unfold HomeQuiet; decide
theorem witness_LocalLoad : let o := mo 3 0
    let s := kit2 [(1, 0x1EFFFF8)] []
    Fits (.ldlm o) s ∧ Issues s ∧ acqHolds (curWave s) (selected s o.h.g o.h.n) = false ∧ (∀ l ∈ selected s o.h.g o.h.n, (localAddr o (curWave s) l).toNat % accSize o = 0 ∧
      (localTarget s (teamOf s (curWave s)) (localAddr o (curWave s) l).toNat (accSize o)).isSome = true) := by
  refine ⟨?_, ?_, ?_, ?_⟩ <;> first | decide | unfold Fits; decide | unfold Issues; decide
theorem witness_LocalStore : let o := mo 3 0
    let s := kit2 [(1, 0x1EFFFF8)] []
    Fits (.stlm o) s ∧ Fits (.lmbc o) s ∧ Issues s ∧ ReleaseFree o.ord o.scope.toNat s ∧ acqHolds (curWave s) (selected s o.h.g o.h.n) = false ∧
      getTeam s (curWave s).team ≠ none ∧ (∀ l ∈ selected s o.h.g o.h.n, (localAddr o (curWave s) l).toNat % accSize o = 0 ∧
        (localTarget s (teamOf s (curWave s)) (localAddr o (curWave s) l).toNat (accSize o)).isSome = true ∧ (localAddr o (curWave s) l).toNat / 2 ^ 21 % 16 = 15) := by
  refine ⟨?_, ?_, ?_, ?_, ?_, ?_, ?_⟩ <;> first | decide | unfold Fits; decide | unfold Issues; decide | unfold ReleaseFree; decide
/-- The last 8 bytes of the window's last line but one lie in place for both lanes. -/
theorem inPlace_kMem : ∀ k < 8, InWindow kMem 0x1FFFC0 8 0x1FFFC0 ∧ HomeQuiet kMem 0 (0x1FFFC0 + k) := by unfold InWindow InWindowOf HomeQuiet; decide
theorem witness_GlobalLoad : (∃ o sx, loads (.ld (mo 3 0)) = some (o, sx)) ∧ (∃ o sx, loads (.gather (ma { rg 8 1 0 with b := 20 } 3 0 0)) = some (o, sx)) ∧ Fits (.ld (mo 3 0)) kMem ∧
    Issues kMem ∧ (curWave kMem).log = [] ∧ (∀ l ∈ selected kMem 0 false, effAddr (mo 3 0) (curWave kMem) l = 0x1FFFC0) ∧
    InWindow kMem 0x1FFFC0 8 0x1FFFC0 ∧ HomeQuiet kMem ((curWave kMem).cluster / 64) 0x1FFFC0 := by
  refine ⟨⟨_, _, rfl⟩, ⟨_, _, rfl⟩, ?_, issues_kMem, rfl, ?_, (inPlace_kMem 0 (by decide)).1, (inPlace_kMem 0 (by decide)).2⟩
  · unfold Fits; decide
  · decide
/-- The window leads to the memory of die 1, or of the host. -/
def kOff (x : W64) (s : State) : State := withCtx (fun c => { c with hwinOff := x }) s
def kFar : State := kOff 0x2000000000 kMem1
theorem far_kFar : InWindow kFar 0x1FFFC0 8 0x20001FFFC0 ∧ FarLine kFar 0 0x20001FFFC0 := by unfold InWindow InWindowOf FarLine; decide
theorem witness_GlobalLoad_far : Fits (.ld (mo 3 0)) kFar ∧ Issues kFar ∧ (curWave kFar).log = [] ∧ selected kFar 0 false = [kLane 0 [(8, 7), (9, 5), (10, 3), (11, 1)]] ∧
    effAddr (mo 3 0) (curWave kFar) (kLane 0 [(8, 7), (9, 5), (10, 3), (11, 1)]) = 0x1FFFC0 ∧ poisoned kFar 0x20001FFFC0 = false ∧ (getDie kFar 0).fills = [] ∧
    (rdcGet kFar 0 (0x20001FFFC0 / 64)).filled = false := by
  refine ⟨?_, ?_, ?_, ?_, ?_, ?_, ?_, ?_⟩ <;> first | decide | unfold Fits; decide | unfold Issues; decide
/-- A host line held, and one not held; that the host completes no access there with an error is the premise. -/
def kHost (filled : Bool) : State := { kOff 0x800000000000 kMem1 with
  dies := [(0, { (default : Die) with rdc := if filled then [(0x8000001FFFC0 / 64, { filled := true, bytes := List.replicate 64 7 })] else [] })]
  boot := { kMem1.boot with hostGiB := 1 } }
theorem witness_GlobalLoad_host (h : Config.hostError 0 (0x8000001FFFC0 / 64) = false) : ∀ b ∈ [false, true], InWindow (kHost b) 0x1FFFC0 8 0x8000001FFFC0 ∧
    (rdcGet (kHost b) 0 (0x8000001FFFC0 / 64)).filled = b ∧ (getDie (kHost b) 0).rdcFenced = false ∧ (getDie (kHost b) 0).held = [] ∧ (getDie (kHost b) 0).fills = [] ∧
    Fits (.ld (mo 3 0)) (kHost b) ∧ Issues (kHost b) ∧ asksHost (kHost b) (0x8000001FFFC0 / 64) = false := by
  have e (b : Bool) : exists_ (kHost b) 0x8000001FFFC0 = true := by
    have hi : inHost (kHost b) 0x8000001FFFC0 = true := by cases b <;> decide
    have ht : (kHost b).turn = 0 := by cases b <;> rfl
    unfold exists_; rw [hi, ht, h]; simp
  intro b hb
  refine ⟨?_, ?_, ?_, ?_, ?_, ?_, ?_, ?_⟩
  · unfold InWindow InWindowOf
    refine ⟨?_, ?_, ?_, ?_, ?_, e b⟩ <;> cases b <;> decide
  all_goals cases b <;> first | decide | unfold Fits; decide | unfold Issues; decide
theorem witness_GlobalStore_far : Fits (.st (mo 3 0)) kFar ∧ ReleaseFree (mo 3 0).ord 0 kFar ∧ (0x20001FFFC0 / 512 ∉ (getDie kFar 0).rtags) ∧ (rdcGet kFar 0 (0x20001FFFC0 / 64)).bytes = [] ∧
    (curWave kFar).cluster / 64 < 4 := by
  refine ⟨?_, ?_, ?_, ?_, ?_⟩ <;> first | decide | unfold Fits; decide | unfold ReleaseFree; decide
theorem witness_GlobalStore_host (h : Config.hostError 0 (0x8000001FFFC0 / 64) = false) : InWindow (kHost false) 0x1FFFC0 8 0x8000001FFFC0 ∧ 2 ^ 47 ≤ 0x8000001FFFC0 ∧
    asksHost (kHost false) (0x8000001FFFC0 / 64) = false ∧ Fits (.st (mo 3 0)) (kHost false) ∧ ReleaseFree (mo 3 0).ord 0 (kHost false) :=
  have w := witness_GlobalLoad_host h false (by decide)
  ⟨w.1, by decide, w.2.2.2.2.2.2.2, by unfold Fits; decide, by unfold ReleaseFree; decide⟩
/-- Two lanes of one ST to one place with the same data, in lane order. -/
theorem witness_GlobalStore : Fits (.st (mo 3 0)) kMem ∧ storesOf (.st (mo 3 0)) = some (mo 3 0) ∧ ReleaseFree (mo 3 0).ord 0 kMem ∧
    ((selected kMem 0 false).map (·.id)).Pairwise (· < ·) ∧
    (∀ l ∈ selected kMem 0 false, ∀ k ∈ selected kMem 0 false, dataByte (mo 3 0) (curWave kMem) k 0 = dataByte (mo 3 0) (curWave kMem) l 0) := by
  refine ⟨?_, rfl, ?_, ?_, ?_⟩ <;> first | decide | unfold Fits; decide | unfold ReleaseFree; decide
/-- One lane, whose walk has been waited for: its own translation reads the leaf and marks it. -/
theorem witness_PagedAccess : ∀ k ∈ [MKind.load false, .store], let q := laneReq k (mo 3 0) (curWave kPaged) (kLane 0 [(8, 7)])
    let a := xlat q kPaged
    let b := xlat { q with now := true } a.1
    a.2 = .ok (.loc 0x30008 0) ∧ b.2 = .ok (.loc 0x30008 0) ∧ HomeQuiet b.1 0 0x30008 := by
  unfold HomeQuiet; decide
theorem witness_PagedAccess_form : Fits (.st (mo 3 0)) kPaged ∧ Fits (.ld (mo 3 0)) kPaged ∧ Issues kPaged ∧ selected kPaged 0 false = [kLane 0 [(8, 7)]] ∧
    effAddr (mo 3 0) (curWave kPaged) (kLane 0 [(8, 7)]) = 0x30008 ∧ ReleaseFree (mo 3 0).ord 0 kPaged ∧ (curWave kPaged).log = [] := by
  refine ⟨?_, ?_, ?_, ?_, ?_, ?_, ?_⟩ <;> first | decide | unfold Fits; decide | unfold Issues; decide | unfold ReleaseFree; decide
/-- The page lies at package 5 of the domain. -/
def kPeer : State := { withMem 0x2000 8 0x400500000000000F kPaged with boot := { kPaged.boot with devIdx := 1, scopeTab := [{ dev := 5, dist := 1 }] } }
theorem witness_PagedAccess_peer : ∀ k ∈ [MKind.load false, .store, .atom 0], let q := laneReq k (mo 3 0) (curWave kPeer) (kLane 0 [(8, 7)])
    let a := xlat q kPeer
    let b := xlat { q with now := true } a.1
    a.2 = .ok (.fab 5 0x30008) ∧ b.2 = .ok (.fab 5 0x30008) ∧ b.1.asks = [] := by decide
theorem witness_PagedAccess_peer_form : Fits (.st (mo 3 0)) kPeer ∧ Fits (.ld (mo 3 0)) kPeer ∧ Fits (.atom (mo 3 0)) kPeer ∧ Issues kPeer ∧ selected kPeer 0 false = [kLane 0 [(8, 7)]] ∧
    ReleaseFree (mo 3 0).ord 0 kPeer ∧ (curWave kPeer).log = [] := by
  refine ⟨?_, ?_, ?_, ?_, ?_, ?_, ?_⟩ <;> first | decide | unfold Fits; decide | unfold Issues; decide | unfold ReleaseFree; decide
theorem inPlace_kMem1 : ∀ n ∈ [4, 8], InWindow kMem1 0x1FFFC0 n 0x1FFFC0 ∧ HomeQuiet kMem1 0 0x1FFFC0 := by
  unfold InWindow InWindowOf HomeQuiet; decide
theorem one_kMem1 : selected kMem1 0 false = [kLane 0 [(8, 7), (9, 5), (10, 3), (11, 1)]] ∧ (curWave kMem1).log = [] ∧
    effAddr (mo 3 0) (curWave kMem1) (kLane 0 [(8, 7), (9, 5), (10, 3), (11, 1)]) = 0x1FFFC0 ∧ ReleaseFree .plain 0 kMem1 := by
  refine ⟨?_, ?_, ?_, ?_⟩ <;> first | decide | unfold ReleaseFree; decide
theorem witness_AtomicResult : (∀ op < 13, (Instr.atom (mo 2 op)).wf false 64 = true) ∧ (∀ op < 10, (Instr.atom (mow 3 op)).wf false 64 = true) ∧
    Fits (.atom (mo 3 9)) kMem1 ∧ Issues kMem1 ∧ (selected kMem1 0 false).length = 1 ∧ InWindow kMem1 0x1FFFC0 8 0x1FFFC0 ∧ HomeQuiet kMem1 0 0x1FFFC0 := by
  refine ⟨?_, ?_, ?_, issues_kMem1, ?_, (inPlace_kMem1 8 (by decide)).1, (inPlace_kMem1 8 (by decide)).2⟩ <;> first | decide | unfold Fits; decide
/-- Two lanes on one place, in the two orders; and one lane at the home on die 1. -/
theorem witness_AtomicResult_lanes : Fits (.atom (mo 3 0)) kMem ∧ (accessesOf (.atom 0) (mo 3 0) kMem).length = 2 ∧ ReleaseFree (mo 3 0).ord 0 kMem ∧
    (∀ l ∈ accessesOf (.atom 0) (mo 3 0) kMem, effAddr (mo 3 0) (curWave kMem) l = 0x1FFFC0) ∧ InWindow kMem 0x1FFFC0 8 0x1FFFC0 ∧ HomeReady kMem 0 0x1FFFC0 ∧
    HomeReady kFar 0 0x20001FFFC0 := by
  refine ⟨?_, ?_, ?_, ?_, (inPlace_kMem 0 (by decide)).1, ?_, ?_⟩ <;> first | decide | unfold Fits; decide | unfold ReleaseFree; decide | unfold HomeReady; decide
/-- ATOMO for both lanes, STC for both lanes with a task control block at 0x1FFF00, and a DRAIN with one contribution held. -/
theorem witness_OrderedAddAndStc : Fits (.atomo (mo 2 0)) kMem ∧ Issues kMem ∧ (curWave kMem).log = [] ∧ ReleaseFree .plain 0 kMem ∧ (accessesOf .atomo (mo 2 0) kMem).length = 2 ∧
    InWindow kMem 0x1FFFC0 4 0x1FFFC0 ∧ (∀ d < 4, ((getDie kMem d).buf.filter (fun c => !c.spilled)).length + 2 ≤ 65536) ∧ (rdcGet kMem 0 (0x1FFFC0 / 64)).mask = 0 := by
  refine ⟨?_, issues_kMem, rfl, ?_, ?_, ?_, ?_, ?_⟩ <;> first | decide | unfold Fits; decide | unfold ReleaseFree; decide | unfold InWindow InWindowOf; decide
theorem witness_OrderedAddAndStc_drain : let s := { kMem1 with dies := [(0, { (default : Die) with buf := [{ ctx := 1, pa := 0x1FFFC0, key := 4, value := 7, pos := 0, spilled := false }] })] }
    releaseReady 1 s = true ∧ (∀ d < 4, HomeIdle s d) ∧ drainAsks 1 s = [] ∧ (∀ d < 4, ∀ c ∈ (getDie s d).buf, c.ctx = 1 → homeDie c.pa = d ∧ c.pa % 4 = 0 ∧ c.pa < 2 ^ 45) ∧
      ∃ t, exec (.drain (sy 0 0 0)) s = .next t := by
  refine ⟨?_, ?_, ?_, ?_, _, rfl⟩ <;> decide
theorem witness_OrderedAddAndStc_stc : Fits (.stc (mo 3 0)) kMem ∧ (accessesOf .stc (mo 3 0) kMem).length = 2 ∧ InWindow kMem (wGet (curWave kMem) 2) 8 0x1FFF00 := by
  refine ⟨?_, ?_, ?_⟩ <;> first | decide | unfold Fits; decide | unfold InWindow InWindowOf; decide
/-- A full buffer: 65,536 contributions, and no spill area. -/
theorem witness_OrderedAddAndStc_full : let c : Contribution := { ctx := 1, pa := 0x1FFFC0, key := 4, value := 7, pos := 0, spilled := false }
    let s := { kMem1 with dies := [(0, { (default : Die) with buf := List.replicate 65536 c })] }
    65536 ≤ ((getDie s 0).buf.filter (fun c => !c.spilled)).length ∧ spillRoom s 1 ≤ spilled s 1 ∧ active s = active kMem1 ∧ Handles kMem1 ∧
      isOnce .atomo (mo 2 0) false = false ∧ Fits (.atomo (mo 2 0)) kMem1 := by
  refine ⟨?_, ?_, rfl, ?_, ?_, ?_⟩
  · show 65536 ≤ ((List.replicate 65536 _).filter _).length
    exact Nat.le_of_eq (by rw [List.filter_replicate_of_pos rfl, List.length_replicate])
  · exact Nat.zero_le _
  · unfold Handles; decide
  · decide
  · unfold Fits; decide
def kShadow (stale : Bool) : Shadow := { ctx := 1, region := 0xFFF, fmt := 1, inv := false, count := 1, stale, pending := [], views := List.replicate 128 0x3F80 }
def withShadow (h : Shadow) (s : State) : State := { s with clusters := [(0, { (default : Cluster) with shadows := [h] })] }
theorem witness_ViewLoad : let s := withShadow (kShadow false) kMem1
    Fits (.ldv (mo 2 1)) s ∧ Issues s ∧ InWindow s 0x1FFFC0 4 0x1FFFC0 ∧ HomeQuiet s 0 0x1FFFC0 ∧ shadowOf s 0 1 0xFFF 1 = some (kShadow false) ∧
      (0x1FFFC0 % 512 / 4 ∉ (kShadow false).pending) := by
  refine ⟨?_, ?_, ?_, ?_, ?_⟩ <;> first | decide | unfold Fits; decide | unfold Issues; decide | unfold InWindow InWindowOf; decide | unfold HomeQuiet; decide
/-- Two lanes, into v registers and into a w register, from a current shadow and from a stale one. -/
theorem witness_ViewLoad_lanes : ∀ b ∈ [false, true], let s := withShadow (kShadow b) kMem
    Fits (.ldv (mo 2 1)) s ∧ Fits (.ldv (mow 2 1)) s ∧ Issues s ∧ (selected s 0 false).length = 2 ∧ (∀ l ∈ selected s 0 false, effAddr (mo 2 1) (curWave s) l = 0x1FFFC0) ∧
      InWindow s 0x1FFFC0 4 0x1FFFC0 ∧ HomeQuiet s 0 0x1FFFC0 := by
  unfold Fits Issues InWindow InWindowOf HomeQuiet; decide
def splitO : MA := { mo 3 2 with h := rg 8 1 20, nb := false }
theorem witness_SplitGather : Fits (.gather splitO) kMem ∧ splitO.opx.getLsbD 1 = true ∧ (curWave kMem).cart = false ∧ 2 ≤ (selected kMem 0 false).length ∧
    isOnce (.load (splitO.opx.getLsbD 0)) splitO false = false ∧ (∀ l ∈ selected kMem 0 false, effAddr splitO (curWave kMem) l = 0x1FFFC0) := by
  refine ⟨?_, ?_⟩ <;> first | decide | unfold Fits; decide
/-- A pair base, misaligned or beyond the canonical range; a local address that is misaligned, of rank 12, of a rank in no gang, or beyond the allocation. -/
def trapO : MA := { ma (rg 8 4 0) 3 0 0 with ka := false, p64 := true }
def trapL : MA := { ma (rg 8 4 0) 3 0 0 with ka := false }
theorem witness_AddressTraps : (∀ lo ∈ [(0x100004, 0), (0, 0x80000)], let s := kit1 [] [(4, BitVec.ofNat 32 lo.1), (5, BitVec.ofNat 32 lo.2)]
    (∀ i ∈ [Instr.ld trapO, .st trapO, .atom trapO, .gather trapO], Fits i s) ∧ Issues s ∧ Handles s ∧ active s = [kLane 0 [(4, BitVec.ofNat 32 lo.1), (5, BitVec.ofNat 32 lo.2)]] ∧
      selected s 0 false = active s ∧ ReleaseFree .plain 0 s) ∧
    (effAddr trapO (curWave (kit1 [] [])) (kLane 0 [(4, 0x100004)])).toNat % 8 ≠ 0 ∧
    canonical (effAddr trapO (curWave (kit1 [] [])) (kLane 0 [(5, 0x80000)])) = false := by
  unfold Fits Issues Handles ReleaseFree; decide
theorem witness_AddressTraps_local : ∀ a ∈ [0x1E00004, 0x1EFFFFC, 0x1F00000, 0x1800000, 0, 0x2000000], let s := kit1 [] [(4, BitVec.ofNat 32 a)]
    Fits (.ldlm trapL) s ∧ Fits (.stlm trapL) s ∧ Issues s ∧ Handles s ∧ active s = [kLane 0 [(4, BitVec.ofNat 32 a)]] ∧ selected s 0 false = active s ∧
      (a % 8 ≠ 0 ∨ a / 2 ^ 25 ≠ 0 ∨ kTeam.lm < a % 2 ^ 21 + 8 ∨ a / 2 ^ 21 % 16 ≠ 15) := by
  unfold Fits Issues Handles; decide
theorem witness_PrefetchAndFences : Fits (.prefetch { mo 0 0 with h := rg 0 1 0 }) kMem ∧ InWindow kMem 0x1FFFC0 1 0x1FFFC0 ∧ Fits (.fence (sy 0 0 0)) kMem ∧ (sy 0 0 0).ord ≠ .acq ∧
    (∀ d < 4, HomeIdle kMem d) ∧ Released 1 kMem ∧ acquireReady kMem = true ∧
    (let s := withWave (fun w => { w with log := [(0, { ins := .ld (mo 2 0), pc := 0x10000, lanes := [{ lane := 0, addr := 0x30000, data := [], wait := .page (some 3) }] })] }) kMem
     releaseReady 1 s = false ∧ acquireReady s = false) := by
  refine ⟨?_, ?_, ?_, ?_, ?_, ?_, ?_, ?_⟩ <;> first | decide | unfold Fits; decide | unfold InWindow InWindowOf; decide | unfold Released; decide
/-- The word: 3 arrived, 7 expected, phase 0; w2 is the highest count that still fits. -/
def kBar (b : W64) : State := withLm 0xFFFF8 8 0x0000000700000003 (kit2 [(1, 0x1EFFFF8), (2, b)] [])
theorem witness_CompletionBarriers : let s := kBar 0x3FFFFFF8
    Issues s ∧ BarrierAt (wGet (curWave s) 1) s 1 0xFFFF8 0x0000000700000003 ∧ (wGet (curWave s) 2).toNat < 2 ^ 30 ∧ Released 1 s := by
  refine ⟨?_, ⟨?_, ?_, ?_, ?_⟩, ?_, ?_⟩ <;> first | decide | unfold Issues; decide | unfold Released; decide
/-- A count of 2^30, and counts whose sum passes 2^30 - 1. -/
theorem witness_CompletionBarriers_err : ∀ b ∈ [0x40000000, 0x3FFFFFFF], let s := kBar b
    Issues s ∧ BarrierAt (wGet (curWave s) 1) s 1 0xFFFF8 0x0000000700000003 ∧ Handles s ∧ Released 1 s ∧ acqHolds (curWave s) (active s) = false ∧
      (∀ l ∈ (curWave s).lanes, alive l = true → tcCONV l.tcause = false) ∧
      (2 ^ 30 ≤ (wGet (curWave s) 2).toNat ∨ (2 ^ 30 ≤ expCount 0x0000000700000003 + (wGet (curWave s) 2).toNat ∧ 2 ^ 30 ≤ arrCount 0x0000000700000003 + (wGet (curWave s) 2).toNat)) := by
  intro b hb
  have h : b = 0x40000000 ∨ b = 0x3FFFFFFF := by simpa using hb
  rcases h with h | h <;> subst h <;> refine ⟨?_, ⟨?_, ?_, ?_, ?_⟩, ?_, ⟨?_, ?_⟩, ?_, ?_, ?_⟩ <;> first | decide | unfold Issues; decide | unfold Handles; decide
theorem witness_CompletionBarriers_counts : expCount 0x0000000700000003 + 0x3FFFFFF8 < 2 ^ 30 ∧ arrCount 0x0000000700000003 + 0x3FFFFFF8 < 2 ^ 30 := by decide
/-- The word at 0x1FFFC0 holds 0x44332211 in its low half; w8 holds it, or 0. -/
def kWait (far : Bool) (x b : W64) : State := withLm 0xFFFF8 4 0x44332211 (withMem 0x1FFFC0 4 0x44332211 (kit2 [(8, x), (1, if far then 0x1FFFC0 else 0x1EFFFF8), (2, b)] []))
theorem witness_WaitOnAddress_far : ∀ s ∈ [kWait true 0 0, kWait true 0x44332211 0], Issues s ∧ bit (wGet (curWave s) 2) 32 = false ∧ wGet (curWave s) 1 = 0x1FFFC0 ∧
      InWindow s 0x1FFFC0 4 0x1FFFC0 ∧ HomeQuiet s 0 0x1FFFC0 := by
  unfold Issues InWindow InWindowOf HomeQuiet; decide
theorem witness_WaitOnAddress_near : ∀ s ∈ [kWait false 0 0x100000000, kWait false 0x44332211 0x100000000], Issues s ∧ bit (wGet (curWave s) 2) 32 = true ∧
      localTarget s (teamOf s (curWave s)) ((wGet (curWave s) 1).toNat % 2 ^ 32) 4 = some (1, 0xFFFF8) := by
  unfold Issues; decide
/-- A sleeper on local memory of team 1: woken, or timed out at the very period; and one on a peer's word, which holds the expected 0. -/
def kSleep (place : Nat) (woken : Bool) (since : Nat) : State :=
  { withLanes (fun l => { l with st := .waiting (.waita { d := 8, size := 4, place, addr := 0xFFFF8, since, timeout := 5, woken }) }) (kWait false 0 0) with clock := 5 }
theorem witness_WaitaWake : ∀ p ∈ [(true, 3), (false, 0)], let s := kSleep 3 p.1 p.2
    let z : WaitA := { d := 8, size := 4, place := 3, addr := 0xFFFF8, since := p.2, timeout := 5, woken := p.1 }
    curWave s ∈ s.waves ∧ (s.waves.map (·.id)).Nodup ∧ s.site = (curWave s).id ∧ (curWave s).halted = false ∧ (curWave s).lanes ≠ [] ∧
      (∀ l ∈ (curWave s).lanes, l.st = .waiting (.waita z) ∧ l.slot = 0) ∧ z.place = 1 + 2 ∧ (z.woken = true ∨ (z.timeout ≠ 0 ∧ z.since + z.timeout ≤ s.clock)) := by decide
theorem witness_WaitaPeerPoll : let s := kSleep 1 false 0
    curWave s ∈ s.waves ∧ s.site = (curWave s).id ∧ (∀ l ∈ (curWave s).lanes, l.st = .waiting (.waita { d := 8, size := 4, place := 1, addr := 0xFFFF8, since := 0, timeout := 5, woken := false })) ∧
      leNat ((span 0 4).map (fun j => cellGet s.peer (0xFFFF8 + j))) = (wGet (curWave s) 8).toNat % 256 ^ 4 := by decide
/-- Two waves of one team, and two teams of a gang. -/
def kBars (arrived : List Nat) : State := let s := kit2 [] []
  { s with waves := s.waves ++ [{ kWave [] [kLane 0 []] with id := 5, slot := 1, member := some 1 }], teams := [{ kTeam with size := 2, bar := arrived, gbar := arrived }] }
def kGang (arrived : List Nat) : State := let s := kit2 [] []
  { s with waves := s.waves ++ [{ kWave [] [kLane 0 []] with id := 5, cluster := 1, team := 2, member := some 0 }]
           teams := [{ kTeam with gang := some 9, gw := 2 }, { kTeam with id := 2, cluster := 1, gang := some 9, rank := 1, gw := 2, gbar := arrived }] }
theorem witness_TeamBarriers : ∀ s ∈ [kBars [], kBars [1]], Gathered (mGet (curWave s) 0) s ∧ Released 1 s ∧ getTeam s (curWave s).team = s.teams.head? ∧ (s.teams.map (·.id)).Nodup ∧
    (curWave s).member = some 0 ∧ (∀ t ∈ s.teams, 0 ∉ t.bar ∧ taking s t.id = [0, 1]) := by
  unfold Gathered Issues Released; decide
theorem witness_TeamBarriers_gang : ∀ s ∈ [kGang [], kGang [0]], Gathered (mGet (curWave s) 0) s ∧ Released 1 s ∧ (s.teams.map (·.id)).Nodup ∧
    (curWave s).member = some 0 ∧ (∀ t ∈ s.teams, t.gang = some 9 ∧ taking s t.id = [0]) := by
  unfold Gathered Issues Released; decide
theorem witness_TeamBarriers_attached : let s := withWave (fun w => { w with member := none }) (kit2 [] [])
    Gathered (mGet (curWave s) 0) s ∧ Released 1 s ∧ (curWave s).member = none := by
  unfold Gathered Issues Released; decide
def kSub (c : Option Nat) (fmt : BitVec 3) (full : Bool) : State :=
  let s := kit2 [(1, 0x1FFFC0)] []
  { s with clusters := [(0, { (default : Cluster) with shadows := (match c with | some n => [{ kShadow false with count := n, fmt }] | none => []) ++
      (if full then (span 0 1024).map (fun r => { kShadow false with region := 0x10000 + r, fmt := 0, views := [] }) else []) })] }
theorem witness_Subscriptions : (∀ c ∈ [none, some 1, some 2, some 65534, some 65535], let s := kSub c 3 false
    SubIssue (rg 8 1 0) s 0x1FFFC0 ∧ (shadowAt s 0 1 0xFFF).map (·.count) = c ∧ releaseReady 1 s = true ∧ 4 ≤ freeBlocks s 0) := by
  unfold SubIssue Issues InWindow InWindowOf HomeQuiet; decide

/-! ### Witnesses: subscriptions, engines, caches, tensor array -/

theorem witness_Subscriptions_full : let s := kSub none 3 true
    shadowAt s 0 1 0xFFF = none ∧ freeBlocks s 0 = 0 ∧ ∀ f < 5, freeBlocks s 0 < blocksOf (BitVec.ofNat 3 f) := by
  refine ⟨?_, ?_, ?_⟩ <;> decide +kernel
/-- The region's entry with a class of format 1 that no cluster is in; its shadow under format 3. -/
def kDir (held : Bool) : State := let s := kSub (if held then some 2 else none) 3 false
  { s with dies := [(0, { (default : Die) with subs := [(0xFFF, { classes := [{ fmt := 1, mem := 0, inv := 0 }] })] })] }
theorem witness_SubscriptionMessages : ∀ b ∈ [false, true], (getSub (kDir b) 0xFFF).isSome = true ∧ (∀ e ∈ getSub (kDir b) 0xFFF, e.classes.any (fun x => x.fmt == 1) = true) ∧
    blocksOf 1 ≤ freeBlocks (kDir b) 0 ∧ (∀ w ∈ (kDir b).waves, ∀ l ∈ w.lanes, tcCONV l.tcause = false) ∧ (shadowAt (kDir b) 0 1 0xFFF).map (·.fmt) = (if b then some 3 else none) := by decide
theorem witness_SubscriptionMessages_data : let s := kSub (some 2) 3 false
    (shadowAt s 0 1 0xFFF).map (fun h => (h.fmt, h.inv)) = some (3, false) := by decide

/-- w3, w2: destination and source; w4: 64 bytes; w6: the barrier at offset 0xFFFF8. -/
def kCpy : State := withLm 0xFFFF8 8 0x0000010000000000 (kit2 [(3, 0x1E00000), (2, 0x100000), (4, 64), (5, 0x00000001), (6, 0x1EFFFF8)] [])
def cpyP : CpyP := { cb := 6, rel := true, scope := 1, dl := true, sl := false }
theorem witness_EngineAcceptance_cpy : EngReady (rg 3 2 4) (wGet (curWave kCpy) 6) true 1 kCpy ∧ (getCluster kCpy 0).copyQ.length < 32 ∧
    (localTarget kCpy (teamOf kCpy (curWave kCpy)) 0x1E00000 64).isSome = true := by
  refine ⟨⟨?_, ?_, ?_, ⟨1, 0xFFFF8, 0x0000010000000000, ?_, ?_, ?_, ?_⟩, fun _ => ?_⟩, ?_, ?_⟩ <;> first | decide | unfold Issues; decide | unfold Released; decide
/-- One group of 32 weights of 8 bits: 32 bytes. -/
theorem witness_EngineAcceptance_cpyq : let b := wGet (curWave kCpy) 5
    (b.extractLsb' 0 11).toNat = 1 ∧ (b.extractLsb' 16 10).toNat + (b.extractLsb' 0 11).toNat ≤ 1024 ∧
    (localTarget kCpy (teamOf kCpy (curWave kCpy)) 0x1E00000 (1 * (32 * 2 ^ 0) * 8 / 8)).isSome = true := by decide
/-- A publish descriptor at 0x1FFF00: source 0x100000, last views 0x110000, table 0x120000, 1 region, 1 subscriber; the table's record. -/
def pubD : BitVec 512 := BitVec.ofNat 512 (2 ^ 277 * 4 + 2 ^ 280 * 1 + 2 ^ 288 * 1 + 2 ^ 320 * 0x120000 + 2 ^ 384 * 0x110000 + 2 ^ 448 * 0x100000)
def pubE : BitVec 256 := BitVec.ofNat 256 (1 + 2 ^ 128 * 0x140000 + 2 ^ 192 * 0x130000)
def kPub : State := withLm 0xFFFF8 8 0x0000010000000000 (withMem 0x1FFF00 64 pubD.toNat (withMem 0x120000 32 pubE.toNat (kit2 [(2, 0x1FFF00), (6, 0x1EFFFF8)] [])))
theorem witness_EngineAcceptance_pub : EngReady (rg 0 2 0) (wGet (curWave kPub) 6) false 0 kPub ∧ Holds kPub 0x1FFF00 64 0x1FFF00 pubD.toNat ∧ Holds kPub 0x120000 32 0x120000 pubE.toNat ∧
    pubD.extractLsb' 0 276 = 0 ∧ (pubD.extractLsb' 448 64).toNat % 512 = 0 ∧ (pubD.extractLsb' 384 64).toNat % 64 = 0 ∧ (pubD.extractLsb' 320 64) = 0x120000 ∧
    (pubD.extractLsb' 288 32).toNat = 1 ∧ (pubD.extractLsb' 280 8).toNat = 1 ∧ 2 ≤ (pubD.extractLsb' 277 3).toNat ∧ pubE.extractLsb' 254 2 = 0 ∧ pubE.extractLsb' 190 2 = 0 ∧
    pubE.extractLsb' 3 125 = 0 ∧ (pubE.extractLsb' 0 3).toNat ≤ 4 ∧ (pubE.extractLsb' 192 62).toNat % 64 = 0 ∧ (pubE.extractLsb' 128 62).toNat % 8 = 0 := by
  refine ⟨⟨?_, ?_, ?_, ⟨1, 0xFFFF8, 0x0000010000000000, ?_, ?_, ?_, ?_⟩, fun h => nomatch h⟩, ⟨?_, ?_⟩, ⟨?_, ?_⟩, ?_, ?_⟩ <;>
    first | decide | unfold Issues; decide | unfold InWindow InWindowOf; decide | unfold HomeQuiet; decide +kernel
/-- A collective descriptor: the table of 1 source and 1 destination at 0x120000, 4 elements of type 2, operation 0. -/
def collD : BitVec 512 := BitVec.ofNat 512 (2 ^ 396 * 2 + 2 ^ 400 * 1 + 2 ^ 408 * 1 + 2 ^ 416 * 4 + 2 ^ 448 * 0x120000)
def kColl : State := withLm 0xFFFF8 8 0x0000010000000000 (withMem 0x1FFF00 64 collD.toNat (withMem 0x120000 16 (0x150000 + 2 ^ 64 * 0x160000) (kit2 [(2, 0x1FFF00), (6, 0x1EFFFF8)] [])))
theorem witness_EngineAcceptance_coll : EngReady (rg 0 2 0) (wGet (curWave kColl) 6) false 0 kColl ∧ Holds kColl 0x1FFF00 64 0x1FFF00 collD.toNat ∧
    Holds kColl 0x120000 8 0x120000 0x150000 ∧ Holds kColl 0x120008 8 0x120008 0x160000 ∧ collD.extractLsb' 0 396 = 0 ∧ collD.extractLsb' 416 32 ≠ 0 ∧
    (collD.extractLsb' 408 8).toNat = 1 ∧ (collD.extractLsb' 400 8).toNat = 1 ∧ collD.extractLsb' 398 2 ≠ 3 ∧ (collD.extractLsb' 396 2).toNat = 2 ∧
    (collD.extractLsb' 448 64) = 0x120000 := by
  refine ⟨⟨?_, ?_, ?_, ⟨1, 0xFFFF8, 0x0000010000000000, ?_, ?_, ?_, ?_⟩, fun h => nomatch h⟩, ⟨?_, ?_⟩, ⟨?_, ?_⟩, ⟨?_, ?_⟩, ?_⟩ <;>
    first | decide | unfold Issues; decide | unfold InWindow InWindowOf; decide | unfold HomeQuiet; decide +kernel
/-- Commands in their engines: a copy of 4 bytes from package to local memory, a collective of one element of type BF16, a publish of one region, and a CPYQ of one group. -/
def cmd (i : Instr) (ops : List W64) : EngCmd := { ins := i, ctx := 1, cluster := 0, team := 1, wave := 0, lanes := [0, 1], h := false, ops }
def cpyC : EngCmd := cmd (.cpy (rg 3 2 4) cpyP) [0x1E00000, 0x100000, 4, 0x1EFFFF8]
def cpyqC : EngCmd := cmd (.cpyq (rg 3 2 5) { gs := 0, w4 := false, cb := 6, rel := false, scope := 0, s := 7, seq := 9 }) [0x1E00000, 0x100000, 1, 0x1EFFFF8, 0x1A0000]
def collC : EngCmd := cmd (.coll (rg 0 2 0) { cb := 6, rel := false, scope := 0 }) [0x1FFF00, 0x1EFFFF8, 1, 2, 0, 1, 0x150000, 0x151000, 0x160000, 0x161000]
def pubC : EngCmd := cmd (.pub (rg 0 2 0) { cb := 6, rel := false, scope := 0 }) [0x1FFF00, 0x1EFFFF8, 0x100000, 0x110000, 1, 4, 0, 0x130000, 0x140000, 4, 0x138000, 0x140008, 0]
def kEng : State := { withMem 0x100000 4 0x44332211 (withMem 0x150000 4 0x55667788 kCpy) with
  clusters := [(0, { (default : Cluster) with copyQ := [cpyC], collQ := [collC], pubQ := [pubC] })] }
theorem witness_EnginesComplete_copy : (getCluster kEng 0).copyQ = cpyC :: [] ∧ cpyC.cluster = kEng.site ∧
    EndAt kEng cpyC false 0x100000 4 (fun k => .pkg (0x100000 + k)) ∧ EndAt kEng cpyC true 0x1E00000 4 (fun k => .lm 1 k) ∧
    ArrivesAt kEng cpyC 0x1EFFFF8 4 1 0xFFFF8 0x0000010000000000 := by
  refine ⟨rfl, rfl, ?_, ⟨kEng.teams.headD default, 1, 0, ?_, ?_, ?_, ?_, ?_⟩, ⟨kEng.teams.headD default, ?_, ?_, ?_, ⟨?_, ?_⟩, ?_, ?_⟩⟩ <;>
    first | decide | (intro k hk; exact ⟨_, rfl, by revert k; unfold EngByte InWindowOf HomeQuiet; decide⟩)
def kEngQ : State := { kEng with clusters := [(0, { (default : Cluster) with copyQ := [cpyqC], tensor := { (default : Tensor) with team := some 1 } })] }
theorem witness_EnginesComplete_cpyq : (getCluster kEngQ 0).copyQ = cpyqC :: [] ∧ (getTensor kEngQ 0).team = some cpyqC.team ∧
    EndAt kEngQ cpyqC true 0x1E00000 32 (fun k => .lm 1 k) ∧ EndAt kEngQ cpyqC false 0x100000 32 (fun k => .pkg (0x100000 + k)) ∧
    (∀ k < 4 * 1, EngByte kEngQ cpyqC (0x1A0000 + BitVec.ofNat 64 k) (0x1A0000 + k)) ∧ ArrivesAt kEngQ cpyqC 0x1EFFFF8 (32 + 4 * 1) 1 0xFFFF8 0x0000010000000000 := by
  refine ⟨rfl, rfl, ⟨kEngQ.teams.headD default, 1, 0, ?_, ?_, ?_, ?_, ?_⟩, ?_, ?_, ⟨kEngQ.teams.headD default, ?_, ?_, ?_, ⟨?_, ?_⟩, ?_, ?_⟩⟩ <;>
    first | decide | (unfold EngByte InWindowOf HomeQuiet; decide) | (intro k hk; exact ⟨_, rfl, by revert k; unfold EngByte InWindowOf HomeQuiet; decide⟩)
/-- Two sources and two destinations of one BF16 element. -/
theorem witness_EnginesComplete_coll : (getCluster kEng 0).collQ = collC :: [] ∧ (∀ a ∈ [0x150000, 0x151000, 0x160000, 0x161000], OwnFabric kEng collC a (2 * 1) a) ∧
    collC.ops = [0x1FFF00, 0x1EFFFF8, BitVec.ofNat 64 1, BitVec.ofNat 64 2, BitVec.ofNat 64 0, BitVec.ofNat 64 1] ++ ([0x150000, 0x151000] ++ [0x160000, 0x161000]).map (BitVec.ofNat 64) ∧
    arrCount 0x0000010000000000 + 2 * 1 * 2 < 2 ^ 30 := by
  refine ⟨rfl, ?_, rfl, ?_⟩ <;> first | decide | unfold OwnFabric HomeQuiet; decide
/-- Two subscribers, of E5M2 and of FP32 views: the image of FP32 lies first in the last-published area. -/
def partOf (a : Nat) : Nat := if a / 0x10000 = 0x10 then 0 else if a / 0x10000 = 0x11 then 1 else if a / 0x8000 = 0x26 then 3 else if a / 0x8000 = 0x27 then 5
  else if a / 8 = 0x28000 then 4 else if a / 8 = 0x28001 then 6 else 2
def usersC : List (Nat × Nat × Nat) := [(0x130000, 0x140000, 4), (0x138000, 0x140008, 0)]
theorem witness_EnginesComplete_pub : (getCluster kEng 0).pubQ = pubC :: [] ∧
    pubC.ops = [0x1FFF00, 0x1EFFFF8, 0x100000, 0x110000, BitVec.ofNat 64 1, 4, 0] ++ usersC.flatMap (fun u => [BitVec.ofNat 64 u.1, BitVec.ofNat 64 u.2.1, BitVec.ofNat 64 u.2.2]) ∧
    (∀ k < 512, EngByte kEng pubC (0x100000 + BitVec.ofNat 64 k) (0x100000 + k) ∧ partOf (0x100000 + k) = 0) ∧ pubOffset usersC 128 0 = 0 ∧ pubOffset usersC 128 4 = 512 ∧
    (∀ k < 640, EngByte kEng pubC (0x110000 + BitVec.ofNat 64 k) (0x110000 + k) ∧ partOf (0x110000 + k) = 1) ∧
    EngByte kEng pubC (0x1FFF00 + 34) 0x1FFF22 ∧ partOf 0x1FFF22 = 2 := by
  refine ⟨rfl, rfl, ?_, ?_, ?_, ?_, ?_, ?_⟩ <;> first | decide +kernel | unfold EngByte InWindowOf HomeQuiet; decide +kernel
theorem witness_EnginesComplete_users : OwnFabric kEng pubC 0x130000 128 0x130000 ∧ (∀ k < 128, partOf (0x130000 + k) = 3) ∧ OwnFabric kEng pubC 0x140000 8 0x140000 ∧
    (∀ k < 8, partOf (0x140000 + k) = 4) ∧ OwnFabric kEng pubC 0x138000 512 0x138000 ∧ (∀ k < 512, partOf (0x138000 + k) = 5) ∧ OwnFabric kEng pubC 0x140008 8 0x140008 ∧
    (∀ k < 8, partOf (0x140008 + k) = 6) ∧ (∀ y ∈ kEng.clusters, y.1 / 64 = kEng.site / 64 → ∀ e ∈ y.2.pubQ, nth 0 e.ops 0 = 0x1FFF00 → e.ctx = pubC.ctx → pubC.seq ≤ e.seq) := by
  refine ⟨?_, ?_, ?_, ?_, ?_, ?_, ?_, ?_, ?_⟩ <;> first | decide +kernel | unfold OwnFabric HomeQuiet; decide +kernel
/-- A range of 64 bytes at the end of a 64 KiB page of the heap window; the instruction forms complete there. -/
def kCache : State := kit2 [(2, 0x10FFC0), (3, 64)] []
theorem witness_CacheMaintenance : Issues kCache ∧ selected kCache 0 false ≠ [] ∧ InWindow kCache 0x10FFC0 1 0x10FFC0 ∧ (wGet (curWave kCache) 3).toNat = 64 ∧
    (0x10FFC0 : W64).toNat % 65536 + 64 = 65536 ∧ exists_ kCache 0x10FFC0 = true ∧ (∀ d < 4, (getDie kCache d).held = []) ∧
    (span 0 4).flatMap (fun d => flushAsks (rangePieces (issuer kCache) 2 0x10FFC0 64 kCache) d kCache) = [] := by
  refine ⟨?_, ?_, ?_, ?_, ?_, ?_, ?_, ?_⟩ <;> first | decide | unfold Issues; decide | unfold InWindow InWindowOf; decide
/-- No lane selected; and a covered line that the host holds. -/
theorem witness_CacheMaintenance_other : selected (withWave (fun w => { w with m := setNth 0 w.m 5 }) kCache) 5 false = [] ∧
    (let s := { kCache with dies := [(0, { (default : Die) with dir := [(0x10FFC0 / 512, { (default : DirEntry) with host := true })], rdc := [(0x10FFC0 / 64, { (default : RdcLine) with mask := 1 })] })] }
     (span 0 4).flatMap (fun d => flushAsks (rangePieces (issuer s) 2 0x10FFC0 64 s) d s) ≠ []) := by
  refine ⟨?_, ?_⟩ <;> decide

/-! ### Witnesses: the tensor array -/

/-- The wave holds the array for 4 more commands; acc1 has elements (0, 0), (1, 1) and (127, 127). -/
def kArr : ArrayState := { acc := [(16384, 0x3F800000), (16384 + 129, 0x40000000), (16384 + 16383, 7)], bl0 := { ty := 0, nw := 1, cols := [List.replicate 32 0x38383838] } }
def kHold (ws : List (Nat × W64)) (vs : List (Nat × W32)) : State := let s := withWave (fun w => { w with lease := .holding }) (kit2 ws vs)
  { s with clusters := [(0, { (default : Cluster) with tensor := { team := some 1, arr := kArr, holder := some 0, left := 4 } })] }
theorem holding_kHold : Holding 0 false (kHold [] []) := by unfold Holding Issues; decide
theorem witness_TensorLease_ask : ∀ x ∈ [Lease.none, .lapsed], let s := withWave (fun w => { w with lease := x }) (kit2 [] [])
    Issues s ∧ selected s 0 false ≠ [] ∧ ((curWave s).lease = .none ∨ (curWave s).lease = .lapsed) ∧ (getTensor s 0).holder = none := by
  unfold Issues; decide
def kAsk : State := let s := withLanes (fun l => { l with st := .waiting .lease }) (withWave (fun w => { w with lease := .requesting, leaseN := 16 }) (kit2 [] []))
  { s with clusters := [(0, { (default : Cluster) with tensor := { reqs := [{ wave := 0, team := 1, pos := 0, kind := .lease }] } })] }
theorem witness_TensorLease_grant : let s := kAsk
    let w := curWave s
    w ∈ s.waves ∧ (s.waves.map (·.id)).Nodup ∧ w.cluster = s.site ∧ w.lease = .requesting ∧ getTeam s w.team = some kTeam ∧ kTeam.retired = false ∧ kTeam.again = none ∧
      kTeam.againRing = none ∧ w.leaseN ≠ 0 ∧ w.lanes.any alive = true ∧ (getTensor s 0).holder = none ∧ seqBusy (getTensor s 0) = false ∧ (getTensor s 0).reqs.map (fun r => (r.wave, r.team, r.kind)) = [(w.id, w.team, .lease)] ∧ (arrOf s 0 w.team).tcon = none ∧ (arrOf s 0 w.team).kept = none ∧
      (getTensor s 0).team = none ∧ bit (getDie s 0).regs.chrbase 0 = false := by decide
theorem witness_TensorLease_held : let s := kHold [] []
    Issues s ∧ (curWave s).lease = .holding ∧ (getTensor s 0).holder = some (curWave s).id ∧ (getTensor s 0).running = 0 ∧ s.clock < (getTensor s 0).since + 8192 ∧
      (getTensor s 0).arr.kept = none ∧ (curWave s).lanes.any alive = true ∧ (getTensor s 0).ending = false ∧ 0 < (getTensor s 0).left := by
  unfold Issues; decide
/-- The lease at 8192 cycles, with and without a command in progress; a lease whose last command completes, and one whose last but one does. -/
theorem witness_TensorLease_expiry : ∀ r ∈ [0, 1], let s := { kHold [] [] with clock := 8192, clusters := [(0, { (default : Cluster) with tensor := { team := some 1, arr := kArr, holder := some 0, left := 0, running := r } })] }
    (getTensor s s.site).holder = some 0 ∧ (getTensor s s.site).since + 8192 ≤ s.clock ∧ (getTensor s s.site).arr.tcon = none ∧ (getTensor s s.site).running ≤ 1 ∧
      (getTensor s s.site).left = 0 := by decide
def kShape : W64 := BitVec.ofNat 64 (128 + 2 ^ 8 * 1 + 2 ^ 60 * 1)
theorem witness_TensorRegisters : let s := kHold [(5, kShape)] []
    Holding 0 false s ∧ (∀ l ∈ (curWave s).lanes, l.id < 128) ∧ shLG (wGet (curWave s) 5) = 1 ∧ 62 % 2 ^ 1 = 0 ∧ 62 + 2 ^ 1 ≤ (curWave s).regs := by
  unfold Holding Issues; decide
/-- One column of 16 words of 8 bits, in the last bytes of the allocation. -/
theorem witness_TensorRegisters_tldb : let s := kHold [(2, 0x1EFFF80), (5, kShape)] []
    Holding 0 false s ∧ shNW (wGet (curWave s) 5) = 1 ∧ LocalAt s (wGet (curWave s) 2) ((1 - 1) * 0 + 16 * 8) 1 0xFFF80 ∧ Performed s ∧ shSTRIDE (wGet (curWave s) 5) = 0 := by
  refine ⟨?_, ?_, ⟨kTeam, ?_⟩, ?_, ?_⟩ <;> first | decide | unfold Holding Issues; decide
theorem witness_TensorRegisters_tring : let s := kHold [] []
    Holding 0 false s ∧ getTeam s (curWave s).team = some kTeam ∧ kTeam.gang = none := ⟨holding_kHold, rfl, rfl⟩
/-- One row, one column of 32 values of format 0, at local offset 0x1000. -/
def kMul (nw : Nat) (sk : Nat) : State := let s := withLm 0x2000 8 0xFFFF (withLm 0x1000 4 0x38383838 (kHold [(2, 0x1E01000), (5, BitVec.ofNat 64 (1 + 2 ^ 8)), (7, BitVec.ofNat 64 (0x1E02000 + sk))] []))
  { s with clusters := s.clusters.map (fun p => (p.1, { p.2 with tensor := { p.2.tensor with arr := { kArr with bl0 := { ty := 0, nw, cols := [List.replicate 32 0x38383838] } } } })) }
theorem witness_TensorMultiply_tmma : MulFits (rg 1 2 5) 0 0 32 false (kMul 1 0) 1 0x1000 := by
  refine ⟨?_, ?_, ?_, ?_, ?_, ?_, ?_, ?_, ?_, ?_, ?_, ⟨(kMul 1 0).teams.headD default, ?_⟩⟩ <;> first | decide | unfold Holding Issues; decide
/-- Weights of 8 bits in groups of 32, with entry 0 valid under tag 9. -/
def kMulQ : State := let s := kMul 1 0
  { s with clusters := s.clusters.map (fun p => (p.1, { p.2 with tensor := { p.2.tensor with arr := { kArr with
    bl0 := { ty := 4, nw := 1, cols := [List.replicate 32 0x01020304] }, scale := [(0, 0x09003F80)] } } })) }
theorem witness_TensorMultiply_tmmq : MulFits (rg 1 2 5) 0 0 32 true kMulQ 1 0x1000 ∧ 32 * shKCH (wGet (curWave kMulQ) 5) % 32 = 0 ∧
    (arrayOf kMulQ).scale.find? (fun q => q.1 == 0) = some (0, 0x09003F80) ∧ (0x09003F80 : W32).extractLsb' 24 8 = 9 := by
  refine ⟨⟨?_, ?_, ?_, ?_, ?_, ?_, ?_, ?_, ?_, ?_, ?_, ⟨kMulQ.teams.headD default, ?_⟩⟩, ?_, ?_, ?_⟩ <;> first | decide | unfold Holding Issues; decide
/-- The bitmap at 0x2000, and a barrier there whose phase has turned; nibbles 1 0 of every pair at 0x2010. -/
theorem witness_TensorMultiply_tmsp : let s := withLm 0x2010 8 0x4444444444444444 (withLm 0x3000 8 0x8000000100000000 (withWave (fun w => { w with w := setNth 0x1E03000 w.w 8 }) (kMul 1 0)))
    (wGet (curWave s) 7).toNat % 8 = 0 ∧ BarrierAt (wGet (curWave s) 8) s 1 0x3000 0x8000000100000000 ∧ (0x8000000100000000 : W64).msb ≠ false ∧
      MulFits (rg 1 2 5) 0 0 32 false s 1 0x1000 ∧ LocalAt s (wGet (curWave s) 7) 8 1 0x2000 := by
  refine ⟨?_, ⟨?_, ?_, ?_, ?_⟩, ?_, ⟨?_, ?_, ?_, ?_, ?_, ?_, ?_, ?_, ?_, ?_, ?_, ⟨_, rfl, ?_⟩⟩, ⟨_, rfl, ?_⟩⟩ <;> first | decide | unfold Holding Issues; decide
theorem witness_TensorMultiply_sparse : let s := withLm 0x2010 8 0x4444444444444444 (kMul 1 0x10)
    MulFits (rg 1 2 5) 0 0 64 false s 1 0x1000 ∧ LocalAt s (wGet (curWave s) 7) (32 * (1 - 1) + 8 * 1) 1 0x2010 ∧
      ∀ k < 16, localNum s 1 (0x2010 + 32 * 0 + k / 2) 1 / 2 ^ (4 * (k % 2)) % 16 = 4 := by
  refine ⟨⟨?_, ?_, ?_, ?_, ?_, ?_, ?_, ?_, ?_, ?_, ?_, ⟨_, rfl, ?_⟩⟩, ⟨_, rfl, ?_⟩, ?_⟩ <;> first | decide | unfold Holding Issues; decide
/-- An epilogue of one element into local memory at 0x4000, with the barrier at 0xFFFF8 and a bias at 0x100000. -/
def kEpi : State := withMem 0x100000 4 0x3F800000 (withLm 0xFFFF8 8 0x0000010000000000 (kHold [(3, 0x1E04000), (5, BitVec.ofNat 64 (1 + 2 ^ 8)), (6, 0x1EFFFF8), (9, 0x100000)] []))
theorem witness_TensorMultiply_tepi : Holding 0 false kEpi ∧ LocalAt kEpi (wGet (curWave kEpi) 3) ((1 - 1) * 0 + 1 * 4) 1 0x4000 ∧ getTeam kEpi 1 ≠ none ∧
    BarrierAt (wGet (curWave kEpi) 6) kEpi 1 0xFFFF8 0x0000010000000000 ∧ Performed kEpi ∧ (getTeam kEpi (curWave kEpi).team).any (fun t => !t.retired) = true ∧ (getDie kEpi 0).rdc = [] ∧
    Holds kEpi (wGet (curWave kEpi) 9) 4 0x100000 0x3F800000 := by
  refine ⟨?_, ⟨_, rfl, ?_⟩, ?_, ⟨?_, ?_, ?_, ?_⟩, ?_, ?_, ?_, ⟨?_, ?_⟩⟩ <;> first | decide | unfold Holding Issues; decide | unfold InWindow InWindowOf; decide | unfold HomeQuiet; decide
/-- The same into the heap window at 0x1A0000. -/
def kEpiV : State := withWave (fun w => { w with w := setNth 0x1A0000 w.w 3 }) kEpi
theorem witness_TensorMultiply_tepi_virtual : Holding 0 false kEpiV ∧ (∀ k < 4, InWindow kEpiV (wGet (curWave kEpiV) 3 + BitVec.ofNat 64 k) 1 (0x1A0000 + k) ∧ HomeQuiet kEpiV 0 (0x1A0000 + k)) ∧
    BarrierAt (wGet (curWave kEpiV) 6) kEpiV 1 0xFFFF8 0x0000010000000000 ∧ Performed kEpiV ∧ (getTeam kEpiV (curWave kEpiV).team).any (fun t => !t.retired) = true ∧ (getDie kEpiV 0).rdc = [] ∧
    Holds kEpiV (wGet (curWave kEpiV) 9) 4 0x100000 0x3F800000 := by
  refine ⟨?_, ?_, ⟨?_, ?_, ?_, ?_⟩, ?_, ?_, ?_, ⟨?_, ?_⟩⟩ <;>
    first | decide | unfold Holding Issues; decide | unfold InWindow InWindowOf; decide | unfold HomeQuiet; decide | unfold InWindow InWindowOf HomeQuiet; decide
/-- A contraction of one 32-wide chunk: 1 row, 16 columns, formats 0; A at 0x1000, B at 0x2000, the result at 0x8000, the barrier at 0xFFFF8. -/
def tconB : Nat := 2 ^ 960 * 0x1E08000 + 2 ^ 800 * 0x1EFFFF8 + 2 ^ 704 * 1 + 2 ^ 672 * 32 + 2 ^ 640 * 16 + 2 ^ 608 * 1 + 2 ^ 544 * 64 + 2 ^ 352 * 128 + 2 ^ 320 * 0x1E02000 + 2 ^ 224 * 0x1E01000 +
  2 ^ 22 + 2 ^ 17 * 15
def kTcon : State := withMem 0x100000 256 tconB (withLm 0xFFFF8 8 0x0000010000000000 (kHold [(2, 0x100000)] []))
theorem witness_Contraction : Holding 0 false kTcon ∧ (0x100000 : W64).toNat % 256 = 0 ∧ tconB < 256 ^ 256 ∧ tconLegal tconB (tconF tconB) 1 = true ∧ (tconF tconB).kind ≠ 2 ∧
    (tconF tconB).cbar % 8 = 0 ∧ (tconF tconB).mcbv = false ∧ (tconGang (tconF tconB) kTeam).1 = 1 ∧ InWindow kTcon 0x100000 1 0x100000 ∧
    (∀ k < 256, byteAt kTcon (0x100000 + k) = BitVec.ofNat 8 (tconB / 256 ^ k)) ∧ (∀ k < 256, HomeQuiet kTcon 0 (0x100000 + k)) ∧
    tconOff (tconF tconB) = none ∧ Performed kTcon ∧ ∀ e ∈ ((tconF tconB).cbar, 8) :: tconExtents (tconF tconB) 1, e.1 / 2 ^ 21 % 16 = 15 ∧ (localTarget kTcon kTeam e.1 e.2).isSome = true := by
  refine ⟨?_, ?_, ?_, ?_, ?_, ?_, ?_, ?_, ?_, ?_, ?_, ?_, ?_, ?_⟩ <;>
    first | decide +kernel | unfold Holding Issues; decide +kernel | unfold InWindow InWindowOf; decide +kernel | unfold HomeQuiet; decide +kernel
def tconRun (next : Nat) (susp : Bool) : TconRun := { cmd := cmd (.tcon (rg 0 2 0) { scope := 0 }) [0x100000], block := leBytes 256 tconB, counts := [], next, suspended := susp }
def kRun (next : Nat) (susp : Bool) : State := let s := kTcon
  { s with clusters := s.clusters.map (fun p => (p.1, { p.2 with tensor := { p.2.tensor with running := 1, arr := { p.2.tensor.arr with tcon := some (tconRun next susp) } } })) }
theorem witness_Contraction_suspended : (getTensor (kRun 0 true) 0).arr.tcon = some (tconRun 0 true) ∧ (tconRun 0 true).suspended = true ∧ (getTensor (kRun 0 true) 0).arr.kept = none := ⟨rfl, rfl, rfl⟩
/-- Its first step is a load; past its last it ends. -/
theorem witness_Contraction_load : let s := kRun 0 false
    (getTensor s 0).arr.tcon = some (tconRun 0 false) ∧ (getTensor s 0).ringCmd = none ∧ (tconRun 0 false).cmd.cluster = s.site ∧ (getTeam s 1).isSome = true ∧ unanswered s 0 = [] ∧
      (tconSteps (tconF (leNat (tconRun 0 false).block)) [] 1 0)[0]? = some (.load 0 0 0) := by
  refine ⟨rfl, rfl, rfl, ?_, ?_, ?_⟩ <;> decide +kernel
/-- Its second step multiplies, its third writes the 16 elements of the row. -/
def kRunTeam : Team := (kTcon.teams.headD default)
theorem witness_Contraction_mul : AtStep (kRun 1 false) (tconRun 1 false) kRunTeam (.mul 0 0 1 0 0 0 0 true) ∧ localTarget (kRun 1 false) kRunTeam 0x1E01000 (32 * 1 * 1) = some (1, 0x1000) ∧
    (tconF tconB).alm = 0x1E01000 ∧ (tconF tconB).mcbv = false := by
  refine ⟨⟨?_, ?_, ?_, ?_, ?_, ?_, ?_⟩, ?_, ?_, ?_⟩ <;> decide +kernel
theorem witness_Contraction_mul_kind : StepKind (kRun 1 false) kRunTeam (tconF tconB) (getTensor (kRun 1 false) 0).arr 0 0 0 0 1 1 .dense := by
  unfold StepKind
  dsimp only
  rw [if_neg, if_neg, if_neg]
  all_goals decide +kernel
theorem witness_Contraction_epi : AtStep (kRun 2 false) (tconRun 2 false) kRunTeam (.epi 0 0 1 0) ∧ (tconF tconB).olm = true ∧ (tconF tconB).out = 0x1E08000 ∧ (tconF tconB).bias = 0 := by
  refine ⟨⟨?_, ?_, ?_, ?_, ?_, ?_, ?_⟩, ?_, ?_, ?_⟩ <;> decide +kernel
theorem witness_Contraction_epi_rows : EndAt (kRun 2 false) (tconRun 2 false).cmd true 0x1E08000 (16 * 4) (fun k => .lm 1 (0x8000 + k)) := by
  refine ⟨kRunTeam, 1, 0x8000, ?_, ?_, ?_, ?_, fun _ _ => rfl⟩ <;> decide +kernel
theorem witness_Contraction_end : (tconSteps (tconF (leNat (tconRun 9 false).block)) [] 1 0).length ≤ (tconRun 9 false).next := by decide +kernel
/-- Two clusters of a gang, each with a TRING to start. -/
def kRing : State := { kGang [] with teams := (kGang []).teams.map (fun t => { t with gang := some 0 })
                                     clusters := [(0, { (default : Cluster) with tensor := { team := some 1, arr := kArr, holder := some 0, ringCmd := some (1, 0) } }),
                                                  (1, { (default : Cluster) with tensor := { team := some 2, holder := some 5, ringCmd := some (1, 0) } })] }
theorem witness_Contraction_ring : kRing.teams.filter (fun t => t.gang == some kRing.site) = kRing.teams ∧ 2 ≤ kRing.teams.length ∧ (∀ t ∈ kRing.teams, t.retired = false) ∧
    kRing.teams.map (·.rank) = span 0 2 ∧ (kRing.teams.map (·.cluster)).Nodup ∧ (kRing.teams.map (·.id)).Nodup ∧
    ∀ t ∈ kRing.teams, (getTensor kRing t.cluster).team = some t.id ∧ (getTensor kRing t.cluster).ringCmd = some (1, 0) := by decide
/-- A grouped contraction of one group whose count, 1, lies at 0x100100, with a metadata barrier at 0xFFFF0. -/
def tconB2 : Nat := tconB + 2 ^ 128 * 0x100100 + 2 ^ 832 * 0x1EFFFF0 + 2 ^ 28 + 2
theorem witness_Contraction_grouped : let f := tconF tconB2
    tconLegal tconB2 f 1 = true ∧ tconB2 < 256 ^ 256 ∧ f.kind = 2 ∧ f.ng = 1 ∧ f.cnt = 0x100100 ∧ f.cnt % 4 = 0 ∧ f.mcbv = true ∧ f.mcb % 8 = 0 ∧ f.mcb / 2 ^ 21 % 16 = 15 ∧
      (localTarget kTcon kTeam f.mcb 8).isSome = true ∧ InWindow kTcon 0x100100 4 0x100100 ∧ (∀ k < 4, HomeQuiet kTcon 0 (0x100100 + k)) := by
  refine ⟨?_, ?_, ?_, ?_, ?_, ?_, ?_, ?_, ?_, ?_, ?_, ?_⟩ <;> first | decide +kernel | unfold InWindow InWindowOf; decide +kernel | unfold HomeQuiet; decide +kernel

/-! ### Witnesses: rendering, textures, rays and builds -/

/-- n bytes at va, mapped to themselves, are in place. -/
theorem quietAt_intro (s : State) (va : W64) (n : Nat) (h : InWindow s va n va.toNat) (q : ∀ k < n, HomeQuiet s ((curWave s).cluster / 64) (va.toNat + k)) : QuietAt s va n :=
  ⟨_, h, q⟩
/-- The triangle of the example of R278, with a depth buffer of one tile column at 0x100000. -/
def rastP (hiz : Bool) : RastP := { hr := if hiz then 9 else 0, s := 30, spp := 0, hiz, ez := hiz, cull := 0 }
def rastH : RG := rg 8 10 20
def kRast (tok : W64) : State := kit2 [(9, 0x0010000000100000), (11, 0x3F8000003F000000), (12, 0x400), (13, 0x3F8000003E800000), (14, 0x40000000000), (15, 0x3F8000003F400000), (20, tok),
  (30, 0x0040004000000000)] []
theorem quiet_depth : QuietAt (kRast 0) 0x100000 4 := by
  refine quietAt_intro _ _ _ ?_ ?_ <;> first | unfold InWindow InWindowOf; decide | unfold HomeQuiet; decide +kernel
theorem witness_Rendering_rast : Issues (kRast 0) ∧ Performed (kRast 0) ∧ selected (kRast 0) 0 false ≠ [] ∧ (wGet (curWave (kRast 0)) 20).extractLsb' 41 21 = 0 ∧
    (rastJob rastH (rastP true) (curWave (kRast 0))).tpitch = 1 ∧ (rastJob rastH (rastP true) (curWave (kRast 0))).base.toNat % 4 = 0 ∧
    ∀ t, 0 ≤ t → t < tileLimit (rastJob rastH (rastP true) (curWave (kRast 0))) 0 0 → QuietAt (kRast 0) (depthWord (rastJob rastH (rastP true) (curWave (kRast 0))) t) 4 := by
  refine ⟨?_, ?_, ?_, ?_, ?_, ?_, ?_⟩
  · unfold Issues; decide
  · decide
  · decide
  · decide
  · decide
  · decide
  · intro t _ h
    have e : tileLimit (rastJob rastH (rastP true) (curWave (kRast 0))) 0 0 = 1 := by decide
    have : t = 0 := by omega
    subst this
    exact quiet_depth
def kHiz (tx : W64) : State := kit2 [(4, 0x0040000000100000), (5, tx)] []
theorem issues_kHiz : Issues (kHiz 3) ∧ Issues (kHiz 4) := by unfold Issues; decide +kernel
theorem witness_Rendering_hizupd : ∀ s ∈ [kHiz 4, kHiz 3], Performed s ∧ selected s 0 false ≠ [] ∧
    ((wGet (curWave s) 4).extractLsb' 52 12).toNat = 4 ∧ (wGet (curWave s) 4).toNat % 4 = 0 := by
  decide +kernel
theorem witness_Rendering_hizupd_place : InWindow (kHiz 3) 0x10000C 4 0x10000C ∧ ∀ k < 4, HomeQuiet (kHiz 3) 0 (0x10000C + k) := by
  unfold InWindow InWindowOf HomeQuiet; decide +kernel
/-- No token stops; both do; only lane 1's does. -/
theorem witness_Rendering_discard : let s := kit2 [] [(9, 0x18)]
    let one := withLanes (fun l => if l.id = 0 then { l with v := setNth 8 l.v 9 } else l) s
    let stops (l : Lane) : Bool := (vGet l 9).getLsbD 3 && (vGet l 9).getLsbD 4
    Issues (kit2 [] []) ∧ (active (kit2 [] [])).any stops = false ∧ Issues s ∧ Handles s ∧ (active s).all stops = true ∧
      Issues one ∧ Handles one ∧ (active one).any stops = true ∧ (active one).all stops = false ∧ (freeSlots (curWave one)).head? = some 1 := by
  unfold Issues Handles; decide
/-- A descriptor at 0x100000 of an RGBA texture of 4 by 4 at 0x101000, and of a latent one of slot 2; coordinates 0.5. -/
def texD (kind slot : Nat) : Nat := 0x101000 + 2 ^ 64 * 3 + 2 ^ 80 * 3 + 2 ^ 96 * 0 + 2 ^ 100 * kind + 2 ^ 102 * slot
def kTex (kind slot : Nat) : State := let s := withMem 0x100000 16 (texD kind slot) (kit2 [(7, 0x100000)] [(4, 0x3F000000), (5, 0x3F000000)])
  { s with clusters := [(0, { (default : Cluster) with tex := [{}, {}, { addr := 0x102000, gen := 1, tag := 0x10000, bound := true, table := List.replicate 1152 0 }, {}, {}, {}, {}, {}] })] }
theorem witness_TexqResult : Issues (kTex 1 0) ∧ Performed (kTex 1 0) ∧ selected (kTex 1 0) 0 false ≠ [] ∧ QuietAt (kTex 1 0) (wGet (curWave (kTex 1 0)) 7) 16 ∧
    (texDesc (windowBytes (kTex 1 0) (wGet (curWave (kTex 1 0)) 7) 16)).map (fun d => (d.wm1, d.kind)) = some (3, 1) := by
  refine ⟨?_, ?_, ?_, quietAt_intro _ _ _ ?_ ?_, ?_⟩ <;> first | decide +kernel | unfold Issues; decide +kernel | unfold InWindow InWindowOf; decide +kernel | unfold HomeQuiet; decide +kernel
def texDesc1 : TexDesc := (texDesc (leBytes 16 (texD 1 0))).getD default
theorem witness_Textures : (curWave (kTex 1 0)).log = [] ∧ (getCluster (kTex 1 0) 0).texc = [] ∧
    texDesc (windowBytes (kTex 1 0) (wGet (curWave (kTex 1 0)) 7) 16) = some texDesc1 ∧ (tapsOf texDesc1 false 0x3F000000 0x3F000000 0).length = 1 ∧
    (tapsOf texDesc1 true 0x3F000000 0x3F000000 0).length = 4 ∧
    (∀ g ∈ [false, true], ∀ t ∈ tapsOf texDesc1 g 0x3F000000 0x3F000000 0, InWindow (kTex 1 0) (texDesc1.texelAddr t.l t.i t.j) 8 (texDesc1.texelAddr t.l t.i t.j).toNat ∧
      ∀ k < 8, HomeQuiet (kTex 1 0) 0 ((texDesc1.texelAddr t.l t.i t.j).toNat + k)) := by
  refine ⟨?_, ?_, ?_, ?_, ?_, ?_⟩ <;> first | decide +kernel | unfold InWindow InWindowOf HomeQuiet; decide +kernel
theorem witness_Textures_latent : slotBound (kTex 0 2) (curWave (kTex 0 2)) 2 = true ∧
    (texDesc (windowBytes (kTex 0 2) (wGet (curWave (kTex 0 2)) 7) 16)).map (fun d => (d.slot, d.kind)) = some (2, 0) := by decide
def kBind : State := withMem 0x102000 4 1 (kit2 [(6, 0x102000)] [])
theorem witness_Textures_tbind : Issues kBind ∧ Performed kBind ∧ (getCluster kBind 0).tex.length = 8 ∧ (rg 3 6 0).d.toNat < 8 ∧
    (∀ k < 18, InWindow kBind (0x102000 + BitVec.ofNat 64 (64 * k)) 64 (0x102000 + 64 * k)) ∧ (∀ k < 1152, HomeQuiet kBind 0 (0x102000 + k)) ∧
    leNat ((span 0x102000 4).map (byteAt kBind)) = 1 ∧ ∀ k < 56, byteAt kBind (0x102008 + k) = 0 := by
  refine ⟨?_, ?_, ?_, ?_, ?_, ?_, ?_, ?_⟩ <;> first | decide +kernel | unfold Issues; decide | unfold InWindow InWindowOf; decide +kernel | unfold HomeQuiet; decide +kernel
/-- A node or a block at 0x103000. -/
def kRay : State := kit2 [(9, 0x103000)] [(0, 0x3F800000), (4, 0x3F800000)]
theorem witness_RaysAndBuilds_ray : Issues kRay ∧ Performed kRay ∧ (curWave kRay).log = [] ∧ (∀ l ∈ selected kRay 0 false, rayAddr (rgx 16 0 9) (curWave kRay) l = 0x103000) ∧ (0x103000 : W64).toNat % 128 = 0 ∧
    (∀ k < 20, InWindow kRay (0x103000 + BitVec.ofNat 64 (8 * k)) 8 (0x103000 + 8 * k)) ∧ ∀ k < 160, HomeQuiet kRay 0 (0x103000 + k) := by
  refine ⟨?_, ?_, ?_, ?_, ?_, ?_, ?_⟩ <;> first | decide | unfold Issues; decide | unfold InWindow InWindowOf; decide +kernel | unfold HomeQuiet; decide +kernel
/-- MORTON of one box: IN 0x104000, AUX 0x105000, OUT 0x106000; SORT of two records from 0x104000 over TMP 0x105000. -/
def bldD : Nat := 2 ^ 448 * 0x104000 + 2 ^ 384 * 0x106000 + 2 ^ 320 * 0x105000 + 2 ^ 224 * 1
def bldP : EngP := { cb := 6, rel := false, scope := 0 }
def kBld (host : Bool) : State := let s := withMem 0x100000 64 bldD (withLm 0xFFFF8 8 0x0000010000000000 (kit2 [(2, 0x100000), (6, 0x1EFFFF8)] []))
  { s with regs := { s.regs with funcmode := if host then 2 else 0 } }
theorem witness_RaysAndBuilds_bld : ∀ host ∈ [false, true], let s := kBld host
    Issues s ∧ selected s 0 false ≠ [] ∧ s.regs.funcmode.getLsbD 1 = host ∧ (getDie s 0).sbe.length < 32 ∧ (getDie s 0).builds.length < 32 ∧
      (buildOf (windowBytes s 0x100000 64) 0x1EFFFF8).ok (windowNum s 0x100000 64 % 2 ^ 211) = true := by
  unfold Issues; decide +kernel
theorem witness_RaysAndBuilds_bld_ready : EngReady (rg 0 2 0) (wGet (curWave (kBld false)) 6) false 0 (kBld false) ∧ QuietAt (kBld false) 0x100000 64 := by
  refine ⟨⟨?_, ?_, ?_, ⟨1, 0xFFFF8, 0x0000010000000000, ?_, ?_, ?_, ?_⟩, fun h => nomatch h⟩, quietAt_intro _ _ _ ?_ ?_⟩ <;>
    first | decide +kernel | unfold Issues; decide +kernel | unfold InWindow InWindowOf; decide +kernel | unfold HomeQuiet; decide +kernel
def mortonB : Build := { inp := 0x104000, out := 0x106000, aux := 0x105000, tmp := 0, n := 2, op := 0, kw := false, radius := 0, cb := 0x1EFFFF8 }
def sortB : Build := { mortonB with aux := 0, tmp := 0x105000, op := 1 }
def bldC (b : Build) : EngCmd := cmd (.bld (rg 0 2 0) bldP) (b.toOps 0x100000)
def kSbe (b : Build) : State := { withMem 0x104000 48 0x3F800000400000003F8000003F80000000000005000000033F8000003F8000003F800000 (kBld false) with dies := [(0, { (default : Die) with sbe := [bldC b] })] }
theorem witness_RaysAndBuilds_sbe : ∀ b ∈ [mortonB, sortB], (getDie (kSbe b) 0).sbe = bldC b :: [] ∧ (bldC b).cluster / 64 = (kSbe b).site ∧ b.ok 0 = true ∧ b.overlaps = false ∧
    (∀ p ∈ [(b.inp, b.areas.1), (b.aux, b.areas.2.1), (b.tmp, b.areas.2.2.1), (b.out, b.areas.2.2.2)], AreaAt (kSbe b) (bldC b) p.1 p.2) := by
  unfold AreaAt EngByte InWindowOf HomeQuiet; decide +kernel
theorem witness_RaysAndBuilds_arrives : ∀ b ∈ [mortonB, sortB], getTeam (kSbe b) 1 = (kSbe b).teams.head? ∧ (∀ t ∈ (kSbe b).teams, t.retired = false ∧ localTarget (kSbe b) t 0x1EFFFF8 8 = some (1, 0xFFFF8)) ∧
    localWord (kSbe b) 1 0xFFFF8 0x0000010000000000 ∧ arrCount 0x0000010000000000 + b.bytes < 2 ^ 30 ∧ (getDie (kSbe b) 0).rdc = [] := by
  unfold localWord; decide +kernel
def kDone (host : Bool) : State := { kBld host with dies := [(0, { (default : Die) with builds := [bldC mortonB] })] }
theorem witness_RaysAndBuilds_blddone : rdy (kDone true) = true ∧ (kDone true).regs.funcmode.getLsbD 1 = true ∧ (getDie (kDone true) 0).builds = bldC mortonB :: [] ∧
    rdy (kDone false) = true ∧ (kDone false).regs.funcmode.getLsbD 1 = false := by decide

/-! ### Work distribution, homes, the host, errors, steps -/

/-- A carriage record at 0x101000 with two w-register sets and one declared queue, a cart record at 0x101040, a queue descriptor's address at 0x101100; the
queue stands in slot 5 of die 0, its records of 32 bytes from 0x102000. -/
def recX (cart : Bool) (nq : Nat) : Nat := 2 ^ 448 * 0x20000 + 2 ^ 192 * 0x101100 + 2 ^ 176 * 3 + 2 ^ 168 + 2 ^ 160 * nq + 2 ^ 146 + 2 ^ 142 + (if cart then 2 ^ 133 else 2 ^ 134 * 8)
def lrOf (at_ : W64) (x : Nat) : LaunchRec := ((launchOf at_ x).map (·.1)).getD default
def kLr : LaunchRec := lrOf 0x101000 (recX false 1)
def kLrC : LaunchRec := lrOf 0x101040 (recX true 0)
def kQ (tail : W32) : QSlot := { desc := 0x101200, ctx := 1, base := 0x102000, notify := 0x101300, head := 0, tail, lcap := 1, rsz := 32, cart := false, prio := 0, thresh := 1, age := 0, minsh := 0, maxsh := 64, lr := kLr, teams := [(0, 1)] }
def withSlots (qs : List (Nat × QSlot)) (s : State) : State := { s with dies := [(0, { (default : Die) with slots := qs })] }
def withCluster (c : Cluster) (s : State) : State := { s with clusters := [(0, c)] }
def kWork (s : State) : State := withMem 0x101100 8 0x101200 (withMem 0x101040 64 (recX true 0) (withMem 0x101000 64 (recX false 1) s))
def kSpawn (tail : W32) : State := withSlots [(5, kQ tail)] (kWork (kit2 [(2, 0x101200), (3, 0x101000), (4, 0x101040), (9, 2)] [(8, 7)]))
theorem released_kSpawn : ∀ t ∈ [0, 1], Released 2 (kSpawn (BitVec.ofNat 32 t)) := by unfold Released; decide +kernel
theorem issues_kSpawn : ∀ t ∈ [0, 1], Issues (kSpawn (BitVec.ofNat 32 t)) := by unfold Issues; decide +kernel

theorem witness_WorkInstructions_spawn : findSlot (kSpawn 0) 1 0x101200 = some (0, 5) ∧ getSlot (kSpawn 0) 0 5 = some (kQ 0) ∧ (kQ 0).rsz = 16 * ((1 : BitVec 4).toNat + 1) ∧
    hasRoom (kQ 0) (selected (kSpawn 0) 0 false).length = true ∧ hasRoom (kQ 1) (selected (kSpawn 1) 0 false).length = false ∧
    ∀ a < 64, InWindow (kSpawn 0) (0x102000 + BitVec.ofNat 64 a) 1 (0x102000 + a) ∧ HomeQuiet (kSpawn 0) 0 (0x102000 + a) := by
  unfold InWindow InWindowOf HomeQuiet; decide +kernel
theorem witness_WorkInstructions_qnotify : InWindow (kSpawn 0) 0x101300 8 0x101300 ∧ ∀ k < 8, HomeQuiet (kSpawn 0) 0 (0x101300 + k) := by unfold InWindow InWindowOf HomeQuiet; decide +kernel
theorem record_kSpawn : ∀ p ∈ [((0x101000 : W64), kLr), (0x101040, kLrC)], RecordAt (kSpawn 0) p.1 p.2 := by
  intro p hp
  simp only [List.mem_cons, List.not_mem_nil, or_false] at hp
  obtain rfl | rfl := hp
  · exact ⟨quietAt_intro _ _ _ (by unfold InWindow InWindowOf; decide +kernel) (by unfold HomeQuiet; decide +kernel), kLr, 0, by decide +kernel, by rw [if_pos rfl]⟩
  · exact ⟨quietAt_intro _ _ _ (by unfold InWindow InWindowOf; decide +kernel) (by unfold HomeQuiet; decide +kernel), kLrC, 0, by decide +kernel, by rw [if_pos rfl]⟩
/-- A record whose image at 0x108000 gives the w registers. -/
def kImage : State := withMem 0x108008 8 77 (withMem 0x101000 64 (recX false 0 + 2 ^ 384 * 0x108000) (kSpawn 0))
theorem witness_WorkInstructions_image : ∃ lr, RecordAt kImage 0x101000 lr ∧ lr.w.take 2 = [0, 77] := by
  refine ⟨{ lrOf 0x101000 (recX false 0) with w := (span 0 64).map (fun k => BitVec.ofNat 64 (windowNum kImage (0x108000 + BitVec.ofNat 64 (8 * k)) 8)) },
    ⟨quietAt_intro _ _ _ (by unfold InWindow InWindowOf; decide +kernel) (by unfold HomeQuiet; decide +kernel), lrOf 0x101000 (recX false 0), 0x108000, by decide +kernel, ?_⟩, by decide +kernel⟩
  rw [if_neg (by decide)]
  refine ⟨fun k hk => ⟨0x108000 + 8 * k, ?_, ?_⟩, rfl⟩
  · revert k; unfold InWindow InWindowOf; decide +kernel
  · revert k; unfold HomeQuiet; decide +kernel
theorem witness_WorkInstructions_grid : kLr.nq = 1 ∧ gridDies kLr 0 = [0] ∧ windowNum (kSpawn 0) 0x101100 8 = 0x101200 ∧ InWindow (kSpawn 0) 0x101100 8 0x101100 ∧
    (∀ k < 8, HomeQuiet (kSpawn 0) 0 (0x101100 + k)) ∧ (∀ x ∈ (getDie (kSpawn 0) 0).slots, x.1 ≠ 0) ∧ (getDie (kSpawn 0) 0).shares = [] := by
  unfold InWindow InWindowOf HomeQuiet; decide +kernel
/-- A task control block at 0x103000 with PEND and STATE as given, ACT 2, and one successor at 0x105000. -/
def kTcb (pend state : Nat) : State := withMem 0x104000 8 0x105000 (withMem 0x103000 64 (2 ^ 448 * 0x104000 + 2 ^ 256 * (2 ^ 32 * pend + 2 ^ 16 + 2 ^ 15 + 2 ^ 12 * state)) (kit2 [(2, 0x103000)] []))
theorem quiet_kTcb : ∀ p ∈ [(0, 0), (0, 1), (1, 0), (2, 0)], ∀ k < 64, HomeQuiet (kTcb p.1 p.2) 0 (0x103000 + k) := by unfold HomeQuiet; decide +kernel
theorem succs_kTcb : ∀ p ∈ [(0, 0), (1, 0)], SuccsAt (kTcb p.1 p.2) 1 0 0x103000 1 := by
  intro p hp j hj
  obtain rfl : j = 0 := by omega
  simp only [List.mem_cons, List.not_mem_nil, or_false] at hp
  obtain rfl | rfl := hp <;>
    exact ⟨⟨0x104000, by unfold InWindowOf; decide +kernel, by unfold HomeQuiet; decide +kernel⟩, by decide +kernel⟩
theorem witness_WorkInstructions_arm : ∀ p ∈ [(0, 0), (0, 1)], let s := kTcb p.1 p.2
    Issues s ∧ selected s 0 false ≠ [] ∧ Released 2 s ∧ InWindow s 0x103000 64 0x103000 ∧ tcbPend (windowNum s 0x103020 8) = p.1 ∧ tcbState (windowNum s 0x103020 8) = p.2 ∧
      tcbAct (windowNum s 0x103020 8) = 2 ∧ tcbNsucc (windowNum s 0x103020 8) = 1 ∧ DeviceFree s 1 0 := by
  unfold Issues Released InWindow InWindowOf DeviceFree; decide +kernel
/-- A graph of two blocks at 0x108000 with initial counts 7 and 1 at 0x109000, its object at 0x107000, a patch at 0x107800. -/
def kGraph (run : Bool) (np patch : Nat) : State := withMem 0x107800 16 (2 ^ 64 * 0x00080010 + 0x10C000) (withMem 0x109000 8 0x100000007
  (withMem 0x107000 64 (2 ^ 448 * 0x108000 + 2 ^ 384 * 0x109000 + 2 ^ 320 * 0x10A000 + 2 ^ 256 * 0x10B000 + 2 ^ 240 * 2 + 2 ^ 224 * 64 + run.toNat * 2 ^ 223 + 2 ^ 220 * np)
    (kit2 [(8, 0x107000), (9, BitVec.ofNat 64 patch)] [])))
theorem witness_WorkInstructions_graph : ∀ p ∈ [(true, 3, 0x107800), (true, 4, 0x107800), (true, 4, 0), (false, 0, 0)], let s := kGraph p.1 p.2.1 p.2.2
    Issues s ∧ selected s 0 false ≠ [] ∧ Released 2 s ∧ graphOk (windowNum s 0x107000 64) = true ∧ windowNum s 0x107018 8 / 2 ^ 31 % 2 = p.1.toNat ∧
      windowNum s 0x107018 8 / 2 ^ 28 % 8 = p.2.1 ∧ (graphOf (windowNum s 0x107000 64)).pmax = 64 ∧ windowNum s 0x107808 8 = 0x00080010 ∧ DeviceFree s 1 0 := by
  unfold Issues Released DeviceFree; decide +kernel
theorem quiet_kGraph : (∀ k < 128, HomeQuiet (kGraph false 0 0) 0 (0x107000 + k)) ∧ (∀ k < 16, HomeQuiet (kGraph false 0 0) 0 (0x107800 + k)) ∧
    (∀ k < 8, HomeQuiet (kGraph false 0 0) 0 (0x109000 + k)) ∧ ∀ k < 128, HomeQuiet (kGraph false 0 0) 0 (0x108000 + k) := by
  refine ⟨?_, ?_, ?_, ?_⟩ <;> unfold HomeQuiet <;> decide +kernel
theorem place_kGraph : InWindow (kGraph false 0 0) 0x107000 128 0x107000 ∧ InWindow (kGraph false 0 0) 0x107800 8 0x107800 ∧ InWindow (kGraph false 0 0) 0x107808 8 0x107808 ∧
    ∀ i < 2, InWindow (kGraph false 0 0) (0x109000 + BitVec.ofNat 64 (4 * i)) 4 (0x109000 + 4 * i) ∧ windowNum (kGraph false 0 0) (0x109000 + BitVec.ofNat 64 (4 * i)) 4 ≠ 0 ∧
      InWindow (kGraph false 0 0) (0x108020 + BitVec.ofNat 64 (64 * i)) 8 (0x108020 + 64 * i) := by
  refine ⟨?_, ?_, ?_, ?_⟩ <;> unfold InWindow InWindowOf <;> decide +kernel
theorem witness_WorkInstructions_coupler : kLr.cart = false ∧ 32 ≤ kLr.regs ∧ kLrC.cart = true ∧ releaseReady 0 (kSpawn 0) = true ∧
    (getCluster (kSpawn 0) 0).dispatchQ.length + (selected (kSpawn 0) 0 false).length ≤ 64 := by decide +kernel
def kOne (full : Bool) : State := withCluster { (default : Cluster) with releaseQ := if full then List.replicate 16 default else [] } (kWork (kit1 [(2, 0x101000)] []))
theorem witness_WorkInstructions_nb : ∀ full ∈ [false, true], let s := kOne full
    Issues s ∧ (selected s 0 false).length = 1 ∧ contended 0 s = false ∧ (getCluster s 0).offers = [] ∧ (getCluster s 0).opens = [] ∧
      (if full then 16 ≤ (getCluster s 0).releaseQ.length else CanOpen s 0 1 1 (.entry kLr.entry)) := by
  unfold Issues CanOpen; decide +kernel
theorem witness_WorkInstructions_carts : let s := withWave (fun w => { w with cart := true, mb := List.replicate 8 0 }) (kOne false)
    Issues s ∧ selected s 0 false ≠ [] ∧ releaseReady 0 s = true ∧ (curWave s).cart = true := by unfold Issues; decide +kernel
def kOpen (n since : Nat) : OpenWave := { team := 1, ctx := 1, key := .reorder (BitVec.ofNat 32 n), lr := kLr, lanes := [], timeout := 8, since }
theorem witness_WorkInstructions_flush : let s := withCluster { (default : Cluster) with opens := [kOpen 3 0, kOpen 4 0] } (kit2 [(4, 3)] [])
    Flushable (fun x => x.team == 1 && x.ctx == 1) 0 s ∧ Flushable (fun x => x.key == .reorder 3) 0 s := by unfold Flushable; decide +kernel

def kStart : Start := { pc := 0x20000, v := [5], m := [] }
def kOffer : Offer := { wave := 0, lane := 1, src := 128, ctx := 1, team := 1, key := some (.entry 0x20000), lr := kLr, start := kStart, exits := true }
theorem witness_WorkEvents_accept : let s := withCluster { (default : Cluster) with opens := [kOpen 3 0], offers := [kOffer] } (withLanes (fun l => { l with st := .waiting .accept }) (kit2 [] []))
    (getCluster s s.site).offers = [kOffer] ∧ (getCluster s s.site).qmQ = [] ∧ offerLive s kOffer = true ∧ CanOpen s s.site 1 1 (.entry 0x20000) := by unfold CanOpen; decide +kernel
theorem witness_WorkEvents_timeout : let s := { withCluster { (default : Cluster) with opens := [kOpen 3 0, kOpen 4 5] } (kit2 [] []) with clock := 8 }
    Flushable (fun o => decide (o.since + o.timeout ≤ s.clock)) s.site s := by unfold Flushable; decide +kernel
theorem witness_WorkEvents_admit : let s := withCluster { (default : Cluster) with releaseQ := [{ kOpen 3 0 with lanes := [kStart] }] } (kit2 [] [])
    (getCluster s s.site).failed = false ∧ (∀ x ∈ (getCluster s s.site).opens, x.due = none) ∧ 1 ∈ waveSlots s s.site 0 ∧ regsUsed s s.site 0 + kLr.regs ≤ 512 := by decide +kernel
theorem witness_WorkEvents_cart : let s := withCluster { (default : Cluster) with dispatchQ := [{ team := 1, ctx := 1, lr := kLrC, start := kStart }] } (kit2 [] [])
    (freeThreads s s.site).head? = some (0, 0) ∧ (getCluster s s.site).failed = false ∧ (getCluster s s.site).offers = [] := by decide +kernel
def kAdmit (lr : LaunchRec) : State := { kit2 [] [] with site := 28, grids := [{ id := 7, ctx := 1, lr, alive := 3 }], dies := [(0, { (default : Die) with shares := [(4, { grid := 7, die := 0, teams := [0, 1, 2] })] })] }
theorem witness_WorkEvents_team : ∀ lr ∈ [kLr, kLrC], lr.gw * lr.gh = 1 ∧ sharePlace (kAdmit lr) 0 lr 63 = some [0] ∧ (getCtx (kAdmit lr) 1).stat = .live ∧ bit (getDie (kAdmit lr) 0).regs.chrbase 0 = false := by decide +kernel
def kQm (qs : List (Nat × QSlot)) (sh : List (Nat × Share)) : State := { kAdmit kLr with site := 0, dies := [(0, { (default : Die) with slots := qs, shares := sh })] }
def kQm1 : State := kQm [(5, kQ 1)] []
theorem witness_WorkEvents_decision : choose (eligible (kQm [] []) 0) = none ∧
    (choose (eligible (kQm [] [(4, { grid := 7, die := 0, teams := [0] })]) 0)).map (fun c => (c.k, c.share)) = some (4, true) ∧
    (choose (eligible kQm1 0)).map (fun c => (c.k, c.share)) = some (5, false) ∧ kQm1.tcbWork = [] ∧ kQm1.replays = [] ∧ kQm1.regs.funcmode.getLsbD 0 = false ∧
    (∀ p ∈ (getDie kQm1 0).slots, p.2.waiters = [] ∧ p.2.headDue = false) ∧ bit (getDie kQm1 0).regs.chrbase 0 = false := by decide +kernel
/-- One record of the queue, decided for cluster 0; and the coupler's turn for it. -/
theorem witness_WorkEvents_launch : (clustersAfter 0 63).find? (canLaunch kQm1 (kQ 1)) = some 0 ∧ queueTeam kQm1 (kQ 1) 0 = some 1 ∧ unclaimed kQm1 0 5 (kQ 1) = 1 ∧
    heldSoon kQm1 0 5 = 0 := by decide +kernel
def kTurn : State := { kQm1 with clusters := [(0, { (default : Cluster) with qmQ := [{ slot := 5, team := 1, left := 1 }] })] }
theorem witness_WorkEvents_turn : (getCluster kTurn 0).offers = [] ∧ (getCluster kTurn 0).qmQ = [{ slot := 5, team := 1, left := 1 }] ∧ getSlot kTurn 0 5 = some (kQ 1) ∧
    1 ≤ occ (kQ 1) ∧ CanOpen kTurn 0 1 1 (.entry kLr.entry) ∧ (getDie kTurn 0).rdc = [] ∧ bit (getDie kTurn 0).regs.chrbase 0 = false ∧ (kQ 1).rsz % 8 = 0 := by
  refine ⟨?_, ?_, ?_, ?_, ?_, ?_, ?_, ?_⟩ <;> first | decide +kernel | unfold CanOpen; decide +kernel
theorem witness_WorkEvents_turn_places : (∀ j < 4, InWindowOf kTurn 1 (0x102000 + BitVec.ofNat 64 (8 * j)) 8 (0x102000 + 8 * j)) ∧ (∀ k < 32, HomeQuiet kTurn 0 (0x102000 + k)) ∧
    InWindowOf kTurn 1 0x101224 4 0x101224 ∧ ∀ k < 4, HomeQuiet kTurn 0 (0x101224 + k) := by
  refine ⟨?_, ?_, ?_, ?_⟩ <;> first | unfold InWindowOf; decide +kernel | unfold HomeQuiet; decide +kernel
theorem witness_WorkEvents_fold : let s := withMem 0x101300 8 2 (kSpawn 0)
    getSlot s 0 5 = some (kQ 0) ∧ InWindowOf s 1 0x101300 8 0x101300 ∧ ∀ k < 8, HomeQuiet s 0 (0x101300 + k) := by unfold InWindowOf HomeQuiet; decide +kernel
theorem witness_WorkEvents_tcb : ∀ p ∈ [(2, 0), (0, 1), (1, 0)], let s := kTcb p.1 p.2
    let x := windowNumOf s 1 0x103020 8
    InWindowOf s 1 0x103020 8 0x103020 ∧ x / 2 ^ 32 = p.1 ∧ x / 2 ^ 12 % 4 = p.2 ∧ tcbAct x = 2 ∧ DeviceFree s 1 0 ∧ tcbNsucc x = 1 ∧
      ∀ j < 4, InWindowOf s 1 (0x103000 + BitVec.ofNat 64 (16 * j)) 16 (0x103000 + 16 * j) := by unfold InWindowOf DeviceFree; decide +kernel

/-- Line 0x4000 (address 0x100000), in its region 0x800 with the host as holder or not; die 1 holds dirty bytes of line 0x5000, cluster 3 a copy. -/
def kHome (host : Bool) : State := { kit2 [] [] with site := 0x4000, dies := [(0, { (default : Die) with dir := [(0x800, { host })], fills := [{ line := 0x4000, forRdc := false, cluster := 3, bytes := [], invalidated := true }] }), (1, { (default : Die) with rdc := [(0x5000, { mask := 0xF0, bytes := List.replicate 64 9 })] })], clusters := [(3, { (default : Cluster) with filter := [(0x4000, 3)] })] }
theorem witness_HomeEvents_home : ∀ p ∈ [(0x100000, 64), (0x10003C, 4), (0x100008, 8), (0x100000, 1)], AtHome (kHome false) p.1 p.2 := by
  unfold AtHome HomeQuiet; decide +kernel
theorem witness_HomeEvents_holders : let s := kHome false
    (getCluster s 3).failed = false ∧ (getCluster s 70).failed = false ∧ (∀ d < 4, (getDie s d).rdcFenced = false) ∧ s.regs.hostFenced = false ∧
      (rdcGet s 1 0x4000).mask = 0 ∧ Untraced s 0 ∧ (∀ d < 4, (getDie s d).held = [] ∧ (getDie s d).peerQ = []) ∧ 0x4000 * 64 < 2 ^ 39 := by
  unfold Untraced; decide +kernel
theorem witness_HomeEvents_asks : asksHost (kHome true) 0x4000 = true ∧ exists_ (kHome true) 0x100000 = true ∧ (getDie (kHome true) (homeDie 0x100000)).dir.length < 24 ∧
    (∀ x ∈ (getDie (kHome true) 0).held, x.pa / 64 ≠ 0x4000) := by decide +kernel
theorem witness_HomeEvents_fill : ∀ p ∈ [(false, true), (true, false), (false, false)], let f : Fill := { line := 0x4000, forRdc := p.1, cluster := 3, bytes := [], unit := 4, invalidated := p.2 }
    let s := { kHome false with dies := [(0, { (default : Die) with fills := [f] })] }
    (getDie s 0).fills.find? (fun f => f.line == 0x4000) = some f ∧ (getDie s 0).rdc.length < 524288 := by decide
theorem witness_HomeEvents_answer : let x : HeldStore := { cluster := 3, pa := 0x100004, bytes := [1, 2], dec := some (1, 0, 0x103000, 0) }
    let s := { kHome true with dies := [(0, { (default : Die) with held := [x] })] }
    (getDie s (homeDie (s.site * 64))).held.filter (fun y => y.pa / 64 == s.site) = [x] ∧ x.pa % 64 + x.bytes.length ≤ 64 ∧ (∀ e < 4, (rdcGet s e s.site).mask = 0) ∧ ∀ y ∈ (getDie (kHome true) 0).held, y.pa / 64 ≠ 0x4000 := by decide
theorem witness_HomeEvents_rdc : let s := kHome false
    HomeOpen s 0x5000 ∧ (getDie s (homeDie (0xA00 * 512))).dir.length < 24 ∧ (∃ p ∈ (getDie s 1).rdc, p.1 / 8 = 0xA00 ∧ p.2.mask ≠ 0) ∧
      (∀ p ∈ (getDie s 2).rdc, p.1 / 8 = 0xA00 → p.2.mask = 0) ∧ ((getDie s 0).buf.filter (fun c => !c.spilled)).length < 65536 := by decide

def kReq1 : PageReq := { tag := 5, ctxid := 0x10000, ctx := 1, granule := 0x123, kind := 1, posted := true }
theorem witness_HostEvents_pgresp : let s := { kit2 [] [] with dies := [(2, { (default : Die) with reqs := [kReq1] })] }
    ∀ n ∈ [0x0005001000080000, 0x0005001000000000, 0x0005001000100000], let v := BitVec.ofNat 64 n
      7 ≤ s.regs.stage ∧ tagDie s (v.extractLsb' 48 16).toNat = some (2, kReq1) ∧ (∀ w ∈ s.waves, w.log = [] ∧ ∀ l ∈ w.lanes, l.st = .ready) ∧
      (getCtx s 1).ctxid = kReq1.ctxid ∧ (getCtx s 1).stat ≠ .killed ∧ kReq1.ctxid.extractLsb' 16 12 = v.extractLsb' 36 12 ∧
      (decide (kReq1.ctxid.extractLsb' 0 16 = v.extractLsb' 20 16) = decide (n ≠ 0x0005001000100000)) := by decide +kernel
def kPctl (p : CtxStat × W64) : State := withCtx (fun x => { x with stat := p.1, csa := p.2 }) (kit2 [] [])
theorem witness_HostEvents_pctl : ∀ p ∈ [(CtxStat.live, (0x180001 : W64)), (.live, 0), (.saved, 0x180001)], let s := kPctl p
    PctlFree s 0x10000 1 ∧ (getCtx s 1).stat = p.1 ∧ ((getCtx s 1).csa.getLsbD 0 = decide (p.2 ≠ 0)) ∧ hasWork s 1 = true ∧ ctxSlots s 1 = [] ∧ (getCtx s 1).saved.pinned = [] ∧
      (s.waves.map (·.id)).Nodup ∧ (∀ w ∈ s.waves, w.log = []) ∧ stillRuns s 1 = false ∧ (∀ d < 4, (getDie s d).held = [] ∧ (getDie s d).rdc = [] ∧ ∀ p ∈ (getDie s d).dir, p.2.host = false) ∧ Untraced s 0 ∧
      (∀ e ∈ s.agenda ++ s.stalled, e.2 ≠ .teamAdmit) := by
  unfold PctlFree Untraced; decide +kernel
/-- Lanes wait for the home's answer to a SUBSCRIBE. -/
theorem witness_HostEvents_pctl_runs : let s := withLanes (fun l => { l with st := .waiting (.status 8) }) (kPctl (.live, 0x180001))
    PctlFree s 0x10000 1 ∧ (getCtx s 1).stat = .live ∧ hasWork s 1 = true ∧ stillRuns s 1 = true := by unfold PctlFree; decide +kernel
theorem witness_HostEvents_resume : let s := { withCtx (fun x => { x with stat := .resuming, saved := { teams := [kTeam], waves := [kWave [] [kLane 0 []]] } }) (kit2 [] []) with site := 1, waves := [], teams := [] }
    (getCtx s s.site).stat = .resuming ∧ (getCtx s s.site).saved = { teams := [kTeam], waves := [kWave [] [kLane 0 []]] } ∧ kTeam.gang = none ∧ kTeam.cluster < 256 ∧ s.waves = [] ∧ s.teams = [] ∧ kTeam.arr.tcon = none ∧ kTeam.again = none ∧ kTeam.againRing = none ∧
      (seatTeam kTeam [kWave [] [kLane 0 []]] 0 s).isSome = true := by decide +kernel
theorem witness_HostEvents_gdoor : ∀ np ∈ [3, 4], let s := { kGraph true np 0 with regs := { (default : PkgRegs) with stage := 7, gobj := 0x107000 } }
    7 ≤ s.regs.stage ∧ s.regs.gstat.getLsbD 63 = false ∧ ctxByPair s 1 0 = some 1 ∧ ctxByPair s 2 1 = none ∧ InWindowOf s 1 0x107000 128 0x107000 ∧ (∀ k < 128, HomeQuiet s 0 (0x107000 + k)) ∧
      s.regs.gobj.toNat % 128 = 0 ∧ graphOk (windowNumOf s 1 0x107000 64) = true ∧ s.regs.gpatch = 0 ∧ windowNumOf s 1 0x107018 8 / 2 ^ 31 % 2 = 1 ∧
      windowNumOf s 1 0x107018 8 / 2 ^ 28 % 8 = np := by unfold InWindowOf HomeQuiet; decide +kernel
theorem witness_HostEvents_qnc : let s := { kSpawn 0 with dies := [(0, { (default : Die) with slots := [(5, kQ 0)], regs := { (default : HostRegs) with qna := [(5, 0x101200)] } })] }
    7 ≤ s.regs.stage ∧ ctxByPair s 1 0 = some 1 ∧ ctxByPair s 3 0 = none ∧ getSlot s 0 5 = some (kQ 0) ∧ (kQ 0).desc = aget 0 (getDie s 0).regs.qna 5 ∧ (getDie s 0).regs.qncQ = [] := by decide +kernel
theorem witness_HostEvents_dispatch : let s := { kQm [(5, kQ 1)] [] with regs := { (default : PkgRegs) with stage := 7, funcmode := 1 } }
    let v : W64 := 0x10005
    getSlot s 0 (v.extractLsb' 0 8).toNat = some (kQ 1) ∧ (getCtx s 1).stat = .live ∧ sharesAllow s 0 5 (kQ 1) = true ∧ canLaunch s (kQ 1) 0 = true ∧ (v.extractLsb' 16 8).toNat ≠ 0 ∧
      queueTeam s (kQ 1) 0 = some 1 ∧ (kQ 1).cart = false ∧ unclaimed s 0 5 (kQ 1) = 1 ∧ heldSoon s 0 5 = 0 := by decide +kernel
theorem witness_HostEvents_registers : let s := { State.reset with regs := { (default : PkgRegs) with stage := 7 } }
    7 ≤ s.regs.stage ∧ s.waves = [] ∧ s.teams = [] ∧ s.grids = [] ∧ s.ctxs = [] ∧ (∀ p ∈ s.dies, p.2.slots = [] ∧ p.2.sbe = [] ∧ p.2.builds = []) ∧ s.clusters = [] ∧
      (∀ d < 4, ∀ q ∈ (getDie s d).reqs, q.posted = true) ∧ (kit2 [] []).waves ≠ [] := by decide
def kAttest : State := { kit2 [] [] with regs := { (default : PkgRegs) with stage := 7, attbuf := 0x120000, attctl := 2 }, site := 1 }
def kGo (b : Bool) : State := { kAttest with regs := { kAttest.regs with attctl := if b then 2 else 0 }, site := 0 }
theorem witness_HostEvents_go : ∀ b ∈ [false, true], (kGo b).regs.attctl.getLsbD 1 = b ∧ (kGo b).site ≠ 1 := by decide
theorem witness_HostEvents_attestation : kAttest.regs.attnonce.length = 8 ∧ kAttest.regs.attctl.getLsbD 1 = true ∧ kAttest.site = 1 ∧
    ∀ k < 7507, HomeQuiet kAttest (homeDie (0x120000 + k)) (0x120000 + k) ∧ exists_ kAttest (0x120000 + k) = true ∧ (rdcGet kAttest 0 ((0x120000 + k) / 64)).mask = 0 := by
  have hd (a : Nat) (h : a < 2 ^ 37) : homeDie a = 0 := by unfold homeDie; rw [if_pos (by omega)]; omega
  have hdir (k : Nat) (h : k < 7507) : getDir kAttest ((0x120000 + k) / 64 / 8) = {} := by
    unfold getDir; rw [hd _ (by omega)]; rfl
  refine ⟨rfl, by decide, rfl, fun k hk => ⟨⟨rfl, by omega, rfl, ⟨?_, ?_⟩, ?_, ?_, ?_⟩, ?_, rfl⟩⟩
  · rw [hd _ (by omega)]; rfl
  · rw [hd _ (by omega)]; exact fun p hp => absurd (show p ∈ ([] : List (Nat × DirEntry)) from hp) (by simp)
  · unfold asksHost; rw [hdir k hk]
  · rw [hd _ (by omega)]; rfl
  · rw [hd _ (by omega)]; exact fun f hf => absurd (show f ∈ ([] : List Fill) from hf) (by simp)
  · have hb : inHbm (0x120000 + k) = true := decide_eq_true (by omega)
    have hl : lostHbm kAttest (0x120000 + k) = false := by unfold lostHbm; rw [hd _ (by omega)]; rfl
    simp [exists_, inPackage, hb, hl]

theorem witness_ErrorsAndPower : (∀ d < 4, Untraced (kit2 [] []) d) ∧ ctxsOn (kit2 [] []) 9 = [] ∧ (∃ x ∈ (kit2 [] []).teams, x.cluster = 0 ∧ x.retired = false) ∧
    (∀ x ∈ (kit2 [] []).teams, x.cluster = 9 → x.retired = true) ∧ (getDie (kit2 [] []) 0).rdc = [] ∧ Issues (kit2 [] []) ∧ Handles (kit2 [] []) := by unfold Untraced Issues Handles; decide
theorem witness_ErrorsAndPower_failure : ∀ b ∈ [false, true], let s := { kit2 [] [] with regs := { (default : PkgRegs) with funcmode := if b then 4 else 0 } }
    s.site = 0 ∧ s.regs.funcmode.getLsbD 2 = b ∧ Untraced s 0 ∧ ctxsOn s 9 = [] := by unfold Untraced; decide
/-- Four clusters of the die have been replaced: no spare is left. -/
theorem witness_ErrorsAndPower_spare : spareLeft { kit2 [] [] with dies := [(0, { (default : Die) with spared := List.replicate 4 (.cluster 1) })] } 0 (.cluster 9) = false :=
  by decide
/-- A context whose save area is named works on cluster 0: lanes wait for the home's answer to a SUBSCRIBE. -/
theorem witness_ErrorsAndPower_preempt : let s := withLanes (fun l => { l with st := .waiting (.status 8) }) (kPctl (.live, 0x180001))
    s.site = 0 ∧ Untraced s 0 ∧ ctxsOn s 0 = [1] ∧ (getCtx s 1).stat = .live ∧ (getCtx s 1).csa.getLsbD 0 = true ∧ s.regs.pctl.getLsbD 32 = false ∧ stillRuns s 1 = true := by
  unfold Untraced; decide +kernel

/-- An entry of one load. -/
def logOf (wt : LogWait) : LogEntry := { ins := .ld (mo 3 0), pc := 0x10000, lanes := [{ lane := 0, addr := 0x1FFFC0, data := [], wait := wt }] }
theorem oneLogged_lanes : ∀ k ∈ [kLane 0 [], kLane 1 []], k.due = [] ∧ ∀ i, k.st ≠ .waiting (.first i) := by
  intro k hk
  simp only [List.mem_cons, List.not_mem_nil, or_false] at hk
  obtain rfl | rfl := hk <;> exact ⟨rfl, fun i h => LaneSt.noConfusion h⟩
theorem witness_WaitingWorkReturns_load : ∀ wt ∈ [LogWait.data, .page (some 3)], let w := { kWave [] [kLane 0 [], kLane 1 []] with log := [(4, logOf wt)] }
    let s := { kMem with waves := [w] }
    s.site = w.id ∧ alive (kLane 0 []) = true ∧ OneLogged s w (mo 3 0) 4 wt (kLane 0 []) 0x1FFFC0 := by
  intro wt hw
  simp only [List.mem_cons, List.not_mem_nil, or_false] at hw
  obtain rfl | rfl := hw <;>
    exact ⟨rfl, rfl, by decide, by decide, by decide, by decide, oneLogged_lanes, rfl, logOf _, _, rfl, rfl, rfl, rfl, rfl, rfl, rfl, rfl, by unfold InWindowOf; decide, by unfold HomeQuiet; decide⟩
def kMiss (walking : Bool) : Miss := { ctx := 1, granule := 3, kind := 0, cluster := 0, walking }
theorem witness_WaitingWorkReturns_walks : ∀ b ∈ [false, true], let s := { kPaged with dies := [(0, { (default : Die) with misses := [kMiss b] })] }
    (getDie s s.site).misses.find? (fun m => m.walking == b) = some (kMiss b) ∧ (getDie s s.site).misses.length ≤ 64 ∧
      (∀ m ∈ (getDie s s.site).misses, m.cluster / 64 = s.site) ∧ (∀ j < 64, (getCluster s (64 * s.site + j)).missq = []) ∧ (getDie s s.site).misses ≠ [] := by decide +kernel
theorem witness_WaitingWorkReturns_joins : let s := withCluster { (default : Cluster) with missq := [kMiss false] } kPaged
    (getDie s s.site).misses = [] ∧ (getCluster s 0).missq = [kMiss false] ∧ (kMiss false).cluster = 0 ∧ ∀ i < 64, i ≠ 0 → (getCluster s i).missq = [] := by decide +kernel
def kCopy : PageCopy := { ctx := 1, granule := 5, pteAddr := 0x90008, pte := 0x0080000000050FFC, frame := 0x200000 }
def kCopies : State := { kit2 [] [] with dies := [(0, { (default : Die) with copies := [kCopy] })] }
theorem witness_WaitingWorkReturns_copy : (getDie kCopies kCopies.site).copies = [kCopy] ∧ (∀ w ∈ kCopies.waves, w.log = []) ∧ (getDie kCopies 0).regs.prqbase.getLsbD 0 = false ∧
    kCopy.pte.toNat / 65536 % 2 ^ 32 * 65536 = 0x50000 ∧ kCopy.frame % 65536 = 0 ∧ kCopy.frame < 2 ^ 39 ∧ kCopy.pteAddr % 8 = 0 ∧ apart 0x50000 65536 kCopy.frame 65536 ∧
    apart kCopy.pteAddr 8 0x50000 65536 ∧ apart kCopy.pteAddr 8 kCopy.frame 65536 ∧
    (∀ k < 65536, HomeQuiet kCopies (homeDie (0x50000 + k)) (0x50000 + k) ∧ HomeQuiet kCopies (homeDie (0x200000 + k)) (0x200000 + k)) ∧ HomeQuiet kCopies 0 0x90008 := by
  have quiet (a : Nat) (h : a < 2 ^ 37) : HomeQuiet kCopies (homeDie a) a := by
    have hd : homeDie a = 0 := by unfold homeDie; rw [if_pos (by omega)]; omega
    have hdir : getDir kCopies (a / 64 / 8) = {} := by
      unfold getDir homeDie; rw [if_pos (by omega), show a / 64 / 8 * 512 / 2 ^ 37 % 4 = 0 by omega]; rfl
    rw [hd]
    exact ⟨hd, by omega, rfl, ⟨rfl, fun p hp => absurd (show p ∈ ([] : List (Nat × DirEntry)) from hp) (by simp)⟩, by unfold asksHost; rw [hdir], rfl,
      fun f hf => absurd (show f ∈ ([] : List Fill) from hf) (by simp)⟩
  exact ⟨by decide, by decide, by decide, by decide, by decide, by decide, by decide, by unfold apart; decide, by unfold apart; decide, by unfold apart; decide, fun k hk => ⟨quiet _ (by omega), quiet _ (by omega)⟩, quiet _ (by omega)⟩
def kHand : Hand := { id := 5, trap := { code := 8, tval := 0x77 }, cmd := { cpyC with lanes := [0] }, cb := none }
theorem witness_WaitingWorkReturns_hand : ∀ b ∈ [false, true], let s := { withLanes (fun l => { l with h := b }) (kit1 [] []) with hands := [kHand], site := 5 }
    s.hands.find? (fun x => x.id == s.site) = some kHand ∧ handReady s kHand = !b ∧ s.waves.find? (fun x => x.id == kHand.cmd.wave) = s.waves.head? ∧ (s.waves.map (·.id)).Nodup ∧
      (∀ w ∈ s.waves, (w.lanes.map (·.id)) = [0] ∧ (∀ l ∈ w.lanes, alive l = true) ∧ (handlerPc s w.ctx).isSome = true) ∧ Untraced s 0 := by unfold Untraced; decide
theorem witness_WaitingWorkReturns_park : ∀ act ∈ [0, 1, 3], let s := withMem 0x100800 8 act (withLanes (fun l => { l with st := .fpParked, targ := 0x100800 }) (kit1 [] []))
    s.waves.find? (fun x => x.id == s.site) = s.waves.head? ∧ (∀ w ∈ s.waves, w.halted = false ∧ w.log = [] ∧ ∀ l ∈ w.lanes, l.st = .fpParked ∧ l.targ ≠ 0 ∧ l.held = false) ∧ (getCtx s 1).stat = .live ∧ s.posts = [] ∧
      InWindowOf s 1 0x100800 8 0x100800 ∧ (∀ k < 8, HomeQuiet s 0 (0x100800 + k)) ∧ windowNumOf s 1 0x100800 8 = act := by unfold InWindowOf HomeQuiet; decide +kernel
/-- A message ring of 4 at 0x104000. -/
def kPost (tail : Nat) : State := { withMem 0x104000 8 tail (withCtx (fun x => { x with supv := 0x104009 }) (kit1 [] [])) with posts := [{ ctx := 1, cluster := 0, msg := 7 }] }
theorem witness_WaitingWorkReturns_post : ∀ tail ∈ [3, 4], let s := kPost tail
    let x := (getCtx s 1).supv
    ((x.extractLsb' 6 46).setWidth 52 <<< 6).signExtend 64 = (0x104000 : W64) ∧ 2 ^ (x.extractLsb' 2 4).toNat = 4 ∧ windowNumOf s 1 0x104000 8 = tail ∧ windowNumOf s 1 0x104008 8 = 0 ∧
      (getDie s 0).rdc = [] ∧ (∀ p ∈ s.posts, postSaved s p = false ∧ p.msg < 2 ^ 256) := by decide +kernel
theorem witness_WaitingWorkReturns_post_places : ∀ tail ∈ [3, 4], let s := kPost tail
    InWindowOf s 1 0x104000 8 0x104000 ∧ InWindowOf s 1 0x104008 8 0x104008 ∧ (∀ k < 192, HomeQuiet s 0 (0x104000 + k)) := by unfold InWindowOf HomeQuiet; decide +kernel
theorem witness_WaitingWorkReturns_post_slot : ∀ k < 32, InWindowOf (kPost 3) 1 (0x1040A0 + BitVec.ofNat 64 k) 1 (0x1040A0 + k) := by unfold InWindowOf; decide +kernel
theorem witness_WaitingWorkReturns_remote : let r : Remote := { ctx := 1, who := [(0, 0)], cluster := 0, log := none, dev := 3, pa := 0x100, va := 0, pc := 0, bytes := [1, 2] }
    let s := { kit1 [] [] with remote := [r] }
    s.remote[0]? = some r ∧ (∀ j < 0, ∀ x, s.remote[j]? = some x → x.dev = r.dev → ofAgents x.who r.who = false) ∧ (getCtx s r.ctx).supv.getLsbD 0 = false ∧ s.site = 0 ∧ r.scatter = none ∧ r.agent = none :=
  ⟨rfl, fun j hj => absurd hj (by omega), by decide, rfl, rfl, rfl⟩
/-- A copy that waits on the agenda for its peer's answer. -/
theorem witness_WaitingWorkReturns_answer : let a : Agent := .event 0 .copyEngineDone
    let r : Remote := { ctx := 1, who := [], cluster := 0, log := none, dev := 3, pa := 0x100, va := 0, pc := 0, bytes := [], agent := some a, n := 8, kind := 0 }
    let s := { kit1 [] [] with remote := [r], agenda := [(0, .copyEngineDone)] }
    s.remote[0]? = some r ∧ r.log = none ∧ r.tcb = none ∧ r.scatter = none ∧ r.agent = some a ∧ agentWaits s a = true :=
  ⟨rfl, rfl, rfl, rfl, rfl, by decide⟩
theorem witness_WaitingWorkReturns_requests : ∀ head ∈ [0, 4], let s := { kit1 [] [] with dies := [(0, { (default : Die) with reqs := [{ kReq1 with posted := false }], regs := { (default : HostRegs) with prqbase := 0x110009, prqtail := 16, prqhead := BitVec.ofNat 64 head } })] }
    let r := (getDie s s.site).regs
    r.prqbase.getLsbD 0 = true ∧ 2 ^ (r.prqbase.extractLsb' 1 5).toNat = 16 ∧ Untraced s 0 ∧ (decide ((r.prqtail - r.prqhead).toNat < 16) = decide (head = 4)) ∧ HomeQuiet s 0 0x110000 ∧
      exists_ s 0x110000 = true ∧ (getDie s 0).rdc = [] := by unfold Untraced HomeQuiet; decide +kernel

/-- A state whose next step issues the word given, in the wave that withFetchWord starts; what the fetch goes through. -/
def kFetch (w : Nat) : State := State.reset.withFetchWord 64 w
def kMerged (w : Nat) : State := mergeSame 0 0 (startIssue (tick (kFetch w)))
def kReqF (w : Nat) : XReq :=
  { ctx := (curWave (kMerged w)).ctx, cluster := (curWave (kMerged w)).cluster, h := (active (kMerged w)).all (·.h), acc := .fetch, va := packetOf (curPc (kMerged w)), size := 16, unit := tlbUnit (curWave (kMerged w)) }
def kFetched (w : Nat) : State := (xlat (kReqF w) (kMerged w)).1
theorem xlat_kFetch : ∀ w ∈ [0x150FFFF7, 0x950FFFF7, 0x7FFFFFFF, 0xFC00000060081000], (xlat (kReqF w) (kMerged w)).2 = .ok (.loc placeAt 0) := by decide +kernel
theorem fetchedAt_kFetch : ∀ w ∈ [0x150FFFF7, 0x950FFFF7, 0x7FFFFFFF, 0xFC00000060081000], FetchedAt (kFetch w) (kMerged w) (kFetched w) 0 0 placeAt := by
  intro w hw
  have h : xlat (kReqF w) (kMerged w) = (kFetched w, .ok (.loc placeAt 0)) := Prod.ext (by simp only [kFetched]) (xlat_kFetch w hw)
  refine ⟨?_, by unfold kMerged; rfl, ?_, ⟨0, h⟩, ?_, ?_, ?_, ?_, ?_, ?_⟩ <;> clear h <;> revert w <;> decide +kernel
/-- MOVI of -5 into w3; the same word under a condition of a chain; an unassigned major; a function number outside its list. -/
theorem witness_StepRunsDecoded : (∀ w ∈ [0x150FFFF7, 0x950FFFF7, 0x7FFFFFFF, 0xFC00000060081000], wordAt (kFetched w) placeAt 0 = BitVec.ofNat 32 w) ∧
    (decode 0x150FFFF7 (some 0)).toOption = some (.moviIw { c := false, d := 3, imm := 0x1FFFB, k := true }) := by decide +kernel
/-- A chain of two: MOVI into w3, then ADD of v4 and v5 into v6; none of its words has to wait. -/
def kChain : State := kFetch 0x01184140950FFFF7
theorem witness_StepRunsDecoded_chain : nextMove (tick kChain) = .issue 0 0 ∧ (match prepare 0 0 (startIssue (tick kChain)) with
    | (s3, .run i c rest) => decide (rest.length = 1) && decide (holdChain exec s3 rest = none) && !gathersChain exec s3 rest &&
        (match runWords exec ((i, c) :: rest.map (fun y => (y.ins, y.c))) s3 with
          | .next t => (curWave t).lanes.all (fun l => l.chainPc.isNone)
          | _ => false)
    | _ => false) = true := by decide +kernel
/-- A wave-only instruction (DISCARD) that a cart thread fetches. -/
theorem witness_StepRunsDecoded_cart : ((decode 0x57249000 none).toOption.bind use |>.any (·.waveOnly)) = true := by decide +kernel
/-- An event on the agenda, an idle machine, a settled one. -/
theorem witness_StepRunsDecoded_event : nextMove (tick { kOne false with agenda := [(0, .pctlDone)] }) = .event 0 .pctlDone ∧ nextMove (tick State.reset) = .idle := by decide +kernel
theorem step_kFetch : (match step (kFetch 0x150FFFF7) with | .next t => decide (t.waves.map (·.w.take 4) = [[0, 0, 0, -5]]) | _ => false) = true := by decide +kernel
theorem witness_SettledInvariant : Settled (kFetch 0x150FFFF7) ∧ ∃ t, step (kFetch 0x150FFFF7) = .next t ∧ t.waves.map (·.w.take 4) = [[0, 0, 0, -5]] := by
  refine ⟨?_, ?_⟩
  · have ready : ∀ w ∈ (kFetch 0x150FFFF7).waves, ∀ l ∈ w.lanes, l.st = .ready := by decide +kernel
    intro w hw
    refine ⟨?_, fun l hl hp => ?_, ?_⟩
    · revert w; decide +kernel
    · rw [ready w hw l hl] at hp; exact LaneSt.noConfusion hp
    · revert w; decide +kernel
  · have h := step_kFetch
    generalize step (kFetch 0x150FFFF7) = o at h
    match o, h with
    | .next t, h => exact ⟨t, rfl, of_decide_eq_true h⟩

/-! ### Well-formedness: an ill-formed term for each check, which the check refuses -/

def vvv (d a b : Nat) : XR := xr (rg d a b) .v .v .v .v 0 0 0
def bad (cart : Bool) (regs : Nat) (is : List Instr) : Bool := is.all (fun i => !i.wf cart regs)
def good (cart : Bool) (regs : Nat) (is : List Instr) : Bool := is.all (fun i => i.wf cart regs)
def xi0 : XI := { c := false, d := 1, a := 2, g := 0, n := false, k := false, imm := 7 }
def adv : List Instr := [.add (.xr (vvv 1 2 3)), .add (.xi xi0), .mad (xr (rg 1 2 3) .v .v .v .v 0 4 0), .add (.xr (xr (rg 2 4 6) .v .v .v .v 6 0 0)), .fadd (.xr (vvv 1 2 3)), .movi xi0]
theorem test_wellFormed_alu : good false 64 (adv.take 5) = true := by decide
/-- Guard G = 0 with GN = 1; bit 0 of an XR word; a reserved TY; MD not 0; rounding on an integer; D of class m; A of class m; a w destination from a v source; an unread C; an odd
register pair with TY 6; an A field under MOVI; a register beyond the allocation (R115, R159, R161, R162, R174). -/
theorem test_illFormed_alu : bad false 64 [.add (.xr { vvv 1 2 3 with h := { rg 1 2 3 with n := true } }), .add (.xr { vvv 1 2 3 with h := rgx 1 2 3 }), .add (.xr { vvv 1 2 3 with ty := 1 }),
    .add (.xr { vvv 1 2 3 with md := 1 }), .add (.xr { vvv 1 2 3 with rm := .rz }), .add (.xr { vvv 1 2 3 with kd := .m }), .add (.xr { vvv 1 2 3 with ka := .m }), .add (.xr { vvv 1 2 3 with kd := .w }),
    .add (.xr { vvv 1 2 3 with rc := 4 }), .add (.xr (xr (rg 2 5 6) .v .v .v .v 6 0 0)), .movi xi0] = true ∧ bad false 8 [.add (.xr (vvv 1 2 8))] = true ∧ good false 8 [.add (.xr (vvv 1 2 7))] = true := by decide
/-- CMP into v; CMP with an unsigned equality; SEL from a v mask; MOV between masks; MOVH of 17 bits into v; LEA with a shift of 8; FCVT from a type to itself; DOT4 with TY 0; WMUL without a
group; QUANT of ratio 8; PACK of ratio 16 (R183 to R194). -/
theorem test_illFormed_forms : bad false 64 [.cmp (vvv 1 2 3), .cmp { vvv 1 2 3 with kd := .m, md := 8 }, .sel (vvv 1 2 3), .mov { vvv 1 2 0 with kd := .m, ka := .m }, .movh { xi0 with a := 0, imm := 0x10000 },
    .lea { vvv 2 4 3 with md := 8 }, .fcvt { vvv 1 2 0 with md := 0 }, .dot4 { vvv 1 2 3 with rc := 4 }, .wmul { vvv 1 2 3 with ty := 2 }, .quant { vvv 1 8 3 with md := 3 }, .pack { vvv 1 0 0 with md := 3 }] = true := by decide
/-- SHFL of a w register; VOTE of a v register; REDUX.fadd of 64 bits; SCAN mode 11; ELECT into v; a mask instruction with B unread (R195 to R200). -/
theorem test_illFormed_lanes : bad false 64 [.shfl { vvv 1 2 3 with ka := .w }, .vote { vvv 1 2 0 with kd := .m }, .redux { vvv 2 4 0 with ty := 6, md := 8 }, .scan { vvv 1 2 0 with md := 11 }, .elect (vvv 1 0 0),
    .mnot (rg 1 2 3)] = true ∧ good false 64 [.mnot (rg 1 2 0), .elect { vvv 1 0 0 with kd := .w }] = true := by decide
/-- A chained branch; SETMEET.u; BRX of an odd pair; a RET with A; EXIT with a code; a guarded YIELD (R201 to R206). -/
theorem test_illFormed_control : bad false 64 [.setmeet (br 1 true), .brx (rg 0 3 0), .ret (rg 0 1 0), .exit (z 1), .yieldv { z 0 with g := 2 }] = true ∧
    good false 64 [.bra (br 1 true), .bra { br 1 false with c := true }, .setmeet (br 1 false), .brx (rg 0 2 1), .ret (rg 0 0 1), .exit (z 0), .yieldv (z 0), .nop (z 0)] = true := by decide
/-- SZ 4; an index named with NB; a 64-bit v base beside KA; a pair at an odd register; a release on a load; .sx of a whole word; a CAS group across its alignment; PREFETCH with D; STC from a v
base; SCATTER with one address; a local access through a pair (R165, R208 to R219, R228). -/
theorem test_illFormed_memory : bad false 64 [.ld (ma (rg 8 1 0) 4 0 0), .ld (ma (rg 8 1 2) 2 0 0), .ld { ma (rg 8 2 0) 2 0 0 with p64 := true }, .ld (ma (rg 9 1 0) 3 0 0), .ld { ma (rg 8 1 0) 2 0 0 with ord := .rel },
    .ld (ma (rg 8 1 0) 2 1 0), .atom (ma (rg 9 1 0) 2 9 0), .prefetch (ma (rg 8 1 0) 0 0 0), .stc { ma (rg 8 1 0) 2 0 0 with ka := false, p64 := true }, .scatter (ma (rg 8 1 0) 2 0 0),
    .ldlm { ma (rg 8 2 0) 2 0 0 with ka := false, p64 := true }] = true ∧ good false 64 [.ld (ma (rg 8 1 0) 3 0 0), .ld (ma (rg 8 1 0) 1 1 0), .atom (ma (rg 8 1 0) 2 9 0), .st (ma (rg 8 1 0) 0 0 0)] = true := by decide
/-- FENCE without an order; DRAIN and CBINIT with a field that they do not read; GBAR at scope 0; SUBSCRIBE of format 5; CPYQ with GS 3; PUB with D (R221 to R234). -/
theorem test_illFormed_sync : bad false 64 [.fence { sy 0 0 0 with ord := .plain }, .drain (sy 0 0 0), .cbinit { sy 1 2 3 with ord := .plain, scope := 0 }, .gbar { sy 0 1 0 with ord := .plain, scope := 0 },
    .subscribe (rg 1 2 0) { mode := false, fmt := 5 }, .cpyq (rg 1 2 3) { (default : CpyqP) with gs := 3 }, .pub (rg 1 2 0) default] = true ∧ good false 64 [.fence (sy 0 0 0)] = true := by decide
/-- TLEASE with D; TRING of a half to itself; TLDB of type 6; TMMQ without CE; TMSP with C unread; TEPI with ACT 3; an accumulator 8; TCON with B (R242 to R256). -/
theorem test_illFormed_tensor : bad false 64 [.tlease (rg 1 0 0), .tring (rg 1 1 0), .tldb (rg 0 1 2) { ty := 6, half := false }, .tmmq (rg 0 1 2) default, .tmsp (rg 0 1 2) { (default : TmspP) with c := 3 },
    .tepi (rg 1 2 3) { (default : TepiP) with act := 3 }, .tzero (rg 8 0 0), .tcon (rg 0 1 2) default] = true ∧ good false 64 [.tlease (rg 0 0 4), .tring (rg 1 0 0), .tzero (rg 7 0 0)] = true := by decide
/-- RAST with SPP 3; DISCARD of two registers; TBIND of slot 8; TEX into v3; IBOX into an odd pair; a CPLFLUSH under a guard; an unlisted CSR; a write to a read-only CSR; the high half of a
CSR through a w register; TLBINV.all with A; a w register with SPAWN's D unread (R265 to R315, R335, R354). -/
theorem test_illFormed_units : bad false 64 [.rast (rg 8 10 20) { (default : RastP) with spp := 3 }, .discard (rg 9 8 0), .tbind (rg 8 1 0), .tex (rg 3 4 7) default, .ibox (rg 17 0 8) {}, .cplflush { rg 0 0 0 with g := 1 },
    .csrr (cr 4 0x7FF), .csrw (cr 4 0x001), .csrr (cr 4 0x821), .tlbinvAll (rg 2 1 0), .spawn (rg 1 4 8) default, .launchGrid (rgx 1 4 0) {}] = true := by decide
/-- A mailbox on a wave and a ninth one on a cart; an event on die 4, at cluster 256, at slot 256; an assigned major named unassigned (R142, R313). -/
theorem test_illFormed_executor : bad false 64 [.mov { vvv 1 2 0 with ka := .mb }] = true ∧ bad true 64 [.mov { vvv 1 8 0 with ka := .mb }] = true ∧ good true 64 [.mov { vvv 1 7 0 with ka := .mb }] = true ∧
    bad false 64 [.fillReturn 4 0, .homeStore 256 0 [], .qnc 0 256 0, .unassignedMajor 0x3F000000] = true := by decide

/-! ### Decoding: words written out from the encodings of the specification -/

def dec (w : W32) (next : W32 := 0) : Option Instr := (decode w (some next)).toOption
/-- C and OP (bits 31 to 24), D, A, B (6 bits each), then the format's fields; the words are the encoding sections' own examples. -/
theorem test_decode_one : dec 0x150FFFF7 = some (.moviIw { c := false, d := 3, imm := 0x1FFFB, k := true }) ∧ dec 0x38FFFF41 = some (.bra (br 0x3FFFD true)) ∧
    dec 0x3D000008 = some (.exit { z 0 with g := 2 }) ∧ dec 0x4A001200 = some (.trap (z 0x12)) ∧ dec 0x3F000000 = some (.nop (z 0)) ∧ dec 0x4E000000 = some (.eret (z 0)) ∧
    dec 0x4F000700 = some (.sysc (z 7)) ∧ dec 0x4C140841 = some (.csrr (cr 5 0x021)) ∧ dec 0x4D240400 = some (.csrw { cr 9 0x010 with k := false }) := by decide
theorem test_decode_sy : dec 0x40000014 = some (.fence { sy 0 0 0 with scope := 2, ord := .rel }) ∧ dec 0x40000012 = some (.fence { sy 0 0 0 with scope := 2, ord := .acq }) ∧
    dec 0x450061C0 = some (.cbinit { sy 0 6 7 with scope := 0, ord := .plain }) ∧ dec 0x48006000 = some (.cbwait { sy 0 6 0 with scope := 0, ord := .plain }) := by decide
theorem test_decode_rg : dec 0x500000C0 = some (.tlease (rg 0 0 3)) ∧ dec 0x51000000 = some (.trel (rg 0 0 0)) ∧ dec 0x53040000 = some (.tring (rg 1 0 0)) ∧ dec 0x54201240 = some (.tracc (rg 8 1 9)) ∧
    dec 0x56004140 = some (.hizupd (rg 0 4 5)) ∧ dec 0x57249000 = some (.discard (rg 9 9 0)) ∧ dec 0x57249001 = some (.discard (rgx 9 9 0)) ∧ dec 0x580C6000 = some (.tbind (rg 3 6 0)) ∧
    dec 0x58000001 = some (.tbindFlush (rgx 0 0 0)) ∧ dec 0x59000000 = some (.cplflush (rg 0 0 0)) ∧ dec 0x59004040 = some (.cplflushPc (rg 0 4 1)) ∧ dec 0x5B0C0000 = some (.clkrd (rg 3 0 0)) ∧
    dec 0x5C004140 = some (.tlbinvVa (rg 0 4 5)) ∧ dec 0x5C040140 = some (.tlbinvCtx (rg 1 0 5)) ∧ dec 0x5C080000 = some (.tlbinvAll (rg 2 0 0)) := by decide
theorem test_decode_two : dec 0x63081000 0x09000008 = some (.redux { xr (rg 2 1 0) .w .v .v .v 0 0 8 with rm := .rne }) ∧ dec 0x63081000 0x0C000008 = some (.scan (xr (rg 2 1 0) .v .v .v .v 0 0 8)) ∧
    dec 0x631C3140 0x00180102 = some (.shfl (xr (rg 7 3 5) .v .v .w .m 0 2 2)) ∧ dec 0x61084000 0x40010004 = some (.fcvt { xr (rg 2 4 0) .v .v .v .v 0 0 4 with rm := .rz }) := by decide
theorem test_decode_memory : dec 0x6F080000 0x3A280008 = some (.atom (MA.mk (RG.mk false 2 0 0 0 false false) 1 .ar 2 0 true false true false 0 8)) ∧
    dec 0x67080000 0x0228000C = some (.st (ma (rg 2 0 0) 2 0 12)) ∧ dec 0x730C2100 0x01A00000 = some (.cpy (rg 3 2 4) { cb := 6, rel := true, scope := 0, dl := false, sl := false }) ∧
    dec 0x720C8000 2 = some (.subscribe (rg 3 8 0) { mode := false, fmt := 2 }) := by decide
theorem test_decode_units : dec 0x760461C1 0x10000000 = some (.tmma (rgx 1 6 7) { ty := 0, half := false }) ∧ dec 0x7600C000 0x50000000 = some (.tcon (rg 0 12 0) { scope := 0 }) ∧
    dec 0x79400241 = some (.ibox (rgx 16 0 9) {}) ∧ dec 0x79600241 0x10000000 = some (.itri (rgx 24 0 9) {}) ∧ dec 0x7A002000 0x00E00000 = some (.bld (rg 0 2 0) { cb := 3, rel := true, scope := 0 }) ∧
    dec 0x7C002000 0x04000000 = some (.mbpost (rg 0 2 0) { n := 2 }) ∧ dec 0x7C0061C0 0x10000000 = some (.reorder (rg 0 6 7) {}) ∧ dec 0x7C005000 0x20000000 = some (.migrate (rg 0 5 0) {}) ∧
    dec 0x7B004200 = some (.spawn (rg 0 4 8) { rel := false, scope := 0, nrs := 0 }) ∧ dec 0x7B0C8240 0x14000000 = some (.launchGraph (rg 3 8 9) {}) ∧
    dec 0x783041C0 0x08000000 = some (.tex (rg 12 4 7) { lod := true, ch := 0 }) := by decide
/-- A function number outside the list; a bit that must be 0; a two-word instruction whose second word lies past the packet's end (R154, R159, R161); an unassigned major, which traps (R166). -/
theorem test_decode_refused : (decode 0x60081000 (some 0xFC000000)).toOption = none ∧ (decode 0x3F000001 none).toOption = none ∧ dec 0x7F000000 = some (.unassignedMajor 0x7F000000) ∧ (decode 0x63081000 none).toOption = none := by decide
theorem test_encode : encode (.moviIw { c := false, d := 3, imm := 0x1FFFB, k := true }) = some (0x150FFFF7, none) ∧
    encode (.tmma (rgx 1 6 7) { ty := 0, half := false }) = some (0x760461C1, some 0x10000000) := by decide

/-! ### One step of single instructions, worked out by hand from the rules -/

def ran (i : Instr) (s : State) : State := match exec i s with | .next t => t | _ => State.reset
def vOf (i : Instr) (s : State) (k : Nat) : List W32 := (ran i s).waves.flatMap (fun w => w.lanes.map (fun l => vGet l k))
def wOf (i : Instr) (s : State) (k : Nat) : W64 := wGet (curWave (ran i s)) k
/-- 0xFFFFFFFF + 2 wraps; a w register takes 64 bits; the same register as source and destination (R178). -/
theorem test_add : vOf (.add (.xr (vvv 2 2 3))) (kit2 [] [(2, 0xFFFFFFFF), (3, 2)]) 2 = [1, 1] ∧
    wOf (.add (.xr (xr (rg 2 2 3) .w .w .w .v 0 0 0))) (kit2 [(2, 0xFFFFFFFF), (3, 2)] []) 2 = 0x100000001 := by decide
/-- Division by 0 gives all ones and the dividend; the most negative number by -1 gives itself and 0 (R179). -/
theorem test_div : vOf (.div (.xr (vvv 1 2 3))) (kit2 [] [(2, 7), (3, 0)]) 1 = [0xFFFFFFFF, 0xFFFFFFFF] ∧ vOf (.rem (.xr (vvv 1 2 3))) (kit2 [] [(2, 7), (3, 0)]) 1 = [7, 7] ∧
    vOf (.div (.xr (vvv 1 2 3))) (kit2 [] [(2, 0x80000000), (3, 0xFFFFFFFF)]) 1 = [0x80000000, 0x80000000] ∧ vOf (.rem (.xr (vvv 1 2 3))) (kit2 [] [(2, 0x80000000), (3, 0xFFFFFFFF)]) 1 = [0, 0] := by decide
/-- The high half of -1 times -1, signed and unsigned. -/
theorem test_mulh : vOf (.mulh (.xr (vvv 1 2 3))) (kit2 [] [(2, 0xFFFFFFFF), (3, 0xFFFFFFFF)]) 1 = [0, 0] ∧ vOf (.mulhu (.xr (vvv 1 2 3))) (kit2 [] [(2, 0xFFFFFFFF), (3, 0xFFFFFFFF)]) 1 = [0xFFFFFFFE, 0xFFFFFFFE] := by decide
/-- 1.0 + 2^-24 is a tie and goes to even, inexact; 1.0 / 0.0 sets DZ in FRCP (R119, R121, R123). -/
theorem test_fadd : vOf (.fadd (.xr (vvv 1 2 3))) (kit2 [] [(2, 0x3F800000), (3, 0x33800000)]) 1 = [0x3F800000, 0x3F800000] ∧
    vOf (.fadd (.xr { vvv 1 2 3 with rm := .ru })) (kit2 [] [(2, 0x3F800000), (3, 0x33800000)]) 1 = [0x3F800001, 0x3F800001] ∧ vOf (.frcp (vvv 1 2 0)) (kit2 [] []) 1 = [0x7F800000, 0x7F800000] := by decide +kernel
def kFour : State := kState (kWave [] [kLane 0 [(1, 0x4B800000)], kLane 1 [(1, 0x3F800000)], kLane 2 [(1, 0x3F800000)], kLane 3 [(1, 0xCB800000)]])
/-- The example of R199: the tree of REDUX.fadd gives 1.0 where the ascending SCAN loses it. -/
theorem test_redux_scan : wOf (.redux (xr (rg 2 1 0) .w .v .v .v 0 0 8)) kFour 2 = 0x3F800000 ∧
    vOf (.scan (xr (rg 2 1 0) .v .v .v .v 0 0 8)) kFour 2 = [0x4B800000, 0x4B800000, 0x4B800000, 0] := by decide +kernel
def kFull : State := kState (kWave [(9, 0), (11, 0x3F8000003F000000), (12, 0x400), (13, 0x3F8000003E800000), (14, 0x40000000000), (15, 0x3F8000003F400000), (20, 0), (30, 0x0040004000000000)]
  ((span 0 8).map (fun i => kLane i [])))
def kCov : State := ran (.rast (rg 8 10 20) { (default : RastP) with s := 30 }) kFull
/-- The example of R278: six lanes in order of position with sample token 0x88, then none; the walk is done. -/
theorem test_rast : (curWave kCov).lanes.map (fun l => vGet l 9) = [0x88, 0x88, 0x88, 0x88, 0x88, 0x88, 0, 0] ∧ wGet (curWave kCov) 20 = 0x8000000000000000 ∧
    (curWave kCov).lanes.map (fun l => vGet l 10) = [0x3E000000, 0x3EC00000, 0x3E000000, 0x3EC00000, 0x3F200000, 0x3E000000, 0, 0] := by decide +kernel
/-- MOVI as the first instruction that a fetch finds. -/
theorem test_first_instruction : (match step (State.reset.withFetchWord 32 0x150FFFF7) with | .next t => t.waves.map (fun w => wGet w 3) | _ => []) = [-5] := by decide +kernel
/-- R43: the stack is bit 9 xor bit 18, the channel bits 14 to 10 xor bits 23 to 19. -/
theorem test_hbm_channel : hbmStack 0x40200 = 0 ∧ hbmStack 0x200 = 1 ∧ hbmChannel 0x7C00 = 31 ∧ hbmChannel 0x80400 = 0 := by decide
/-- R370: a build handed to the host raises vector 6 of its die. -/
theorem test_bld_vector : (match exec (.bld (rg 0 2 0) bldP) (kBld true) with | .next t => t.msix | _ => []) = [6] ∧
    (match exec (.bld (rg 0 2 0) bldP) (kBld false) with | .next t => t.msix | _ => []) = [] := by decide +kernel

/-! ### The assembler: the examples of R165 and of the form choice (R171, R172) -/

open Sys2Proof.Chas in
/-- add, shl, ld chained: one packet with C in the first two, padded by nothing. -/
def chainLines : List Line := [
  { body := .dir .wave }, { body := .dir (.regs (.num 16)) }, { body := .dir (.entry "go") },
  { label := some "go", body := .ins (.add (.xr (xr (rg 3 1 2) .v .v .w .v 0 0 0))) },
  { chained := true, body := .ins (.shl (.xi { c := false, d := 7, a := 7, g := 0, n := false, k := true, imm := 3 })) },
  { chained := true, body := .ins (.ld (MA.mk (rg 8 4 1) 0 .plain 2 2 true false false false 0 64)) }]
open Sys2Proof.Chas in
def asmText (ls : List Line) : List W32 := match assemble { text := 0x100000, data := 0x200000 } [{ name := "k", lines := ls }] {} with | .ok p => p.1.text | .error _ => []
theorem test_chas_chain : asmText chainLines = [0x810C1081, 0x921C7007, 0x66204040, 0x02A00040] := by decide +kernel
/-- fadd in short and long form; a branch back to its own packet after a packet is full; a two-word instruction that would start at word 3. -/
theorem test_chas_forms : Chas.wordsOf false (.fadd (.xr (xr (rg 1 2 3) .v .v .w .v 0 0 0))) = [0x200420C1] ∧
    Chas.wordsOf false (.fadd (.xr { xr (rg 1 2 3) .v .v .w .v 0 0 0 with rm := .rz })) = [0x610420C0, 0x00110000] ∧
    asmText (chainLines.take 3 ++ [{ label := some "go", body := .ins (.nop (z 0)) }, { body := .ins (.nop (z 0)) }, { body := .ins (.nop (z 0)) },
      { body := .ins (.fadd (.xr { xr (rg 1 2 3) .v .v .w .v 0 0 0 with rm := .rz })) }, { body := .jump .bra 0 false false (.name "go") }])
      = [0x3F000000, 0x3F000000, 0x3F000000, 0x3F000000, 0x610420C0, 0x00110000, 0x38FFFFC0] := by decide +kernel
/-- A chain with two V words is refused (R157, R172). -/
theorem test_chas_refused : asmText (chainLines.take 4 ++ [{ chained := true, body := .ins (.fadd (.xr (xr (rg 9 5 6) .v .v .v .v 0 0 0))) }]) = [] := by decide +kernel

end Sys2Proof.Tests
end

/-! The machine right after reset. -/

namespace Sys2Proof.Proofs

open Sys2Proof Sys2Proof.Machine Sys2Proof.Spec Sys2Proof.Laws

/-- No wave, nothing unsettled. -/
theorem settled_reset : Settled State.reset := fun _ hw => absurd hw List.not_mem_nil

/-- Settles O60: every component is the value that reset gives it; an unlisted part reads as its default. -/
theorem resetState : Obligations.ResetState :=
  ⟨settled_reset, rfl, wf_reset, cellGet_nil, rfl, rfl, rfl, rfl, fun _ => rfl, fun _ => rfl, fun _ => ⟨rfl, rfl⟩, rfl⟩

end Sys2Proof.Proofs

/-! The checks of an address in their order (R11, R12, R17, R18). -/

namespace Sys2Proof.Proofs

open Sys2Proof Sys2Proof.Machine Sys2Proof.Spec Sys2Proof.Laws

/-- The bytes of a request are canonical at both ends: check 2 of R12. -/
def canonicalEnds (q : XReq) : Bool := canonical q.va && canonical (q.va + BitVec.ofNat 64 (q.size - 1))

theorem xlat_misaligned (q : XReq) (s : State) (hn : q.size ≠ 0) (h : q.va.toNat % q.size ≠ 0) : xlat q s = (s, .trap cALIGN false) := by
  unfold xlat
  rw [if_pos (by simp [hn, h])]

theorem xlat_noncanonical (q : XReq) (s : State) (ha : q.va.toNat % q.size = 0) (h : canonicalEnds q = false) : xlat q s = (s, .trap cNONCANON false) := by
  have h' : (!canonical q.va || !canonical (q.va + BitVec.ofNat 64 (q.size - 1))) = true := by rw [← Bool.not_and, ← canonicalEnds, h, Bool.not_false]
  unfold xlat
  rw [if_neg (by simp [ha]), if_pos h']

theorem xlat_part (q : XReq) (s : State) (ha : q.va.toNat % q.size = 0) (h : canonicalEnds q = true)
    (hw : inWindow (getCtx s q.ctx) q.va q.size = .part) : xlat q s = (s, .trap cPROT false) := by
  obtain ⟨h1, h2⟩ := Bool.and_eq_true_iff.mp h
  simp [xlat, ha, h1, h2, hw]

theorem xlat_inside (q : XReq) (s : State) (ha : q.va.toNat % q.size = 0) (h : canonicalEnds q = true)
    (hw : inWindow (getCtx s q.ctx) q.va q.size = .inside) (hf : q.acc ≠ .fetch) :
    xlat q s = (s, reach s q (.loc (winXlat (getCtx s q.ctx) q.va) 0)) := by
  obtain ⟨h1, h2⟩ := Bool.and_eq_true_iff.mp h
  simp [xlat, ha, h1, h2, hw, hf]

/-- Settles O23: one case for each of the checks of R12, in their order. -/
theorem windowTranslation : Obligations.WindowTranslation := by
  intro q s hn
  exact ⟨xlat_misaligned q s hn, xlat_noncanonical q s, xlat_part q s, xlat_inside q s⟩

end Sys2Proof.Proofs

/-! A trap that every lane of the issuing subgroup takes (R331 to R336): the whole next state. -/

namespace Sys2Proof.Proofs

open Sys2Proof Sys2Proof.Machine Sys2Proof.Spec Sys2Proof.Laws

/-! ### The issuing wave and its subgroup -/

theorem mapActive_eq_issueUpd (f : Lane → Lane) (s : State) : mapActive f s = issueUpd id f s := by
  simp only [mapActive, updCur, updWave, issueUpd, beq_iff_eq, id_eq]

theorem advance_eq_issueUpd (n : Nat) (s : State) : advance n s = issueUpd id (moved n) s := mapActive_eq_issueUpd _ s

theorem active_ne_nil (s : State) (hI : Issues s) : active s ≠ [] := by
  obtain ⟨_, _, _, hact, _⟩ := hI
  exact hact

/-- A subgroup with lanes belongs to a wave of the machine. -/
theorem find_curWave (s : State) (h : active s ≠ []) : s.waves.find? (fun w => w.id == s.cur.1) = some (curWave s) := by
  cases hf : s.waves.find? (fun w => w.id == s.cur.1) with
  | some w => simp [curWave, hf]
  | none => exact absurd (by simp only [active, curWave, hf]; rfl) h

theorem curWave_id (s : State) (h : active s ≠ []) : (curWave s).id = s.cur.1 := by
  simpa using List.find?_some (find_curWave s h)

/-- Members of a list whose images all differ are told apart by their images. -/
theorem eq_of_nodup_map {α β : Type} {f : α → β} {xs : List α} (hd : (xs.map f).Nodup) {a b : α} (ha : a ∈ xs) (hb : b ∈ xs) (he : f a = f b) : a = b := by
  induction xs with
  | nil => exact absurd ha List.not_mem_nil
  | cons x r ih =>
    rw [List.map_cons, List.nodup_cons] at hd
    obtain ⟨hx, hr⟩ := hd
    rcases List.mem_cons.mp ha with rfl | ha'
    · rcases List.mem_cons.mp hb with rfl | hb'
      · rfl
      · exact absurd (List.mem_map.mpr ⟨b, hb', he.symm⟩) hx
    · rcases List.mem_cons.mp hb with rfl | hb'
      · exact absurd (List.mem_map.mpr ⟨a, ha', he⟩) hx
      · exact ih hr ha' hb'

/-- Waves stand under different numbers: the one with the issuing number is the issuing one. -/
theorem eq_curWave (s : State) (hI : Issues s) (w : Wave) (hw : w ∈ s.waves) (hid : w.id = s.cur.1) : w = curWave s := by
  obtain ⟨hmem, hwaves, _, hact, _⟩ := hI
  exact eq_of_nodup_map hwaves hw hmem (hid.trans (curWave_id s hact).symm)

/-- The numbers of the active lanes tell them from the other lanes of their wave. -/
theorem contains_active_ids (s : State) (hI : Issues s) (l : Lane) (hl : l ∈ (curWave s).lanes) :
    ((active s).map (·.id)).contains l.id = issuing s.cur.2 l := by
  obtain ⟨_, _, hlanes, _⟩ := hI
  rw [Bool.eq_iff_iff, List.contains_iff_mem, List.mem_map]
  constructor
  · rintro ⟨a, ha, he⟩
    obtain ⟨ha1, ha2⟩ := List.mem_filter.mp ha
    rwa [← eq_of_nodup_map hlanes ha1 hl he]
  · exact fun hi => ⟨l, List.mem_filter.mpr ⟨hl, hi⟩, rfl⟩

/-- Two ways to change the machine agree where they agree on the issuing wave. -/
theorem updWave_eq_issueUpd (s : State) (hI : Issues s) (f : Wave → Wave) (g : Wave → Wave) (h : Lane → Lane)
    (he : f (curWave s) = { g (curWave s) with lanes := (curWave s).lanes.map (fun l => if issuing s.cur.2 l then h l else l) }) :
    updWave s.cur.1 f s = issueUpd g h s := by
  unfold updWave issueUpd
  congr 1
  refine List.map_congr_left (fun w hw => ?_)
  by_cases hid : w.id = s.cur.1
  · simp only [hid, beq_self_eq_true, if_true]
    rw [eq_curWave s hI w hw hid, he]
  · simp only [hid, beq_iff_eq, if_false]

theorem issueUpd_issueUpd (s : State) (f g : Lane → Lane) (hst : ∀ l, (g l).st = l.st) (hslot : ∀ l, (g l).slot = l.slot) :
    issueUpd id f (issueUpd id g s) = issueUpd id (fun l => f (g l)) s := by
  have hi (l : Lane) : issuing s.cur.2 (g l) = issuing s.cur.2 l := by simp only [issuing, hst, hslot]
  unfold issueUpd
  congr 1
  rw [List.map_map]
  refine List.map_congr_left (fun w _ => ?_)
  by_cases hid : w.id = s.cur.1
  · simp only [Function.comp, hid, if_true, id_eq, List.map_map]
    congr 1
    refine List.map_congr_left (fun l _ => ?_)
    cases hl : issuing s.cur.2 l <;> simp [hl, hi]
  · simp only [Function.comp, hid, if_false]

/-! ### A trap that every lane of the subgroup takes (R331 to R336) -/

theorem trapOf_map (ls : List Lane) (t : LaneTrap) (i : Nat) :
    trapOf (ls.map (fun l => (l.id, t))) i = if (ls.map (·.id)).contains i then some t else none := by
  induction ls with
  | nil => rfl
  | cons l r ih =>
    unfold trapOf at ih ⊢
    by_cases h : l.id = i
    · simp [h]
    · have h' : ¬ i = l.id := fun e => h e.symm
      simpa [List.find?_cons, h, h'] using ih

/-- Clearing the low four of 52 bits, by a mask and by division. -/
theorem and_packetMask (n : Nat) : n &&& 0x000FFFFFFFFFFFF0 = n % 2 ^ 52 / 2 ^ 4 * 2 ^ 4 := by
  refine Nat.eq_of_testBit_eq (fun i => ?_)
  rw [show (0x000FFFFFFFFFFFF0 : Nat) = (2 ^ 48 - 1) * 2 ^ 4 from rfl]
  simp only [Nat.testBit_and, Nat.testBit_mul_two_pow, Nat.testBit_two_pow_sub_one, Nat.testBit_div_two_pow, Nat.testBit_mod_two_pow]
  by_cases h : 4 ≤ i
  · simp only [show i - 4 + 4 = i by omega, show (i - 4 < 48) = (i < 52) from propext (by omega), h, decide_true, Bool.true_and, Bool.and_comm]
  · simp [h]

/-- The bits of TVEC that name the handler's packet (R334). -/
theorem linkBits_toNat (x : W64) : (linkBits x).toNat = x.toNat % 2 ^ 52 / 16 * 16 :=
  (BitVec.toNat_and x 0x000FFFFFFFFFFFF0).trans (and_packetMask x.toNat)

theorem handlerPc_of_handles (s : State) (h : Handles s) : handlerPc s (curWave s).ctx = some (handlerAt s) := by
  have hv : (getCtx s (curWave s).ctx).tvec.toNat % 2 ^ 52 / 16 * 16 ≠ 0 := by
    rw [← linkBits_toNat]
    exact fun e => h.1 (BitVec.eq_of_toNat_eq e)
  unfold handlerPc
  dsimp only
  rw [if_neg hv, ← linkBits_toNat, canon52, handlerAt, BitVec.ofNat_toNat]

theorem chrono_untraced (d src kind data : Nat) (s : State) (h : Untraced s d) : chrono d src kind data s = s := by
  have h' : bit (getDie s d).regs.chrbase 0 = false := h
  simp only [chrono, h', Bool.not_false, Bool.true_or, if_true]

/-- A lane of the issuing subgroup in its handler, in the slot that it had (R331 to R334). -/
def trapped (s : State) (t : LaneTrap) (l : Lane) : Lane := { enterHandler (handlerAt s) t false 0 0 l with slot := s.cur.2 }

/-- The lanes of the subgroup have one handler entry in their own slot, where all of them trap (R336). -/
theorem takeTraps_active (s : State) (hI : Issues s) (hH : Handles s) (t : LaneTrap) :
    takeTraps ((active s).map (fun l => (l.id, t))) s = issueUpd id (trapped s t) s := by
  obtain ⟨_, _, _, hact, _, hslots⟩ := id hI
  have hids : ((active s).map (fun l => (l.id, t))).map (·.1) = (active s).map (·.id) := by rw [List.map_map]; rfl
  have hne : ((active s).map (fun l => (l.id, t))).isEmpty = false := by simpa using hact
  obtain ⟨a, ha⟩ := List.exists_mem_of_ne_nil _ hact
  obtain ⟨hal, hai⟩ := List.mem_filter.mp ha
  obtain ⟨f, hf⟩ : ∃ f, (curWave s).lanes.find? (fun l => ((active s).map (·.id)).contains l.id) = some f :=
    Option.isSome_iff_exists.mp (List.find?_isSome.mpr ⟨a, hal, (contains_active_ids s hI a hal).trans hai⟩)
  have hfi : issuing s.cur.2 f = true := by
    rw [← contains_active_ids s hI f (List.mem_of_find?_eq_some hf)]
    simpa using List.find?_some hf
  obtain ⟨hfst, hfslot⟩ : f.st = .ready ∧ f.slot = s.cur.2 := by simpa [issuing] using hfi
  have halone : (curWave s).lanes.any (fun l => slotted l && l.st != .fpParked && l.slot == s.cur.2 && !((active s).map (·.id)).contains l.id) = false := by
    refine List.any_eq_false.mpr (fun l hl => ?_)
    rw [contains_active_ids s hI l hl]
    intro h
    simp only [Bool.and_eq_true, bne_iff_ne, beq_iff_eq, Bool.not_eq_true', issuing, Bool.and_eq_false_iff] at h
    obtain ⟨⟨⟨h1, h2⟩, h3⟩, h4⟩ := h
    rcases hslots l hl h1 h3 with h5 | h5
    · simp [h5, h3] at h4
    · exact h2 h5
  unfold takeTraps takeTrapsOf
  simp only [hne, Bool.false_eq_true, if_false, find_curWave s hact, handlerPc_of_handles s hH, hids, hf, hfst, hfslot, halone, Option.any_some]
  rw [chrono_untraced _ _ _ _ s hH.2]
  refine updWave_eq_issueUpd s hI _ id _ ?_
  simp only [id_eq]
  congr 1
  refine List.map_congr_left (fun l hl => ?_)
  rw [trapOf_map, contains_active_ids s hI l hl]
  cases issuing s.cur.2 l
  · rfl
  · rfl

/-- A trap that writes its cause alone into TCAUSE, beside PH (R332). -/
theorem trapped_eq_enter (s : State) (code : Nat) (tval tepc : W64) (hc : code < 256) :
    trapped s { code, tval, tepc } = enter s code tval tepc s.cur.2 := by
  funext l
  have hw : tcauseWord { code, tval, tepc } l.h false 0 0 = BitVec.ofNat 64 (code + if l.h then 2 ^ 60 else 0) := by
    refine congrArg (BitVec.ofNat 64) ?_
    cases l.h <;> simp only [Bool.toNat_false, Bool.toNat_true, Nat.zero_mul, Nat.one_mul, Nat.zero_add, Nat.zero_mod, Nat.add_zero, Nat.mod_eq_of_lt hc, if_true,
      Bool.false_eq_true, if_false, Nat.add_comm]
  unfold trapped enterHandler enter
  rw [hw]

/-- Every lane of the subgroup traps with one cause, TVAL and TEPC: the whole next state. -/
theorem takeTraps_active_eq_enter (s : State) (hI : Issues s) (hH : Handles s) (code : Nat) (tval tepc : W64) (hc : code < 256) :
    takeTraps ((active s).map (fun l => (l.id, { code, tval, tepc }))) s = issueUpd id (enter s code tval tepc s.cur.2) s := by
  rw [takeTraps_active s hI hH, trapped_eq_enter s code tval tepc hc]

theorem hasWave_of_active (s : State) (h : active s ≠ []) : HasWave s := by
  rw [HasWave, find_curWave s h]; rfl

theorem curWave_mem (s : State) (h : active s ≠ []) : curWave s ∈ s.waves := List.mem_of_find?_eq_some (find_curWave s h)

theorem curWave_advance (n : Nat) (s : State) (h : active s ≠ []) :
    curWave (advance n s) = { curWave s with lanes := (curWave s).lanes.map (fun l => if issuing s.cur.2 l then moved n l else l) } :=
  curWave_mapActive s (moved n) (hasWave_of_active s h)

/-- A subgroup that moves on issues as before. -/
theorem issues_advance (n : Nat) (s : State) (hI : Issues s) : Issues (advance n s) := by
  obtain ⟨hmem, hwaves, hlanes, hact, hpc, hslots⟩ := hI
  have hw := hasWave_of_active s hact
  have hact' : active (advance n s) ≠ [] := by rw [active_advance s n hw]; simpa using hact
  have hkeep (l : Lane) : (if issuing s.cur.2 l then moved n l else l).id = l.id ∧ (if issuing s.cur.2 l then moved n l else l).st = l.st ∧
      (if issuing s.cur.2 l then moved n l else l).slot = l.slot := by split <;> exact ⟨rfl, rfl, rfl⟩
  have hids : (curWave (advance n s)).lanes.map (·.id) = (curWave s).lanes.map (·.id) := by
    rw [curWave_advance n s hact, List.map_map]
    exact List.map_congr_left (fun l _ => (hkeep l).1)
  have hws : (advance n s).waves.map (·.id) = s.waves.map (·.id) := by
    rw [advance_eq_issueUpd, issueUpd, List.map_map]
    exact List.map_congr_left (fun w _ => by simp only [Function.comp]; split <;> rfl)
  refine ⟨curWave_mem _ hact', hws ▸ hwaves, hids ▸ hlanes, hact', ?_, ?_⟩
  · intro l hl
    rw [active_advance s n hw] at hl
    obtain ⟨k, hk, rfl⟩ := List.mem_map.mp hl
    rw [curPc_advance s n hw hact, ← hpc k hk]
  · intro l hl
    rw [curWave_advance n s hact] at hl
    obtain ⟨k, hk, rfl⟩ := List.mem_map.mp hl
    obtain ⟨_, hst, hslot⟩ := hkeep k
    simp only [slotted, alive, hst, hslot]
    exact hslots k hk

theorem handles_advance (n : Nat) (s : State) (h : active s ≠ []) : Handles (advance n s) ↔ Handles s := by
  unfold Handles; rw [curWave_advance n s h]; rfl

theorem enter_advance (n : Nat) (s : State) (h : active s ≠ []) (code : Nat) (tval tepc : W64) (slot : Nat) :
    enter (advance n s) code tval tepc slot = enter s code tval tepc slot := by
  unfold enter handlerAt; rw [curWave_advance n s h]; rfl

/-- A trap taken past the instruction: the handler entry overwrites the PC, so that the step leaves it nowhere. -/
theorem takeTraps_advance (n : Nat) (s : State) (hI : Issues s) (hH : Handles s) (code : Nat) (tval tepc : W64) (hc : code < 256) :
    takeTraps ((active s).map (fun l => (l.id, { code, tval, tepc }))) (advance n s) = issueUpd id (enter s code tval tepc s.cur.2) s := by
  have hact := active_ne_nil s hI
  have hids : (active s).map (fun l => (l.id, ({ code, tval, tepc } : LaneTrap))) = (active (advance n s)).map (fun l => (l.id, { code, tval, tepc })) := by
    rw [active_advance s n (hasWave_of_active s hact), List.map_map]; rfl
  rw [hids, takeTraps_active_eq_enter _ (issues_advance n s hI) ((handles_advance n s hact).mpr hH) code tval tepc hc, enter_advance n s hact,
    advance_eq_issueUpd, issueUpd_issueUpd s _ (moved n) (fun _ => rfl) (fun _ => rfl)]
  rfl

end Sys2Proof.Proofs

/-! Accesses of one lane that the checks of R12, R15 and R16 refuse. -/

namespace Sys2Proof.Proofs

open Sys2Proof Sys2Proof.Machine Sys2Proof.Spec Sys2Proof.Laws

theorem drainRdc_empty (d : Nat) (s : State) (h : (getDie s d).rdc = []) : drainRdc d s = s := by
  unfold drainRdc; rw [h]; rfl

/-- With nothing to release, the release of an access neither waits nor writes back (R100). -/
theorem release_free (ord : Ord) (scope : Nat) (s : State) (h : ReleaseFree ord scope s) :
    (ordRel ord && !releaseReady scope s) = false ∧ (if ordRel ord then releaseDrain scope s else s) = s := by
  cases hr : ordRel ord with
  | false => exact ⟨rfl, rfl⟩
  | true =>
    obtain ⟨hready, hrdc⟩ := h hr
    refine ⟨by rw [hready]; rfl, ?_⟩
    simp only [releaseDrain, drainRdc_empty _ s hrdc, ite_self]

theorem laneOrder_single (k : MKind) (scatter : Bool) (size : Nat) (addr : Lane → W64) (l : Lane) (s : State) : laneOrder k scatter size addr [l] s = (s, [l]) := by
  simp [laneOrder, overlapping]

theorem updCur_self (f : Wave → Wave) (s : State) (h : ∀ w, f w = w) : updCur f s = s := by
  simp only [updCur, updWave, h, ite_self, List.map_id']

theorem writeResults_trap (k : MKind) (o : MA) (l : Lane) (t : LaneTrap) (s : State) : writeResults k o [(l, .trap t)] s = s := by
  refine updCur_self _ s (fun w => ?_)
  cases w
  simp only [Wave.mk.injEq, true_and, and_true]
  refine List.map_id'' (fun x => ?_) _
  cases h : l.id == x.id <;> simp [List.find?, h]

/-- A lane's refused access leaves no result and no log entry: the subgroup moves past it and the lane traps (R209). -/
theorem settleAccess_trap (i : Instr) (k : MKind) (o : MA) (sel : List Lane) (addr : Lane → W64) (l : Lane) (t : LaneTrap) (s : State) :
    settleAccess i k o false sel addr [(l, .trap t)] s = takeTraps [(l.id, t)] (advance 2 s) := by
  simp [settleAccess, writeResults_trap]

section
variable {o : MA} {s : State} {l : Lane} (hsel : selected s o.h.g o.h.n = [l]) (hlog : (curWave s).log = []) (hfree : ReleaseFree o.ord o.scope.toNat s)
include hsel hlog hfree

/-- A global access of one lane whose translation refuses it. -/
theorem access_refused (i : Instr) (k : MKind) (c : Nat) (honce : isOnce k o false = false) (hk : k ≠ .stc)
    (hx : ∀ b, xlat { laneReq k o (curWave s) l with now := b } s = (s, .trap c false)) :
    access i k o false (fun _ => false) s = takeTraps [(l.id, { code := c, tval := effAddr o (curWave s) l, tepc := curPc s })] (advance 2 s) := by
  obtain ⟨hready, hdrain⟩ := release_free o.ord o.scope.toNat s hfree
  have hmiss : lanesMiss k o (curWave s) [l] s = (s, false) := by
    simp [lanesMiss, hk, show xlat (laneReq k o (curWave s) l) s = _ from hx false]
  have hlane : laneAccess k o (curWave s) [l.id] l false s = (s, .trap { code := c, tval := effAddr o (curWave s) l, tepc := curPc s }) := by
    simp [laneAccess, hx true]
  unfold access
  simp only [hsel, hlog, hready, honce, hmiss, hdrain, logHolds, peerHeld, laneOrder_single, laneAccesses, hlane, sortBy, insertBy, settleAccess_trap,
    List.length_nil, List.any_nil, List.any_cons, List.foldl_cons, List.foldl_nil, Bool.false_and, Bool.or_false, Bool.false_eq_true, if_false, Nat.le_zero_eq]
  exact if_neg (by decide)

/-- An LDLM or STLM of one lane that its checks refuse. -/
theorem localAccess_refused (i : Instr) (k : MKind) (c : Nat) (honce : isOnce k o true = false)
    (hl : laneLocal k o false (curWave s) l s = (s, .trap { code := c, tval := localAddr o (curWave s) l, tepc := curPc s })) :
    localAccess i k o false s = takeTraps [(l.id, { code := c, tval := localAddr o (curWave s) l, tepc := curPc s })] (advance 2 s) := by
  obtain ⟨hready, hdrain⟩ := release_free o.ord o.scope.toNat s hfree
  unfold localAccess
  simp only [hsel, hlog, hready, honce, hdrain, acqHolds, laneOrder_single, laneLocals, hl, sortBy, insertBy, settleAccess_trap,
    List.any_nil, List.foldl_cons, List.foldl_nil, Bool.false_eq_true, if_false]

end

theorem bit_eq_getLsbD {n : Nat} (x : BitVec n) (i : Nat) : bit x i = x.getLsbD i := by
  rw [bit, BitVec.getLsbD, Nat.testBit_eq_decide_div_mod_eq]
  rfl

/-- An address pair excludes a w register for the address (R165). -/
theorem ka_false_of_maOk {o : MA} {acq rel opx xOk : Bool} {szs : List Nat} (h : maOk o false acq rel szs opx xOk = true) (hp : o.p64 = true) : o.ka = false := by
  have hne : (o.ka != o.p64) = true := by
    simp only [maOk, Bool.and_eq_true, Bool.false_eq_true, if_false] at h
    obtain ⟨_, hsource, _⟩ := h
    exact hsource
  simpa [hp] using hne

/-- LD, ST, ATOM and GATHER without .split through v registers alone are accesses of each lane by itself (R90, R209). -/
theorem exec_laneAccess (i : Instr) (o : MA) (s : State) (hi : i = .ld o ∨ i = .st o ∨ i = .atom o ∨ (i = .gather o ∧ o.opx.getLsbD 1 = false))
    (hfits : Fits i s) (hx : o.h.x = false) (hp : o.p64 = true) :
    ∃ k, exec i s = .next (access i k o false (fun _ => false) s) ∧ isOnce k o false = false ∧ k ≠ .stc := by
  have hka {acq opx xOk cart : Bool} {szs : List Nat} {regs : Nat} (h : (loadUse o false acq szs opx xOk).fits cart regs = true) : o.ka = false := by
    simp only [Use.fits, loadUse, Bool.and_eq_true] at h
    obtain ⟨⟨⟨hok, _⟩, _⟩, _⟩ := h
    exact ka_false_of_maOk hok hp
  have hload (sx : Bool) (hka : o.ka = false) : isOnce (.load sx) o false = false := by simp [isOnce, dataW, hx, hka, hp]
  rcases hi with rfl | rfl | rfl | ⟨rfl, h1⟩
  · exact ⟨_, rfl, hload _ (hka (show (loadUse o false true _ _ _).fits _ _ = true from hfits)), nofun⟩
  · exact ⟨_, rfl, by simp [isOnce, dataW, hx], nofun⟩
  · exact ⟨_, rfl, hx, nofun⟩
  · refine ⟨.load (bit o.opx 0), ?_, hload _ (hka (show (loadUse o false false _ _ _).fits _ _ = true from hfits)), nofun⟩
    show execGather o s = _
    simp only [execGather, bit_eq_getLsbD, h1, Bool.false_and, Bool.false_eq_true, if_false]

/-- LDLM and STLM through v registers alone likewise. -/
theorem exec_laneLocal (i : Instr) (o : MA) (s : State) (hi : i = .ldlm o ∨ i = .stlm o) (hx : o.h.x = false) (hka : o.ka = false) :
    ∃ k, exec i s = .next (localAccess i k o false s) ∧ isOnce k o true = false := by
  rcases hi with rfl | rfl
  · exact ⟨_, rfl, by simp [isOnce, dataW, hx, hka]⟩
  · exact ⟨_, rfl, by simp [isOnce, dataW, hx]⟩

theorem laneLocal_misaligned (k : MKind) (o : MA) (w : Wave) (l : Lane) (s : State) (h : (localAddr o w l).toNat % accSize o ≠ 0) :
    laneLocal k o false w l s = (s, .trap { code := cALIGN, tval := localAddr o w l, tepc := curPc s }) := by
  simp [laneLocal, h]

theorem laneLocal_prot (k : MKind) (o : MA) (w : Wave) (l : Lane) (s : State) (ha : (localAddr o w l).toNat % accSize o = 0)
    (h : localTarget s (teamOf s w) (localAddr o w l).toNat (accSize o) = none) :
    laneLocal k o false w l s = (s, .trap { code := cPROT, tval := localAddr o w l, tepc := curPc s }) := by
  simp [laneLocal, ha, h]

/-- No team of the gang has the rank. -/
theorem gangRank_none (s : State) (t : Team) (g rank : Nat) (hg : t.gang = some g) :
    (gangTeams s t).find? (fun x => x.rank == rank) = none ↔ ∀ x ∈ s.teams, x.gang = t.gang → x.rank ≠ rank := by
  simp only [gangTeams, hg, List.find?_eq_none, List.mem_filter, beq_iff_eq, and_imp, ne_eq]

/-- The address of an LDLM or STLM has no target exactly under the rules of R15 and R16. -/
theorem localProt_iff (s : State) (t : Team) (a n : Nat) : LocalProt s t a n ↔ localTarget s t a n = none := by
  unfold LocalProt localTarget
  generalize a / 2 ^ 25 = top
  generalize a / 2 ^ 21 % 16 = rank
  generalize a % 2 ^ 21 = off
  dsimp only
  by_cases hb : top ≠ 0 ∨ t.lm < off + n
  · rw [if_pos (by simpa using hb)]
    exact iff_of_true (hb.imp_right Or.inl) rfl
  rw [if_neg (by simpa using hb)]
  obtain ⟨hb1, hb2⟩ := not_or.mp hb
  simp only [hb1, hb2, false_or]
  by_cases h15 : rank = 15
  · simp [h15]
  cases hg : t.gang with
  | none => simp [h15]
  | some g =>
    have hc : gangCount t = t.gw * t.gh := by simp [gangCount, hg]
    by_cases hr : 12 ≤ rank ∨ t.gw * t.gh ≤ rank
    · rw [if_neg h15, if_pos (by simpa [hc, or_comm] using hr)]
      exact iff_of_true ⟨h15, .inr (hr.imp_right Or.inl)⟩ rfl
    obtain ⟨hr1, hr2⟩ := not_or.mp hr
    rw [if_neg h15, if_neg (by simpa [hc, or_comm] using hr)]
    by_cases hrank : rank = t.rank
    · rw [if_pos hrank]
      refine iff_of_false ?_ nofun
      rintro ⟨_, h | h | h | ⟨h, _⟩⟩
      · exact nomatch h
      · exact hr1 h
      · exact hr2 h
      · exact h hrank
    · rw [if_neg hrank]
      have hnone := gangRank_none s t g rank hg
      rw [hg] at hnone
      simp only [hr1, hr2, h15, hrank, ne_eq, not_false_eq_true, true_and, reduceCtorEq, false_or, ← hnone]
      cases (gangTeams s t).find? (fun x => x.rank == rank) <;> simp

theorem active_single_map (s : State) (l : Lane) (h : active s = [l]) (t : LaneTrap) : [(l.id, t)] = (active s).map (fun l => (l.id, t)) := by
  rw [h]; rfl

/-- Settles O34: the checks refuse the one lane's access, and it enters its handler. -/
theorem addressTraps : Obligations.AddressTraps := by
  constructor
  · intro i o s l hi hfits hI hH hact hsel hx hp hlog hfree
    obtain ⟨k, hexec, honce, hk⟩ := exec_laneAccess i o s hi hfits hx hp
    have refused (c : Nat) (hc : c < 256) (h : ∀ b, xlat { laneReq k o (curWave s) l with now := b } s = (s, .trap c false)) :
        exec i s = .next (issueUpd id (enter s c (effAddr o (curWave s) l) (curPc s) s.cur.2) s) := by
      rw [hexec, access_refused hsel hlog hfree i k c honce hk h, active_single_map s l hact, takeTraps_advance 2 s hI hH _ _ _ hc]
    have hsize : accSize o ≠ 0 := by simp [accSize]
    exact ⟨fun ha => refused 6 (by decide) (fun _ => xlat_misaligned _ s hsize ha), fun ha hok => refused 7 (by decide) (fun _ => xlat_noncanonical _ s ha hok)⟩
  · intro i o s l hi _ hI hH hact hsel hx hka hlog hfree
    obtain ⟨k, hexec, honce⟩ := exec_laneLocal i o s hi hx hka
    have refused (c : Nat) (hc : c < 256) (h : laneLocal k o false (curWave s) l s = (s, .trap { code := c, tval := localAddr o (curWave s) l, tepc := curPc s })) :
        exec i s = .next (issueUpd id (enter s c (localAddr o (curWave s) l) (curPc s) s.cur.2) s) := by
      rw [hexec, localAccess_refused hsel hlog hfree i k c honce h, active_single_map s l hact, takeTraps_advance 2 s hI hH _ _ _ hc]
    exact ⟨fun ha => refused 6 (by decide) (laneLocal_misaligned k o _ l s ha),
      fun ha hprot => refused 9 (by decide) (laneLocal_prot k o _ l s ha ((localProt_iff _ _ _ _).mp hprot)), fun _ => localProt_iff _ _ _ _⟩

end Sys2Proof.Proofs

/-! Statements that do not hold. -/

namespace Sys2Proof.Proofs

open Sys2Proof Sys2Proof.Machine Sys2Proof.Spec Sys2Proof.Laws

/-! ### A directory that lists a line of another die

HomeQuiet asks of the directory of a line's home that none of its entries names a die with dirty bytes. It does not ask that the entries are of lines at home
there. An access may evict an entry (R52); the eviction then works on the directory of the entry's own home, which may name dirty bytes: they are written
back, to memory that the statement says is unchanged. -/

/-- A region of die 1 that falls into the L2 set of a region r of die 0. -/
def strayRegion (r : Nat) : Nat := r + 2 ^ 28

/-- Its first byte. -/
def strayByte (r : Nat) : Nat := strayRegion r * 512

/-- A directory whose 24 ways for region r are taken: by 23 subscribed regions, which stay (R52), and by the stray one. -/
def crowdedDir (r : Nat) : List (Nat × DirEntry) :=
  (span 1 23).map (fun i => (r + i * 2 ^ 19, { sub := true })) ++ [(strayRegion r, { rdcp := 4 })]

/-- The state with that directory on die 0; die 2 holds a dirty byte of the stray region, of which the region's home, die 1, knows. -/
def withStray (r : Nat) (s : State) : State := { s with dies := [
  (0, { dir := crowdedDir r }),
  (1, { dir := [(strayRegion r, { rdcp := 4, rdcd := 4 })] }),
  (2, { rdc := [(strayRegion r * 8, { mask := 1, bytes := [1] })] })] }

/-! ### A walk through such a directory -/

/-- A root table at 0x1000 that points to a table at 0x2000, with a leaf of 16 GiB that allows everything and has A = D = 0. -/
def strayTables : State := withStray 16 { State.reset with
  mem := cellsWrite (cellsWrite [] 0x1000 (leBytes 8 0x2001)) 0x2000 (leBytes 8 0x0F)
  ctxs := [(1, { ptbase := 0x1000 })] }

def strayWrite : XReq := { ctx := 1, cluster := 0, h := false, acc := .write, va := 0x30008, size := 8, now := true }

theorem homeQuiet_strayTables : HomeQuiet strayTables (homeDie 0x2000) 0x2000 := by unfold HomeQuiet; decide

theorem walk_strayTables : walkFrom strayTables (strayWrite.va.toNat % 2 ^ 52) 4 ((getCtx strayTables strayWrite.ctx).ptbase.toNat / 4096 % 2 ^ 36 * 4096) =
    (.leaf 2 0x2000 0x0F, [(3, 0x1000, 0x2001)]) := by decide

/-- The compare-and-swap of A and D evicts the stray region, whose dirty byte goes home. -/
theorem strayByte_walked : byteAt (xlat strayWrite strayTables).1 (strayByte 16) = 1 := by decide +kernel

theorem strayByte_before_walk : byteAt strayTables (strayByte 16) = 0 := by decide

/-- Refutes O24: the leaf's home lists a region of another die, and the walk's update of the leaf evicts it, which writes a byte outside the leaf. -/
theorem not_walkMarksEntry : ¬ Obligations.WalkMarksEntry := by
  intro h
  obtain ⟨t, ht, hmem, _⟩ := h strayWrite strayTables 2 0x2000 0x30008 0 0x0F _ (by decide) (by decide) (by decide) (by decide) (by decide) rfl rfl rfl (.inl rfl)
    walk_strayTables (by decide) (by decide) (by decide) homeQuiet_strayTables (by decide)
  have hbyte := hmem (strayByte 16)
  rw [if_neg (by decide), strayByte_before_walk] at hbyte
  have hwalked := strayByte_walked
  rw [ht, hbyte] at hwalked
  exact absurd hwalked (by decide)

/-! ### A logged load through such a directory -/

/-- LD of 8 bytes into v8 and v9. -/
def strayLd : MA where
  h := { c := false, d := 8, a := 1, b := 0, g := 0, n := false, x := false }
  scope := 0
  ord := .plain
  sz := 3
  scl := 0
  ka := true
  kb := false
  nb := true
  p64 := false
  opx := 0
  off := 0

def strayLane : Lane := { id := 0 }
def strayEntry : LogEntry := { ins := .ld strayLd, pc := 0x10000, lanes := [{ lane := 0, addr := 0x100000, data := [], wait := .data }] }
def strayWave : Wave := { (default : Wave) with ctx := 1, regs := 64, lanes := [strayLane], log := [(0, strayEntry)] }

/-- The wave waits for the data of an address of its context's heap window, which maps 1 MiB at 0x100000 to itself. -/
def strayLoad : State := withStray 2048 { State.reset with
  waves := [strayWave]
  ctxs := [(1, { hwinBase := 0x100001, hwinLimit := 0x100000 })] }

theorem oneLogged_strayLoad : OneLogged strayLoad strayWave strayLd 0 .data strayLane 0x100000 := by
  refine ⟨List.mem_singleton.mpr rfl, by decide, by decide, List.mem_singleton.mpr rfl, ?_, rfl, strayEntry, _, rfl, rfl, rfl, rfl, rfl, rfl, rfl, rfl, ?_, ?_⟩
  · intro k hk
    obtain rfl := List.mem_singleton.mp hk
    exact ⟨rfl, nofun⟩
  · unfold InWindowOf; decide
  · unfold HomeQuiet; decide

/-- The load makes room for its region and evicts the stray one, whose dirty byte goes home. -/
theorem strayByte_loaded : byteAt (replayLog strayLoad.site (fun p => p.wait == .data) strayLoad) (strayByte 2048) = 1 := by decide +kernel

/-- Refutes O57, in its first clause: the home of the loaded line lists a region of another die, and LOAD_RETURN evicts it, which changes memory. -/
theorem not_waitingWorkReturns : ¬ Obligations.WaitingWorkReturns := by
  rintro ⟨hload, -⟩
  obtain ⟨t, ht, hmem, _⟩ := (hload strayLoad strayWave strayLd 0 strayLane 0x100000 rfl rfl).1 oneLogged_strayLoad
  have ht' : replayLog strayLoad.site (fun p => p.wait == .data) strayLoad = t := Host.Outcome.next.inj ht
  have hloaded := strayByte_loaded
  rw [ht', byteAt, hmem] at hloaded
  exact absurd hloaded (by decide)

end Sys2Proof.Proofs

/-! What the coherence of package memory leaves alone (R46 to R60): cached translations, held stores, waves in which no lane sleeps, clean lines. -/

namespace Sys2Proof.Proofs

open Sys2Proof Sys2Proof.Machine Sys2Proof.Spec Sys2Proof.Laws

/-- No lane sleeps in WAITA, nor will when it leaves a converged handler. -/
def Awake (s : State) : Prop := ∀ w ∈ s.waves, ∀ l ∈ w.lanes, ∀ a, l.st ≠ .waiting (.waita a) ∧ l.before ≠ .waiting (.waita a)

/-- The lines that the remote-data caches of t hold dirty bytes of are among those of s; cached translations, held stores and, where none sleeps, the waves
are those of s. -/
structure Kept (s t : State) : Prop where
  cur : t.cur = s.cur
  tlb : ∀ c, (getCluster t c).tlb = (getCluster s c).tlb
  l1tlb : ∀ c, (getCluster t c).l1tlb = (getCluster s c).l1tlb
  wcache : ∀ d, (getDie t d).wcache = (getDie s d).wcache
  held : ∀ d, (getDie t d).held = (getDie s d).held
  clean : ∀ d line, (rdcGet s d line).mask = 0 → (rdcGet t d line).mask = 0
  waves : Awake s → t.waves = s.waves

namespace Kept

theorem refl (s : State) : Kept s s := ⟨rfl, fun _ => rfl, fun _ => rfl, fun _ => rfl, fun _ => rfl, fun _ _ h => h, fun _ => rfl⟩

theorem awake {s t : State} (h : Kept s t) (ha : Awake s) : Awake t := by
  unfold Awake; rw [h.waves ha]; exact ha

theorem trans {s t u : State} (h : Kept s t) (k : Kept t u) : Kept s u where
  cur := k.cur.trans h.cur
  tlb c := (k.tlb c).trans (h.tlb c)
  l1tlb c := (k.l1tlb c).trans (h.l1tlb c)
  wcache d := (k.wcache d).trans (h.wcache d)
  held d := (k.held d).trans (h.held d)
  clean d line hm := k.clean d line (h.clean d line hm)
  waves ha := (k.waves (h.awake ha)).trans (h.waves ha)

theorem foldl {α : Type} {g : State → α → State} (hg : ∀ s a, Kept s (g s a)) (l : List α) {s t : State} (h : Kept s t) : Kept s (l.foldl g t) :=
  fold_inv (Kept s) g (fun t a h => h.trans (hg t a)) l t h

/-- A change of nothing that Kept speaks of. -/
theorem of_parts {s t : State} (h1 : t.cur = s.cur) (h2 : t.clusters = s.clusters) (h3 : t.dies = s.dies) (h4 : t.waves = s.waves) : Kept s t := by
  have hc (c : Nat) : getCluster t c = getCluster s c := by simp only [getCluster, h2]
  have hd (d : Nat) : getDie t d = getDie s d := by simp only [getDie, h3]
  exact ⟨h1, fun c => by rw [hc], fun c => by rw [hc], fun d => by rw [hd], fun d => by rw [hd], fun d line hm => by rwa [rdcGet, hd], fun _ => h4⟩

theorem updCluster (c : Nat) (f : Cluster → Cluster) (s : State) (ht : ∀ x, (f x).tlb = x.tlb) (hl : ∀ x, (f x).l1tlb = x.l1tlb) :
    Kept s (updCluster c f s) where
  cur := rfl
  tlb j := by rw [getCluster_updCluster]; split <;> simp_all
  l1tlb j := by rw [getCluster_updCluster]; split <;> simp_all
  wcache _ := rfl
  held _ := rfl
  clean _ _ h := h
  waves _ := rfl

theorem updDie (d : Nat) (f : Die → Die) (s : State) (hw : ∀ x, (f x).wcache = x.wcache) (hh : ∀ x, (f x).held = x.held)
    (hm : ∀ line, (rdcGet s d line).mask = 0 → (aget {} (f (getDie s d)).rdc line).mask = 0) : Kept s (updDie d f s) where
  cur := rfl
  tlb _ := rfl
  l1tlb _ := rfl
  wcache j := by rw [getDie_updDie]; split <;> simp_all
  held j := by rw [getDie_updDie]; split <;> simp_all
  clean j line h := by
    rw [rdcGet, getDie_updDie]
    split
    · next e => exact hm line (e ▸ h)
    · exact h
  waves _ := rfl

/-- A change of a die beside its remote-data cache, its held stores and its walk cache. -/
theorem updDie_other (d : Nat) (f : Die → Die) (s : State) (hw : ∀ x, (f x).wcache = x.wcache) (hh : ∀ x, (f x).held = x.held) (hr : ∀ x, (f x).rdc = x.rdc) :
    Kept s (Machine.updDie d f s) :=
  updDie d f s hw hh (fun line h => by rw [hr]; exact h)

end Kept

theorem aget_adel {α : Type} (d : α) (l : List (Nat × α)) (k j : Nat) : aget d (adel k l) j = if j = k then d else aget d l j := by
  induction l with
  | nil => simp [adel, aget]
  | cons p r ih =>
    obtain ⟨b, y⟩ := p
    simp only [adel] at ih ⊢
    by_cases h : b = k
    · rw [List.filter_cons_of_neg (by simp [h]), ih, aget_cons]
      by_cases hj : j = k
      · rw [if_pos hj, if_pos hj]
      · rw [if_neg hj, if_neg hj, if_neg (by omega)]
    · rw [List.filter_cons_of_pos (by simp [h]), aget_cons, aget_cons, ih]
      by_cases hb : b = j
      · rw [if_pos hb, if_pos hb, if_neg (by omega)]
      · rw [if_neg hb, if_neg hb]

/-- An entry that is not the default is listed. -/
theorem aget_mem {α : Type} (d : α) (l : List (Nat × α)) (k : Nat) : aget d l k = d ∨ (k, aget d l k) ∈ l := by
  induction l with
  | nil => exact .inl rfl
  | cons p r ih =>
    obtain ⟨b, y⟩ := p
    rw [aget_cons]
    split
    · next h => exact .inr (h ▸ List.mem_cons_self)
    · exact ih.imp_right (List.mem_cons_of_mem _)

/-- The dirty bytes of a line of a remote-data cache after one of its lines is replaced. -/
theorem rdcGet_rdcSet_mask (d line : Nat) (x : RdcLine) (s : State) (d' l : Nat) :
    (rdcGet (rdcSet d line x s) d' l).mask = if d' = d ∧ l = line then x.mask else (rdcGet s d' l).mask := by
  simp only [rdcGet, rdcSet, getDie_updDie]
  by_cases hd : d' = d
  · subst hd
    simp only [if_true, true_and]
    split
    · rw [aget_aset]; split <;> rfl
    · next h =>
      have hm : x.mask = 0 := by simp at h; exact h.2
      rw [aget_adel]; split <;> simp [hm]
  · simp only [hd, if_false, false_and]

theorem kept_rdcSet (d line : Nat) (x : RdcLine) (s : State) (hx : (rdcGet s d line).mask = 0 → x.mask = 0) : Kept s (rdcSet d line x s) where
  cur := rfl
  tlb _ := rfl
  l1tlb _ := rfl
  wcache j := by simp only [rdcSet, getDie_updDie]; split <;> simp_all
  held j := by simp only [rdcSet, getDie_updDie]; split <;> simp_all
  clean j l h := by
    rw [rdcGet_rdcSet_mask]
    split
    · next e => exact hx (e.1 ▸ e.2 ▸ h)
    · exact h
  waves _ := rfl

theorem kept_updDir (region : Nat) (f : DirEntry → DirEntry) (s : State) : Kept s (updDir region f s) :=
  Kept.updDie_other _ _ s (fun _ => rfl) (fun _ => rfl) (fun _ => rfl)

theorem kept_filterDrop (c line keep : Nat) (s : State) : Kept s (filterDrop c line keep s) := by
  unfold filterDrop
  dsimp only
  split
  · exact .refl s
  · exact .updCluster _ _ s (fun _ => rfl) (fun _ => rfl)

theorem kept_probeCluster (region : Nat) (mask : BitVec 8) (keep : Nat → Nat) (c : Nat) (s : State) : Kept s (probeCluster region mask keep c s) := by
  unfold probeCluster
  extract_lets hit s0 s1
  have h0 : Kept s s0 := by
    unfold s0; split
    · exact .updDie_other _ _ s (fun _ => rfl) (fun _ => rfl) (fun _ => rfl)
    · exact .refl s
  have h1 : Kept s s1 := .foldl (fun s i => kept_filterDrop _ _ _ s) _ h0
  split
  · exact h1.trans (kept_updDir _ _ s1)
  · exact h1

theorem kept_rdcReport (d region : Nat) (s : State) : Kept s (rdcReport d region s) := by
  unfold rdcReport
  exact kept_updDir _ _ s

theorem kept_rdcProbe (d line : Nat) (keep : Nat → Nat) (s : State) : Kept s (rdcProbe d line keep s) := by
  unfold rdcProbe
  dsimp only
  refine .trans (.foldl (fun s c => ?_) _ (.refl s)) (.updDie_other _ _ _ (fun x => by split <;> rfl) (fun x => by split <;> rfl) (fun x => by split <;> rfl))
  split
  · exact (kept_filterDrop _ _ _ s).trans (.updDie_other _ _ _ (fun _ => rfl) (fun _ => rfl) (fun _ => rfl))
  · exact kept_filterDrop _ _ _ s

theorem kept_markFills (d line : Nat) (s : State) : Kept s (markFills d line s) := by
  unfold markFills
  split
  · exact .updDie_other _ _ s (fun _ => rfl) (fun _ => rfl) (fun _ => rfl)
  · exact .refl s

theorem kept_rdcInvalidate (d line : Nat) (keep : Nat → Nat) (s : State) : Kept s (rdcInvalidate d line keep s) := by
  unfold rdcInvalidate
  refine .trans ?_ (kept_rdcReport _ _ _)
  refine .trans ?_ (kept_rdcProbe _ _ _ _)
  refine .trans ?_ (kept_markFills _ _ _)
  exact kept_rdcSet _ _ _ _ (fun h => by exact h)

theorem kept_updShadows (c region : Nat) (fmt : BitVec 3) (f : Shadow → Shadow) (s : State) : Kept s (updShadows c region fmt f s) :=
  .updCluster _ _ s (fun _ => rfl) (fun _ => rfl)

theorem kept_needHost (line : Nat) (s : State) : Kept s (needHost line s) := .of_parts rfl rfl rfl rfl

theorem kept_post (c : Nat) (e : Instr) (s : State) : Kept s (post c e s) := .of_parts rfl rfl rfl rfl

theorem kept_flushData (region : Nat) (s : State) : Kept s (flushData region s) := by
  unfold flushData
  dsimp only
  split
  · refine .foldl (fun s p => ?_) _ (.of_parts rfl rfl rfl rfl)
    split
    · exact kept_updShadows _ _ _ _ s
    · exact .refl s
  · exact .refl s

theorem asleepIn_awake (p : WaitA → Bool) (st : LaneSt) (h : ∀ a, st ≠ .waiting (.waita a)) : asleepIn p st = false := by
  unfold asleepIn
  split
  · next a => exact absurd rfl (h a)
  · rfl

theorem kept_wakeIf (p : Wave → WaitA → Bool) (s : State) : Kept s (wakeIf p s) := by
  unfold wakeIf
  dsimp only
  split
  · exact .refl s
  · next hhits =>
    refine .foldl (fun s w => kept_post _ _ s) _ ⟨rfl, fun _ => rfl, fun _ => rfl, fun _ => rfl, fun _ => rfl, fun _ _ h => h, fun ha => absurd ?_ hhits⟩
    rw [List.isEmpty_iff, List.filter_eq_nil_iff]
    intro w hw
    simp only [List.any_eq_true, Bool.or_eq_true, not_exists, not_and, not_or, Bool.not_eq_true]
    exact fun l hl => ⟨asleepIn_awake _ _ (fun a => (ha w hw l hl a).1), asleepIn_awake _ _ (fun a => (ha w hw l hl a).2)⟩

theorem kept_homeUpdate (line : Nat) (bs : List (Nat × Byte)) (src : Source) (s : State) : Kept s (homeUpdate line bs src s) := by
  unfold homeUpdate
  extract_lets region s' h mem' old new changed s1 keep dir s2 s3 s4 s5 s6
  have h1 : Kept s s1 := .foldl (fun s p => .foldl (fun s c => kept_updShadows _ _ _ _ s) _ (.foldl (fun s c => kept_updShadows _ _ _ _ s) _ (.refl s))) _ (kept_flushData _ s)
  have h2 : Kept s s2 := .foldl (fun s c => kept_probeCluster _ _ _ _ s) _ h1
  have h3 : Kept s s3 := .foldl (fun s d => kept_rdcInvalidate _ _ _ s) _ h2
  have h4 : Kept s3 s4 := by
    unfold s4; split
    · refine .trans ?_ (kept_needHost _ _)
      exact kept_updDir _ _ s3
    · exact .refl s3
  have h5 : Kept s4 s5 := .of_parts rfl rfl rfl rfl
  have h6 : Kept s5 s6 := kept_wakeIf _ s5
  exact .foldl (fun s p => .foldl (fun s c => kept_post _ _ s) _ (.refl s)) _ (h3.trans (h4.trans (h5.trans h6)))

end Sys2Proof.Proofs

/-! TLBINV (R30, R31, R357). -/

namespace Sys2Proof.Proofs

open Sys2Proof Sys2Proof.Machine Sys2Proof.Spec Sys2Proof.Laws

/-! ### A drain cleans every line of its die (R46) -/

theorem ones_eq_nil {n : Nat} (x : BitVec n) : ones x = [] ↔ x = 0 := by
  unfold ones
  split
  · next h => exact iff_of_true rfl h
  · next h =>
    refine iff_of_false (fun e => h (BitVec.eq_of_getLsbD_eq (fun i hi => ?_))) h
    have hb := List.filter_eq_nil_iff.mp e i ((mem_span 0 n i).mpr ⟨Nat.zero_le i, by omega⟩)
    rw [bit_eq_getLsbD] at hb
    simpa using hb

/-- A writeback leaves the line clean (R56). -/
theorem writeback_clean (d line : Nat) (s : State) : Kept s (writeback d line s) ∧ (rdcGet (writeback d line s) d line).mask = 0 := by
  unfold writeback
  extract_lets bs s1 x s2
  split
  · next h =>
    have hm : ones (rdcGet s d line).mask = [] := by simpa [bs, dirtyBytes] using h
    exact ⟨.refl s, (ones_eq_nil _).mp hm⟩
  · have h1 : Kept s s1 := (kept_homeUpdate line bs (.die d) s).trans (kept_markFills d line _)
    have h2 : Kept s1 s2 := kept_rdcSet d line _ s1 (fun _ => rfl)
    have hclean : (rdcGet s2 d line).mask = 0 := by unfold s2; rw [rdcGet_rdcSet_mask, if_pos ⟨rfl, rfl⟩]
    have h3 : Kept s2 (if x.filled then s2 else rdcProbe d line (fun _ => 5) s2) := by
      split
      · exact .refl s2
      · exact kept_rdcProbe _ _ _ s2
    have h4 := h3.trans (kept_rdcReport d (line / 8) _)
    exact ⟨h1.trans (h2.trans h4), h4.clean d line hclean⟩

/-- No home holds a store for the host's answer. -/
def NoneHeld (s : State) : Prop := ∀ d, (getDie s d).held = []

theorem Kept.noneHeld {s t : State} (h : Kept s t) (hs : NoneHeld s) : NoneHeld t := fun d => (h.held d).trans (hs d)

theorem answerHeld_none (line : Nat) (s : State) (h : NoneHeld s) : answerHeld line s = s := by
  simp [answerHeld, h (homeDie (line * 64))]

theorem writebackAfter_clean (d line : Nat) (s : State) (h : NoneHeld s) : Kept s (writebackAfter d line s) ∧ (rdcGet (writebackAfter d line s) d line).mask = 0 := by
  unfold writebackAfter
  split
  · next hm => exact ⟨.refl s, hm⟩
  · rw [answerHeld_none line s h]
    exact writeback_clean d line s

/-- A pass over a list in which each step cleans what its element names cleans it all: a later step leaves clean what is clean. -/
theorem foldl_clean {α : Type} (g : State → α → State) (P : α → State → Prop) (hP : ∀ a s t, Kept s t → P a s → P a t)
    (hg : ∀ a s, NoneHeld s → Kept s (g s a) ∧ P a (g s a)) (l : List α) (s : State) (h : NoneHeld s) :
    Kept s (l.foldl g s) ∧ ∀ a ∈ l, P a (l.foldl g s) := by
  induction l generalizing s with
  | nil => exact ⟨.refl s, nofun⟩
  | cons a r ih =>
    obtain ⟨h1, h2⟩ := hg a s h
    obtain ⟨k1, k2⟩ := ih (g s a) (h1.noneHeld h)
    refine ⟨h1.trans k1, fun b hb => ?_⟩
    rcases List.mem_cons.mp hb with rfl | hb
    · exact hP b _ _ k1 h2
    · exact k2 b hb

theorem drainRdc_clean (d : Nat) (s : State) (h : NoneHeld s) : Kept s (drainRdc d s) ∧ ∀ line, (rdcGet (drainRdc d s) d line).mask = 0 := by
  obtain ⟨hk, hc⟩ := foldl_clean (fun s (p : Nat × RdcLine) => writebackAfter d p.1 s) (fun p s => (rdcGet s d p.1).mask = 0) (fun p _ _ k hm => k.clean d p.1 hm)
    (fun p s h => writebackAfter_clean d p.1 s h) ((getDie s d).rdc.filter (fun p => p.2.mask != 0)) s h
  refine ⟨hk, fun line => ?_⟩
  by_cases hm : (rdcGet s d line).mask = 0
  · exact hk.clean d line hm
  · rcases aget_mem ({} : RdcLine) (getDie s d).rdc line with hd | hmem
    · exact absurd (by rw [rdcGet, hd]) hm
    · exact hc _ (List.mem_filter.mpr ⟨hmem, by simpa [rdcGet] using hm⟩)

/-- All dies drained one after another. -/
theorem drainAll_clean (s : State) (h : NoneHeld s) : Kept s ((span 0 4).foldl (fun s d => drainRdc d s) s) ∧
    ∀ d < 4, ∀ line, (rdcGet ((span 0 4).foldl (fun s d => drainRdc d s) s) d line).mask = 0 := by
  obtain ⟨hk, hc⟩ := foldl_clean (fun s d => drainRdc d s) (fun d s => ∀ line, (rdcGet s d line).mask = 0) (fun d _ _ k hm line => k.clean d line (hm line))
    drainRdc_clean (span 0 4) s h
  exact ⟨hk, fun d hd => hc d ((mem_span 0 4 d).mpr ⟨Nat.zero_le d, by omega⟩)⟩

/-! ### The removal of cached translations -/

theorem aget_not_mem {α : Type} (d : α) (l : List (Nat × α)) (k : Nat) (h : k ∉ l.map (·.1)) : aget d l k = d :=
  (aget_mem d l k).resolve_right (fun hm => h (List.mem_map.mpr ⟨_, hm, rfl⟩))

/-- A part of the state changed under every number that a list of parts names: it is changed under each number, where the change leaves the default alone and
is the same when made twice. -/
theorem get_foldl_upd {β : Type} (d : β) (get : State → Nat → β) (upd : Nat → State → State) (f : β → β)
    (hget : ∀ s c j, get (upd c s) j = if j = c then f (get s c) else get s j) (hf : ∀ x, f (f x) = f x) (hd : f d = d)
    (l : List (Nat × β)) (s : State) (hs : ∀ c, c ∉ l.map (·.1) → get s c = d) (c : Nat) : get (l.foldl (fun s p => upd p.1 s) s) c = f (get s c) := by
  have key (l : List (Nat × β)) (s : State) : get (l.foldl (fun s p => upd p.1 s) s) c = if c ∈ l.map (·.1) then f (get s c) else get s c := by
    induction l generalizing s with
    | nil => rfl
    | cons p r ih =>
      rw [List.foldl_cons, ih, hget]
      by_cases h1 : c = p.1 <;> by_cases h2 : c ∈ r.map (·.1) <;> simp [h1, h2, hf]
  rw [key]
  split
  · rfl
  · next h => rw [hs c h, hd]

/-- The translations that a test does not name. -/
def keepTlb (sel : TlbEntry → Bool) (c : Cluster) : Cluster := { c with tlb := c.tlb.filter (fun e => !sel e), l1tlb := c.l1tlb.filter (fun e => !sel e.2) }
def keepWalks (sel : TlbEntry → Bool) (d : Die) : Die := { d with wcache := d.wcache.filter (fun e => !sel e) }

theorem foldl_updCluster_other {β : Type} (p : State → β) (h : ∀ c f s, p (updCluster c f s) = p s) (f : Cluster → Cluster) (l : List (Nat × Cluster)) (s : State) :
    p (l.foldl (fun s x => updCluster x.1 f s) s) = p s := fold_keep p _ (fun s x => h x.1 f s) l s

theorem foldl_updDie_other {β : Type} (p : State → β) (h : ∀ d f s, p (updDie d f s) = p s) (f : Die → Die) (l : List (Nat × Die)) (s : State) :
    p (l.foldl (fun s x => updDie x.1 f s) s) = p s := fold_keep p _ (fun s x => h x.1 f s) l s

/-- The clusters and dies with the named translations gone. -/
def dropWalks (sel : TlbEntry → Bool) (s : State) : State :=
  let s1 := s.clusters.foldl (fun s p => updCluster p.1 (keepTlb sel) s) s
  s1.dies.foldl (fun s p => updDie p.1 (keepWalks sel) s) s1

theorem getCluster_dropWalks (sel : TlbEntry → Bool) (s : State) (c : Nat) : getCluster (dropWalks sel s) c = keepTlb sel (getCluster s c) := by
  rw [dropWalks, foldl_updDie_other (fun s => getCluster s c) (fun _ _ _ => rfl)]
  exact get_foldl_upd ({} : Cluster) getCluster (fun c => updCluster c (keepTlb sel)) (keepTlb sel) (fun s c j => getCluster_updCluster s c j _)
    (fun x => by simp [keepTlb, List.filter_filter]) rfl s.clusters s (fun c h => aget_not_mem ({} : Cluster) _ c h) c

theorem getDie_dropWalks (sel : TlbEntry → Bool) (s : State) (d : Nat) : getDie (dropWalks sel s) d = keepWalks sel (getDie s d) := by
  rw [dropWalks]
  refine (get_foldl_upd ({} : Die) getDie (fun d => updDie d (keepWalks sel)) (keepWalks sel) (fun s d j => getDie_updDie s d j _)
    (fun x => by simp [keepWalks, List.filter_filter]) rfl _ _ (fun d h => aget_not_mem ({} : Die) _ d h) d).trans ?_
  rw [foldl_updCluster_other (fun s => getDie s d) (fun _ _ _ => rfl)]

theorem dropWalks_mem (sel : TlbEntry → Bool) (s : State) : (dropWalks sel s).mem = s.mem := by
  rw [dropWalks, foldl_updDie_other State.mem (fun _ _ _ => rfl), foldl_updCluster_other State.mem (fun _ _ _ => rfl)]

theorem dropWalks_waves (sel : TlbEntry → Bool) (s : State) : (dropWalks sel s).waves = s.waves := by
  rw [dropWalks, foldl_updDie_other State.waves (fun _ _ _ => rfl), foldl_updCluster_other State.waves (fun _ _ _ => rfl)]

theorem dropWalks_cur (sel : TlbEntry → Bool) (s : State) : (dropWalks sel s).cur = s.cur := by
  rw [dropWalks, foldl_updDie_other State.cur (fun _ _ _ => rfl), foldl_updCluster_other State.cur (fun _ _ _ => rfl)]

/-! Beside these TLBINV forgets what walks have found for agents that waited, and looks up again where sleepers' words lie. -/

theorem getCluster_invalidate (sel : TlbEntry → Bool) (s : State) (c : Nat) : getCluster (invalidate sel s) c = keepTlb sel (getCluster s c) :=
  getCluster_dropWalks sel s c

theorem getDie_invalidate (sel : TlbEntry → Bool) (s : State) (d : Nat) : getDie (invalidate sel s) d = keepWalks sel (getDie s d) := getDie_dropWalks sel s d

theorem invalidate_mem (sel : TlbEntry → Bool) (s : State) : (invalidate sel s).mem = s.mem := dropWalks_mem sel s

theorem invalidate_cur (sel : TlbEntry → Bool) (s : State) : (invalidate sel s).cur = s.cur := dropWalks_cur sel s

/-- A lane that does not sleep is as before. -/
theorem invalidate_waves (sel : TlbEntry → Bool) (s : State) (ha : Awake s) : (invalidate sel s).waves = s.waves := by
  have ha' : Awake (dropWalks sel s) := by unfold Awake; rw [dropWalks_waves]; exact ha
  refine Eq.trans ?_ (dropWalks_waves sel s)
  unfold invalidate
  refine (List.map_congr_left (fun w hw => ?_)).trans (List.map_id _)
  cases w
  simp only [id_eq, Wave.mk.injEq, true_and, and_true]
  refine (List.map_congr_left (fun l hl => ?_)).trans (List.map_id _)
  have hl' := ha' _ hw l hl
  cases l
  simp only [id_eq, Lane.mk.injEq, true_and, and_true]
  constructor
  · split
    · next a => exact absurd rfl (hl' a).1
    · rfl
  · split
    · next a => exact absurd rfl (hl' a).2
    · rfl

/-! ### TLBINV (R30, R31, R357) -/

theorem noneHeld_of_accessesDone (s : State) (h : accessesDone s = true) : NoneHeld s := by
  intro d
  simp only [accessesDone, Bool.and_eq_true, List.all_eq_true, List.isEmpty_iff] at h
  obtain ⟨⟨_, hheld⟩, _⟩ := h
  rcases aget_mem ({} : Die) s.dies d with hd | hm
  · rw [getDie, hd]
  · exact hheld _ hm

theorem beq_toNat {n : Nat} (x y : BitVec n) : (x.toNat == y.toNat) = (x == y) := by
  rw [Bool.eq_iff_iff, beq_iff_eq, beq_iff_eq, BitVec.toNat_inj]

/-- What well-formedness says of the fields of a TLBINV. -/
theorem fields_of_tlbinvUse {o : RG} {form : Nat} {a b cart : Bool} {regs : Nat} (h : (tlbinvUse o form a b).fits cart regs = true) :
    tlbFields o = true ∧ (a || o.a == 0) = true ∧ (b || o.b == 0) = true := by
  simp only [tlbinvUse, rgUse, xpUse, Use.fits, unguarded, Bool.and_eq_true] at h
  obtain ⟨⟨⟨_, ⟨⟨⟨hguard, hx⟩, _⟩, ha⟩, hb⟩, _⟩, _⟩ := h
  exact ⟨by simp only [tlbFields, hguard, hx, Bool.and_self], ha, hb⟩

/-- The test that TLBINV.va, .ctx or .all names its translations by, and their body: a well-formed form does not trap ILLOP. -/
theorem exec_tlbinv (i : Instr) (o : RG) (sel : TlbEntry → Bool) (s : State) (hi :
    i = .tlbinvVa o ∧ sel = (fun e => (e.glob || e.ctxid.setWidth 28 == (wGet (curWave s) o.b.toNat).setWidth 28) &&
        e.va == (wGet (curWave s) o.a.toNat).toNat % 2 ^ 52 / 2 ^ pageBits e.level) ∨
      i = .tlbinvCtx o ∧ sel = (fun e => !e.glob && fld e.ctxid 16 12 == fld (wGet (curWave s) o.b.toNat) 16 12) ∨
      i = .tlbinvAll o ∧ sel = (fun _ => true)) (hfits : Fits i s) : exec i s = .next (tlbInstr sel s) := by
  rcases hi with ⟨rfl, rfl⟩ | ⟨rfl, rfl⟩ | ⟨rfl, rfl⟩
  · obtain ⟨hf, _, _⟩ := fields_of_tlbinvUse (show (tlbinvUse o 0 true true).fits _ _ = true from hfits)
    show execTlbinvVa o s = _
    simp only [execTlbinvVa, hf, Bool.not_true, Bool.false_eq_true, if_false, ← beq_toNat (BitVec.setWidth 28 _), BitVec.toNat_setWidth]
  · obtain ⟨hf, ha, _⟩ := fields_of_tlbinvUse (show (tlbinvUse o 1 false true).fits _ _ = true from hfits)
    have ha' : (o.a != 0) = false := by simpa using ha
    show execTlbinvCtx o s = _
    simp only [execTlbinvCtx, hf, ha', Bool.not_true, Bool.or_self, Bool.false_eq_true, if_false, beq_toNat]
  · obtain ⟨hf, ha, hb⟩ := fields_of_tlbinvUse (show (tlbinvUse o 2 false false).fits _ _ = true from hfits)
    have ha' : (o.a != 0) = false := by simpa using ha
    have hb' : (o.b != 0) = false := by simpa using hb
    show execTlbinvAll o s = _
    simp only [execTlbinvAll, hf, ha', hb', Bool.not_true, Bool.or_self, Bool.false_eq_true, if_false]

/-- In ordinary mode: PROT in every lane (R357). -/
theorem tlbInstr_ordinary (sel : TlbEntry → Bool) (s : State) (hI : Issues s) (hH : Handles s) (h : ∀ l ∈ active s, l.h = false) :
    tlbInstr sel s = issueUpd id (enter s 9 (Config.value s.free) (curPc s) s.cur.2) { s with free := s.free + 1 } := by
  have hords : (active s).filter (fun l => !l.h) = active s := List.filter_eq_self.mpr (fun l hl => by rw [h l hl]; rfl)
  have hne : (active s).isEmpty = false := by simpa using active_ne_nil s hI
  unfold tlbInstr
  simp only [hords, hne, Bool.not_false, if_true]
  exact takeTraps_active_eq_enter { s with free := s.free + 1 } hI hH 9 _ _ (by decide)

/-- In a handler, with nothing to wait for: the dies drained, then the named translations removed. -/
theorem tlbInstr_handler (sel : TlbEntry → Bool) (s : State) (h : ∀ l ∈ active s, l.h = true) (hrel : releaseReady 2 s = true) (hdone : accessesDone s = true)
    (hans : ∀ d < 4, unanswered s d = []) : tlbInstr sel s = advance 1 (invalidate sel ((span 0 4).foldl (fun s d => drainRdc d s) s)) := by
  have hords : (active s).filter (fun l => !l.h) = [] := List.filter_eq_nil_iff.mpr (fun l hl => by rw [h l hl]; decide)
  have hask : (span 0 4).flatMap (unanswered s) = [] := List.flatMap_eq_nil_iff.mpr (fun d hd => hans d (by have := (mem_span 0 4 d).mp hd; omega))
  unfold tlbInstr devRelease
  simp only [hords, hrel, hdone, hask, List.isEmpty_nil, Bool.not_true, Bool.or_self, Bool.false_eq_true, if_false, if_true]

theorem issueUpd_waves_congr (g : Wave → Wave) (f : Lane → Lane) (s t : State) (hw : t.waves = s.waves) (hc : t.cur = s.cur) :
    (issueUpd g f t).waves = (issueUpd g f s).waves := by
  simp only [issueUpd, hw, hc]

/-- Settles O21: the drains keep every cached translation, and the removal keeps what the drains have cleaned. -/
theorem tlbInvalidation : Obligations.TlbInvalidation := by
  intro i o sel s hi hfits hI
  rw [exec_tlbinv i o sel s hi hfits]
  refine ⟨fun hord hH => by rw [tlbInstr_ordinary sel s hI hH hord], fun hhand hrel hdone hawake hans => ?_⟩
  obtain ⟨hk, hclean⟩ := drainAll_clean s (noneHeld_of_accessesDone s hdone)
  generalize hr : (span 0 4).foldl (fun s d => drainRdc d s) s = r at hk hclean
  refine ⟨_, rfl, ?_⟩
  rw [tlbInstr_handler sel s hhand hrel hdone hans, hr, advance_eq_issueUpd]
  have hcl (c : Nat) : getCluster (issueUpd id (moved 1) (invalidate sel r)) c = keepTlb sel (getCluster r c) := getCluster_invalidate sel r c
  have hdie (d : Nat) : getDie (issueUpd id (moved 1) (invalidate sel r)) d = keepWalks sel (getDie r d) := getDie_invalidate sel r d
  refine ⟨?_, invalidate_mem sel r, ?_, ?_, ?_, ?_⟩
  · exact issueUpd_waves_congr _ _ _ _ ((invalidate_waves sel r (hk.awake hawake)).trans (hk.waves hawake)) ((invalidate_cur sel r).trans hk.cur)
  · intro d hd line
    rw [rdcGet, hdie]
    exact hclean d hd line
  · intro c e
    simp [hcl, keepTlb, hk.tlb]
  · intro c u e
    simp [hcl, keepTlb, hk.l1tlb]
  · intro d e
    simp [hdie, keepWalks, hk.wcache]

end Sys2Proof.Proofs

/-! The result of an instruction whose flags enable no exception (R176): the whole next state, for a v, a w and an m destination. -/

namespace Sys2Proof.Proofs

open Sys2Proof Sys2Proof.Machine Sys2Proof.Spec Sys2Proof.Laws

/-! ### Updates of the issuing wave and its subgroup -/

theorem updCur_eq_issueUpd (g : Wave → Wave) (s : State) (hg : ∀ w, (g w).lanes = w.lanes) : updCur g s = issueUpd g id s := by
  have he (w : Wave) : ({ g w with lanes := w.lanes } : Wave) = g w := by rw [← hg w]
  simp only [updCur, updWave, issueUpd, beq_iff_eq, id_eq, ite_self, List.map_id_fun', he]

/-- A change of the subgroup's lanes after a change of the wave, which neither renames the wave nor moves a lane out of its slot. -/
theorem issueUpd_id_issueUpd (s : State) (f : Lane → Lane) (g : Wave → Wave) (h : Lane → Lane) (hid : ∀ w, (g w).id = w.id) (hst : ∀ l, (h l).st = l.st)
    (hslot : ∀ l, (h l).slot = l.slot) : issueUpd id f (issueUpd g h s) = issueUpd g (fun l => f (h l)) s := by
  have hi (l : Lane) : issuing s.cur.2 (h l) = issuing s.cur.2 l := by simp only [issuing, hst, hslot]
  unfold issueUpd
  congr 1
  rw [List.map_map]
  refine List.map_congr_left (fun w _ => ?_)
  by_cases hw : w.id = s.cur.1
  · simp only [Function.comp, hw, if_true, hid, id_eq, List.map_map]
    congr 1
    refine List.map_congr_left (fun l _ => ?_)
    cases hl : issuing s.cur.2 l <;> simp [hl, hi]
  · simp only [Function.comp, hw, if_false]

/-- The subgroup's lanes are changed and move past an instruction that has changed the wave. -/
theorem advance_mapActive_issueUpd (words : Nat) (f : Lane → Lane) (g : Wave → Wave) (s : State) (hid : ∀ w, (g w).id = w.id) (hst : ∀ l, (f l).st = l.st)
    (hslot : ∀ l, (f l).slot = l.slot) : advance words (mapActive f (issueUpd g id s)) = issueUpd g (fun l => moved words (f l)) s := by
  rw [advance_eq_issueUpd, mapActive_eq_issueUpd, issueUpd_id_issueUpd s f g id hid (fun _ => rfl) (fun _ => rfl)]
  exact issueUpd_id_issueUpd s (moved words) g f hid hst hslot

/-- Two changes of the lanes agree where they agree on the issuing subgroup, in a machine whose waves are numbered apart. -/
theorem issueUpd_congr (s : State) (hwaves : (s.waves.map (·.id)).Nodup) (g : Wave → Wave) {f h : Lane → Lane} (he : ∀ l ∈ active s, f l = h l) :
    issueUpd g f s = issueUpd g h s := by
  unfold issueUpd
  congr 1
  refine List.map_congr_left (fun w hw => ?_)
  by_cases hid : w.id = s.cur.1
  · have hcur : curWave s = w := by
      obtain ⟨x, hx⟩ := Option.isSome_iff_exists.mp (List.find?_isSome (p := fun w : Wave => w.id == s.cur.1).mpr ⟨w, hw, by simpa using hid⟩)
      have hxid : x.id = s.cur.1 := by simpa using List.find?_some hx
      rw [curWave, hx, Option.getD_some, eq_of_nodup_map hwaves (List.mem_of_find?_eq_some hx) hw (hxid.trans hid.symm)]
    simp only [hid, if_true]
    congr 1
    refine List.map_congr_left (fun l hl => ?_)
    cases hi : issuing s.cur.2 l
    · rfl
    · exact he l (List.mem_filter.mpr ⟨hcur.symm ▸ hl, hi⟩)
  · simp only [hid, if_false]

/-! ### Writes and flags of a lane -/

theorem writeVs_v (ws : List (Nat × W32)) (l : Lane) : (writeVs ws l).v = ws.foldl (fun v p => setNth p.2 v p.1) l.v := by
  induction ws generalizing l with
  | nil => rfl
  | cons p r ih => exact ih (setV p.1 p.2 l)

theorem raise_writeVs (ws : List (Nat × W32)) (fl : Flags) (l : Lane) : raise fl (writeVs ws l) = wrote ws fl l := by
  rw [writeVs_eq, writeVs_v]; rfl

theorem mem_active_of_selected {s : State} {g : BitVec 4} {n : Bool} {l : Lane} (h : l ∈ selected s g n) : l ∈ active s := (List.mem_filter.mp h).1

theorem selects_of_selected {s : State} {g : BitVec 4} {n : Bool} {l : Lane} (h : l ∈ selected s g n) : selects (curWave s) g n l = true := (List.mem_filter.mp h).2

theorem not_enabled_of_noTraps {s : State} (hq : NoTraps s) {g : BitVec 4} {n : Bool} {l : Lane} (h : l ∈ selected s g n) (fl : Flags) : enabledIn l fl = false :=
  enabledIn_off l fl (hq l (mem_active_of_selected h))

/-! ### A v and a w destination -/

theorem vResult_eq_laneResult (g : BitVec 4) (n : Bool) (words : Nat) (f : Wave → Lane → List (Nat × W32) × Flags) (s : State) (hq : NoTraps s) :
    vResult g n words f s = laneResult g n words (fun l => (f (curWave s) l).1) (fun l => (f (curWave s) l).2) s := by
  rw [vResult_quiet s g n words f (fun l hl => not_enabled_of_noTraps hq hl _), advance_eq_issueUpd, mapActive_eq_issueUpd]
  simp only [raise_writeVs]
  exact issueUpd_issueUpd s _ _ (fun l => by split <;> rfl) (fun l => by split <;> rfl)

theorem wResult_eq_waveResult (g : BitVec 4) (n : Bool) (words d : Nat) (f : Wave → Lane → W64 × Flags) (s : State) (hq : NoTraps s) :
    wResult g n words d f s = waveResult g n words d (fun l => (f (curWave s) l).1) (fun l => (f (curWave s) l).2) s := by
  unfold waveResult
  cases hsel : selected s g n with
  | nil => exact (wResult_none s g n words d f hsel).trans (advance_eq_issueUpd words s)
  | cons l r =>
    have hset (x : W64) : setW d x s = issueUpd (fun w => { w with w := setNth x w.w d }) id s := updCur_eq_issueUpd _ s (fun _ => rfl)
    rw [wResult_quiet s g n words d f l r hsel (fun k hk => not_enabled_of_noTraps hq hk _), hset, advance_mapActive_issueUpd]
    · rfl
    · exact fun _ => rfl
    · exact fun k => by split <;> rfl
    · exact fun k => by split <;> rfl

/-! ### An m destination -/

theorem setM_selected (d : Nat) (g : BitVec 4) (n : Bool) (x : Lane → Bool) (s : State) :
    setM d ((selected s g n).map (fun l => (l.id, x l))) s =
      issueUpd (fun w => if d = 0 then w else { w with m := setNth (maskAfter s g n x (nth 0 w.m d)) w.m d }) id s := by
  rw [← updCur_eq_issueUpd _ s (fun w => by split <;> rfl)]
  unfold setM maskAfter
  split
  · simp only [updCur, updWave, ite_self, List.map_id_fun', id_eq]
  · simp only [List.foldl_map]

/-- In a wave whose lanes are numbered apart, an active lane is found under its number exactly where it is selected. -/
theorem find_selected (s : State) (hlanes : ((curWave s).lanes.map (·.id)).Nodup) (g : BitVec 4) (n : Bool) {l : Lane} (hl : l ∈ active s) :
    (selected s g n).find? (fun k => k.id == l.id) = if selects (curWave s) g n l then some l else none := by
  have hsame {k : Lane} (hk : k ∈ selected s g n) (hid : k.id = l.id) : k = l :=
    eq_of_nodup_map hlanes (List.mem_filter.mp (mem_active_of_selected hk)).1 (List.mem_filter.mp hl).1 hid
  unfold selected at hsame ⊢
  split
  next hs =>
    obtain ⟨k, hk⟩ := Option.isSome_iff_exists.mp (List.find?_isSome (p := fun k : Lane => k.id == l.id).mpr
      ⟨l, List.mem_filter.mpr ⟨hl, hs⟩, beq_self_eq_true _⟩)
    rw [hk, hsame (List.mem_of_find?_eq_some hk) (by simpa using List.find?_some hk)]
  next hs =>
    refine List.find?_eq_none.mpr (fun k hk hid => hs ?_)
    exact hsame hk (by simpa using hid) ▸ selects_of_selected hk

theorem mResult_eq_maskResult (g : BitVec 4) (n : Bool) (words d : Nat) (f : Wave → Lane → Bool × Flags) (s : State) (hq : NoTraps s)
    (hwaves : (s.waves.map (·.id)).Nodup) (hlanes : ((curWave s).lanes.map (·.id)).Nodup) :
    mResult g n words d f s = Spec.maskResult g n words d (fun l => (f (curWave s) l).1) (fun l => (f (curWave s) l).2) s := by
  have hfpe : fpeLanes (((selected s g n).map (fun l => (l, f (curWave s) l))).map (fun r => (r.1, r.2.2))) = [] := by
    refine fpeLanes_nil _ (fun r hr => ?_)
    rw [List.map_map] at hr
    obtain ⟨l, hl, rfl⟩ := List.mem_map.mp hr
    exact not_enabled_of_noTraps hq hl _
  unfold mResult
  dsimp only
  rw [hfpe, takeFpe_nil]
  have hok (rs : List (Lane × Bool × Flags)) : rs.filter (fun _ => true) = rs := List.filter_eq_self.mpr (fun _ _ => rfl)
  simp only [List.any_nil, Bool.not_false, hok, List.map_map, List.find?_map]
  rw [show (fun r : Lane × Bool × Flags => (r.1.id, r.2.1)) ∘ (fun l => (l, f (curWave s) l)) = fun l => (l.id, (f (curWave s) l).1) from rfl, setM_selected,
    advance_mapActive_issueUpd]
  · refine issueUpd_congr s hwaves _ (fun l hl => ?_)
    simp only [Function.comp_def, find_selected s hlanes g n hl]
    cases selects (curWave s) g n l <;> rfl
  · exact fun w => by split <;> rfl
  · exact fun l => by split <;> rfl
  · exact fun l => by split <;> rfl

/-! ### Floating functions (R186 to R188) -/

/-- The values of an elementwise function go to v register D of the lanes, or once to w register D. -/
theorem floatResult_eq (r : Rec) (f : ElemFn) (s : State) : Machine.floatResult r f s =
    if r.kd = .w then wResult r.g r.n r.words r.d (fun w l => ((elements r f w l).1.setWidth 64, (elements r f w l).2)) s
    else vResult r.g r.n r.words (fun w l => ([(r.d, (elements r f w l).1)], (elements r f w l).2)) s := by
  simp only [Machine.floatResult, elements, element, List.foldl_map, List.map_map, Function.comp_def, BitVec.ofNat_toNat]
  cases r.kd <;> rfl

theorem floatResult_eq_wordEffect (r : Rec) (f : ElemFn) (s : State) (hq : NoTraps s) :
    Machine.floatResult r f s = wordEffect r (elements r f (curWave s)) s := by
  rw [floatResult_eq, wResult_eq_waveResult _ _ _ _ _ s hq, vResult_eq_laneResult _ _ _ _ s hq]
  rfl

/-- Each elementwise instruction runs its function on the elements of its operands. -/
theorem exec_elementwise (i : Instr) (r : Rec) (f : ElemFn) (h : elementwise i = some (r, f)) (s : State) : exec i s = .next (Machine.floatResult r f s) := by
  unfold elementwise at h
  split at h
  case h_29 => exact nomatch h
  all_goals
    obtain ⟨rfl, rfl⟩ := Prod.mk.inj (Option.some.inj h)
    rfl

/-- Settles O8: no flag traps, so each lane, or the wave, or the mask takes the function's values. -/
theorem floatResult : Obligations.FloatResult := by
  refine ⟨fun i r f hi s _ hq => ?_, fun o s _ hq hwaves hlanes => ?_⟩
  · rw [exec_elementwise i r f hi s, floatResult_eq_wordEffect r f s hq]
  · exact congrArg Host.Outcome.next (mResult_eq_maskResult o.h.g o.h.n 2 o.h.d.toNat _ s hq hwaves hlanes)

end Sys2Proof.Proofs

/-! Rounding (R117, R118, R121, R122): encodings and their values, the rounded quotient as a floor or a ceiling, and the one rounding function. -/

namespace Sys2Proof.Proofs

open Sys2Proof Sys2Proof.Machine Sys2Proof.Spec

/-! ### Magnitudes

Magnitudes are compared as multiples of one power of 2, whose exponent is below all that are in play. -/

/-- The magnitude m * 2^e in units of 2^b, for b not above e. -/
def mag (b : Int) (m : Nat) (e : Int) : Nat := m * 2 ^ (e - b).toNat

theorem mag_zero (b e : Int) : mag b 0 e = 0 := Nat.zero_mul _

theorem mag_two_pow_mul {b e : Int} (hb : b ≤ e) (k m : Nat) : mag b (2 ^ k * m) e = mag b m (e + k) := by
  rw [mag, mag, show (e + k - b).toNat = k + (e - b).toNat by omega, Nat.pow_add, Nat.mul_comm (2 ^ k), Nat.mul_assoc]

theorem mag_two_pow {b e : Int} (hb : b ≤ e) (k : Nat) : mag b (2 ^ k) e = mag b 1 (e + k) := by
  rw [← mag_two_pow_mul hb, Nat.mul_one]

theorem mag_shift {b q e : Int} (hb : b ≤ q) (h : q ≤ e) (m : Nat) : mag b m e = mag b (m * 2 ^ (e - q).toNat) q := by
  rw [Nat.mul_comm, mag_two_pow_mul hb, show q + ((e - q).toNat : Int) = e by omega]

theorem mag_mono_exp (b : Int) (m : Nat) {e q : Int} (h : e ≤ q) : mag b m e ≤ mag b m q :=
  Nat.mul_le_mul_left m (Nat.pow_le_pow_right (by decide) (by omega))

theorem mag_le_mag (b e : Int) (m p : Nat) : mag b m e ≤ mag b p e ↔ m ≤ p := Nat.mul_le_mul_right_iff (Nat.two_pow_pos _)

theorem mag_lt_mag (b e : Int) (m p : Nat) : mag b m e < mag b p e ↔ m < p := Nat.mul_lt_mul_right (Nat.two_pow_pos _)

/-- Order of positive values is order of magnitudes; of negative values, the reverse. -/
theorem ltF_fin_same {b e g : Int} (hbe : b ≤ e) (hbg : b ≤ g) (neg : Bool) (m p : Nat) :
    ltF (.fin neg m e) (.fin neg p g) = true ↔ if neg then mag b p g < mag b m e else mag b m e < mag b p g := by
  have hq : b ≤ (if e ≤ g then e else g) ∧ (if e ≤ g then e else g) ≤ e ∧ (if e ≤ g then e else g) ≤ g := by split <;> omega
  simp only [ltF, decide_eq_true_eq]
  generalize (if e ≤ g then e else g) = q at hq
  obtain ⟨hbq, hqe, hqg⟩ := hq
  rw [mag_shift hbq hqe m, mag_shift hbq hqg p, mag_lt_mag, mag_lt_mag]
  cases neg
  · simp only [atExp, Bool.false_eq_true, if_false, Int.ofNat_lt]
  · simp only [atExp, if_true, Int.neg_lt_neg_iff, Int.ofNat_lt]

/-! ### A rounded quotient (R121) -/

/-- The mode rounds values of the sign toward zero. -/
def towardZero (rm : Rm) (neg : Bool) : Bool :=
  match rm with
  | .rne => false
  | .rz => true
  | .ru => neg
  | .rd => !neg

/-- The mode rounds values of the sign away from zero. -/
def fromZero (rm : Rm) (neg : Bool) : Bool :=
  match rm with
  | .ru => !neg
  | .rd => neg
  | _ => false

theorem roundAt_exact (rm : Rm) (neg : Bool) (m : Nat) {e q : Int} (h : q ≤ e) : roundAt rm neg m e q = (m * 2 ^ (e - q).toNat, false) := by
  rw [roundAt, if_pos h]

/-- Whether a quotient k with remainder r by d is rounded up. -/
def roundsUp (rm : Rm) (neg : Bool) (d k r : Nat) : Bool :=
  match rm with
  | .rne => if 2 * r = d then k % 2 == 1 else decide (d < 2 * r)
  | .rz => false
  | .ru => !neg && r != 0
  | .rd => neg && r != 0

theorem roundAt_coarse (rm : Rm) (neg : Bool) (m : Nat) {e q : Int} (h : e < q) :
    roundAt rm neg m e q =
      let d := 2 ^ (q - e).toNat
      (if roundsUp rm neg d (m / d) (m % d) then m / d + 1 else m / d, m % d != 0) := by
  rw [roundAt, if_neg (by omega)]
  cases rm <;> rfl

/-- An exact quotient is not rounded up. -/
theorem roundsUp_zero (rm : Rm) (neg : Bool) (d k : Nat) (hd : 0 < d) : roundsUp rm neg d k 0 = false := by
  cases rm with
  | rne => simp only [roundsUp, Nat.mul_zero, if_neg (Nat.ne_of_lt hd), Nat.not_lt_zero, decide_false]
  | rz => rfl
  | ru => simp [roundsUp]
  | rd => simp [roundsUp]

theorem roundsUp_towardZero {rm : Rm} {neg : Bool} (h : towardZero rm neg = true) (d k r : Nat) : roundsUp rm neg d k r = false := by
  cases rm <;> simp_all [towardZero, roundsUp]

theorem roundsUp_fromZero {rm : Rm} {neg : Bool} (h : fromZero rm neg = true) (d k r : Nat) : roundsUp rm neg d k r = (r != 0) := by
  cases rm <;> simp_all [fromZero, roundsUp]

section
variable {b e q : Int} (hbe : b ≤ e) (hbq : b ≤ q)
include hbe hbq

/-- No mode gives less than a multiple that the value reaches. -/
theorem le_roundAt (rm : Rm) (neg : Bool) {k m : Nat} (h : mag b k q ≤ mag b m e) : k ≤ (roundAt rm neg m e q).1 := by
  rcases Int.lt_or_le e q with hq | hq
  · rw [mag_shift hbe (Int.le_of_lt hq), mag_le_mag] at h
    have hk : k ≤ m / 2 ^ (q - e).toNat := (Nat.le_div_iff_mul_le (Nat.two_pow_pos _)).mpr h
    rw [roundAt_coarse rm neg m hq]
    dsimp only
    split
    · exact Nat.le_succ_of_le hk
    · exact hk
  · rw [mag_shift hbq hq, mag_le_mag] at h
    rwa [roundAt_exact rm neg m hq]

/-- Nor more than a multiple that is not below the value. -/
theorem roundAt_le (rm : Rm) (neg : Bool) {k m : Nat} (h : mag b m e ≤ mag b k q) : (roundAt rm neg m e q).1 ≤ k := by
  rcases Int.lt_or_le e q with hq | hq
  · rw [mag_shift hbe (Int.le_of_lt hq), mag_le_mag] at h
    rw [roundAt_coarse rm neg m hq]
    have hd : 0 < 2 ^ (q - e).toNat := Nat.two_pow_pos _
    generalize 2 ^ (q - e).toNat = d at hd h
    have hdm := Nat.div_add_mod' m d
    dsimp only
    split
    next hup =>
      have hr : m % d ≠ 0 := fun hr => by rw [hr, roundsUp_zero rm neg d _ hd] at hup; exact nomatch hup
      exact Nat.lt_of_mul_lt_mul_right (a := d) (by omega)
    next => exact Nat.div_le_of_le_mul (Nat.mul_comm k d ▸ h)
  · rw [mag_shift hbq hq, mag_le_mag] at h
    rwa [roundAt_exact rm neg m hq]

theorem roundAt_towardZero {rm : Rm} {neg : Bool} (h : towardZero rm neg = true) (m : Nat) : mag b (roundAt rm neg m e q).1 q ≤ mag b m e := by
  rcases Int.lt_or_le e q with hq | hq
  · rw [mag_shift hbe (Int.le_of_lt hq), mag_le_mag, roundAt_coarse rm neg m hq]
    simp only [roundsUp_towardZero h, Bool.false_eq_true, if_false]
    exact Nat.div_mul_le_self m _
  · rw [roundAt_exact rm neg m hq]
    exact Nat.le_of_eq (mag_shift hbq hq m).symm

theorem roundAt_fromZero {rm : Rm} {neg : Bool} (h : fromZero rm neg = true) (m : Nat) : mag b m e ≤ mag b (roundAt rm neg m e q).1 q := by
  rcases Int.lt_or_le e q with hq | hq
  · rw [mag_shift hbe (Int.le_of_lt hq), mag_le_mag, roundAt_coarse rm neg m hq]
    have hd : 0 < 2 ^ (q - e).toNat := Nat.two_pow_pos _
    generalize 2 ^ (q - e).toNat = d at hd
    have hdm := Nat.div_add_mod' m d
    have hlt := Nat.mod_lt m hd
    simp only [roundsUp_fromZero h, bne_iff_ne, ne_eq]
    split
    · rw [Nat.add_mul, Nat.one_mul]; omega
    next hr => rw [Decidable.not_not] at hr; omega
  · rw [roundAt_exact rm neg m hq]
    exact Nat.le_of_eq (mag_shift hbq hq m)

end

/-! ### Encodings (R117, R118) -/

theorem qMin_le_qMax (f : Fmt) : f.qMin ≤ f.qMax := by cases f <;> decide

theorem maxSig_bounds (f : Fmt) : 2 ^ f.mbits ≤ f.maxSig ∧ f.maxSig < 2 ^ (f.mbits + 1) := by cases f <;> decide

/-- In the formats with infinities the largest finite value has the exponent field below all ones. -/
theorem qMax_add_two {f : Fmt} (h : f ≠ .e4m3) : f.qMax + 2 = f.qMin + f.eOnes := by
  cases f with
  | e4m3 => exact absurd rfl h
  | _ => decide

/-- Sign, exponent field and significand field read back from an encoding put together from them, in the numerals of each format. -/
theorem fields_of_encoding (f : Fmt) (neg : Bool) {ex mant : Nat} (hm : mant < 2 ^ f.mbits) (he : ex < 2 ^ (f.width - 1 - f.mbits)) :
    let x := signBit f neg + (ex * 2 ^ f.mbits + mant)
    x < 2 ^ f.width ∧ x / 2 ^ (f.width - 1) = neg.toNat ∧ x % 2 ^ f.mbits = mant ∧ x / 2 ^ f.mbits % 2 ^ (f.width - 1 - f.mbits) = ex := by
  cases f <;> cases neg <;> simp [Fmt.mbits, Fmt.width, signBit] at * <;> omega

/-- The value of an encoding whose exponent field is not all ones. -/
theorem unpackF_encoding (f : Fmt) (neg : Bool) {ex mant : Nat} (hm : mant < 2 ^ f.mbits) (he : ex < f.eOnes) :
    unpackF f (signBit f neg + (ex * 2 ^ f.mbits + mant)) =
      .fin neg (if ex = 0 then mant else 2 ^ f.mbits + mant) (f.qMin + if ex = 0 then 0 else (ex : Int) - 1) := by
  have he' : ex < 2 ^ (f.width - 1 - f.mbits) := by unfold Fmt.eOnes at he; omega
  obtain ⟨hlt, hsign, hmant, hex⟩ := fields_of_encoding f neg hm he'
  have hneg : (neg.toNat == 1) = neg := by cases neg <;> rfl
  simp only [unpackF, Nat.mod_eq_of_lt hlt, hsign, hmant, hex, hneg, if_neg (Nat.ne_of_lt he)]

/-- n units of the exponent field above a significand r: the encoding of r * 2^(qMin + n), for r normal, or for n = 0. -/
theorem unpackF_code {f : Fmt} (neg : Bool) {n r : Nat} (hr : r < 2 ^ (f.mbits + 1)) (hn : 2 ^ f.mbits ≤ r ∨ n = 0) (hlt : n + 1 < f.eOnes) :
    unpackF f (signBit f neg + (n * 2 ^ f.mbits + r)) = .fin neg r (f.qMin + n) := by
  rcases Nat.lt_or_ge r (2 ^ f.mbits) with h | h
  · obtain rfl : n = 0 := hn.resolve_left (by omega)
    rw [unpackF_encoding f neg h (by omega), if_pos rfl, if_pos rfl, Int.natCast_zero]
  · have hcode : n * 2 ^ f.mbits + r = (n + 1) * 2 ^ f.mbits + (r - 2 ^ f.mbits) := by rw [Nat.add_mul, Nat.one_mul]; omega
    rw [hcode, unpackF_encoding f neg (by rw [Nat.pow_succ] at hr; omega) hlt, if_neg (by omega), if_neg (by omega)]
    congr 1 <;> omega

theorem unpackF_infBits {f : Fmt} (hf : f ≠ .e4m3) (neg : Bool) : unpackF f (infBits f neg) = .inf neg := by
  cases f with
  | e4m3 => exact absurd rfl hf
  | _ => cases neg <;> decide

theorem unpackF_maxBits (f : Fmt) (neg : Bool) : unpackF f (maxBits f neg) = .fin neg f.maxSig f.qMax := by
  cases f <;> cases neg <;> decide

/-- The encoding of r * 2^q, where r has mbits + 1 bits or is the next power of 2. -/
theorem unpackF_normal {f : Fmt} (hf : f ≠ .e4m3) (neg : Bool) {r : Nat} {q : Int} (hlo : 2 ^ f.mbits ≤ r) (hhi : r ≤ 2 ^ (f.mbits + 1))
    (hmin : f.qMin + f.mbits ≤ (Nat.log2 r : Int) + q) (hmax : ¬ (f.qMax < q ∨ (q = f.qMax ∧ f.maxSig < r))) :
    ∃ m' e', unpackF f (signBit f neg + ((q - f.qMin) * (2 ^ f.mbits : Nat) + (r : Int)).toNat) = .fin neg m' e' ∧ f.qMin ≤ e' ∧
      ∀ b, b ≤ q → mag b m' e' = mag b r q := by
  have hq2 := qMax_add_two hf
  rcases Nat.lt_or_eq_of_le hhi with hlt | rfl
  · have hlog : Nat.log2 r = f.mbits := (Nat.log2_eq_iff (by have := Nat.two_pow_pos f.mbits; omega)).mpr ⟨hlo, hlt⟩
    obtain ⟨n, hn⟩ := Int.eq_ofNat_of_zero_le (show 0 ≤ q - f.qMin by omega)
    have hq : q = f.qMin + n := by omega
    have hcode : (q - f.qMin) * (2 ^ f.mbits : Nat) + (r : Int) = ((n * 2 ^ f.mbits + r : Nat) : Int) := by rw [hn, Int.natCast_add, Int.natCast_mul]
    refine ⟨r, f.qMin + n, ?_, by omega, fun b _ => by rw [hq]⟩
    rw [hcode, Int.toNat_natCast, unpackF_code neg hlt (.inl hlo) (by omega)]
  · rw [Nat.log2_two_pow] at hmin
    have hsig := (maxSig_bounds f).2
    obtain ⟨n, hn⟩ := Int.eq_ofNat_of_zero_le (show 0 ≤ q + 1 - f.qMin by omega)
    have hq : q + 1 = f.qMin + n := by omega
    have hcode : (q - f.qMin) * (2 ^ f.mbits : Nat) + (2 ^ (f.mbits + 1) : Nat) = ((n * 2 ^ f.mbits + 2 ^ f.mbits : Nat) : Int) := by
      rw [show q - f.qMin = n - 1 by omega, Int.sub_mul, Int.one_mul, Nat.pow_succ, Int.natCast_add, Int.natCast_mul]
      omega
    refine ⟨2 ^ f.mbits, f.qMin + n, ?_, by omega, fun b hb => ?_⟩
    · rw [hcode, Int.toNat_natCast, unpackF_code neg (Nat.pow_lt_pow_succ (by decide)) (.inl (Nat.le_refl _)) (by omega)]
    · rw [Nat.add_comm f.mbits 1, Nat.pow_add, mag_two_pow_mul hb, ← hq, Int.natCast_one]

/-! ### The cases of the rounding function (R122) -/

/-- The exponent of the last of mbits + 1 bits of m * 2^e. -/
def lastBit (f : Fmt) (m : Nat) (e : Int) : Int := e + (Nat.log2 m : Int) - f.mbits

/-- The value rounded with unbounded exponent range. -/
def unbounded (f : Fmt) (rm : Rm) (neg : Bool) (m : Nat) (e : Int) : Nat × Bool := roundAt rm neg m e (lastBit f m e)

/-- It exceeds the largest finite value. -/
def overflows (f : Fmt) (rm : Rm) (neg : Bool) (m : Nat) (e : Int) : Prop :=
  f.qMax < lastBit f m e ∨ (lastBit f m e = f.qMax ∧ f.maxSig < (unbounded f rm neg m e).1)

/-- It is below the smallest normal value. -/
def tiny (f : Fmt) (rm : Rm) (neg : Bool) (m : Nat) (e : Int) : Prop :=
  (Nat.log2 (unbounded f rm neg m e).1 : Int) + lastBit f m e < f.qMin + f.mbits

section
variable (f : Fmt) (rm : Rm) (neg : Bool) (m : Nat) (e : Int)

theorem roundF_zero : roundF f rm (.fin neg 0 e) = (signBit f neg, 0) := by
  simp only [roundF, if_true]

theorem roundF_tiny (hm : m ≠ 0) (ho : ¬ overflows f rm neg m e) (ht : tiny f rm neg m e) :
    roundF f rm (.fin neg m e) = (signBit f neg + (roundAt rm neg m e f.qMin).1, flagIf (roundAt rm neg m e f.qMin).2 (fUF ||| fNX)) := by
  unfold overflows tiny unbounded lastBit at *
  simp only [roundF, if_neg hm, if_neg ho, if_pos ht]

theorem roundF_normal (hm : m ≠ 0) (ho : ¬ overflows f rm neg m e) (ht : ¬ tiny f rm neg m e) :
    roundF f rm (.fin neg m e) = (signBit f neg + ((lastBit f m e - f.qMin) * (2 ^ f.mbits : Nat) + ((unbounded f rm neg m e).1 : Int)).toNat,
      flagIf (unbounded f rm neg m e).2 fNX) := by
  unfold overflows tiny unbounded lastBit at *
  simp only [roundF, if_neg hm, if_neg ho, if_neg ht]

variable {f}

theorem roundF_overflow_towardZero (hf : f ≠ .e4m3) (hm : m ≠ 0) (ho : overflows f rm neg m e) (h : towardZero rm neg = true) :
    (roundF f rm (.fin neg m e)).1 = maxBits f neg := by
  unfold overflows unbounded lastBit at ho
  simp only [roundF, if_neg hm, if_pos ho]
  cases rm <;> simp_all [towardZero]

theorem roundF_overflow_fromZero (hf : f ≠ .e4m3) (hm : m ≠ 0) (ho : overflows f rm neg m e) (h : fromZero rm neg = true) :
    (roundF f rm (.fin neg m e)).1 = infBits f neg := by
  unfold overflows unbounded lastBit at ho
  simp only [roundF, if_neg hm, if_pos ho]
  cases rm <;> simp_all [fromZero]

end

/-! ### Directed rounding (R121) -/

/-- A unit that is below every exponent that rounding m * 2^e comes upon. -/
structure UnitOf (f : Fmt) (m : Nat) (e b : Int) : Prop where
  le_self : b ≤ e
  le_last : b ≤ lastBit f m e
  le_min : b ≤ f.qMin

theorem exists_unitOf (f : Fmt) (m : Nat) (e : Int) : ∃ b, UnitOf f m e b := by
  refine ⟨min e (min (lastBit f m e) f.qMin), ?_, ?_, ?_⟩ <;> omega

section
variable {f : Fmt} {m : Nat} {e b : Int} (hb : UnitOf f m e b)
include hb

theorem lastBit_bounds (hm : m ≠ 0) :
    mag b (2 ^ f.mbits) (lastBit f m e) ≤ mag b m e ∧ mag b m e ≤ mag b (2 ^ (f.mbits + 1)) (lastBit f m e) := by
  have hlo : mag b (2 ^ f.mbits) (lastBit f m e) = mag b (2 ^ Nat.log2 m) e := by
    rw [mag_two_pow hb.le_last, mag_two_pow hb.le_self, lastBit, Int.sub_add_cancel]
  have hhi : mag b (2 ^ (f.mbits + 1)) (lastBit f m e) = mag b (2 ^ (Nat.log2 m + 1)) e := by
    rw [mag_two_pow hb.le_last, mag_two_pow hb.le_self]
    congr 1
    unfold lastBit
    omega
  rw [hlo, hhi, mag_le_mag, mag_le_mag]
  exact ⟨Nat.log2_self_le hm, Nat.le_of_lt Nat.lt_log2_self⟩

theorem unbounded_bounds (rm : Rm) (neg : Bool) (hm : m ≠ 0) :
    2 ^ f.mbits ≤ (unbounded f rm neg m e).1 ∧ (unbounded f rm neg m e).1 ≤ 2 ^ (f.mbits + 1) :=
  ⟨le_roundAt hb.le_self hb.le_last rm neg (lastBit_bounds hb hm).1, roundAt_le hb.le_self hb.le_last rm neg (lastBit_bounds hb hm).2⟩

/-- A tiny value rounds to at most the smallest normal one. -/
theorem roundAt_qMin_le (rm : Rm) (neg : Bool) (hm : m ≠ 0) (ht : tiny f rm neg m e) : (roundAt rm neg m e f.qMin).1 ≤ 2 ^ f.mbits := by
  have hlo := (unbounded_bounds hb rm neg hm).1
  have hlog : f.mbits ≤ Nat.log2 (unbounded f rm neg m e).1 := (Nat.le_log2 (by have := Nat.two_pow_pos f.mbits; omega)).mpr hlo
  have hlast : lastBit f m e + 1 ≤ f.qMin := by unfold tiny at ht; omega
  refine roundAt_le hb.le_self hb.le_min rm neg (Nat.le_trans (lastBit_bounds hb hm).2 ?_)
  rw [Nat.add_comm, Nat.pow_add, mag_two_pow_mul hb.le_last]
  exact mag_mono_exp b _ hlast

/-- Where nothing overflows, the result is a finite value whose magnitude is the exact one rounded at some bit. -/
theorem roundF_inRange (hf : f ≠ .e4m3) (rm : Rm) (neg : Bool) (h : m = 0 ∨ ¬ overflows f rm neg m e) :
    ∃ q m' e', unpackF f (roundF f rm (.fin neg m e)).1 = .fin neg m' e' ∧ b ≤ e' ∧ b ≤ q ∧ mag b m' e' = mag b (roundAt rm neg m e q).1 q := by
  have hmin := qMax_add_two hf
  have hle := qMin_le_qMax f
  have hpow := Nat.two_pow_pos f.mbits
  have hunit := hb.le_min
  have hcode {r : Nat} (hr : r ≤ 2 ^ f.mbits) : unpackF f (signBit f neg + r) = .fin neg r f.qMin := by
    have hval := unpackF_code (f := f) neg (n := 0) (r := r) (by rw [Nat.pow_succ]; omega) (.inr rfl) (by omega)
    rwa [Nat.zero_mul, Nat.zero_add, Int.natCast_zero, Int.add_zero] at hval
  by_cases hm : m = 0
  · subst hm
    refine ⟨e, 0, f.qMin, ?_, hunit, hb.le_self, ?_⟩
    · rw [roundF_zero, ← hcode (Nat.zero_le _), Nat.add_zero]
    · rw [roundAt_exact rm neg 0 (Int.le_refl e), Nat.zero_mul, mag_zero, mag_zero]
  · have ho := h.resolve_left hm
    by_cases ht : tiny f rm neg m e
    · refine ⟨f.qMin, _, _, ?_, hunit, hunit, rfl⟩
      rw [roundF_tiny f rm neg m e hm ho ht, hcode (roundAt_qMin_le hb rm neg hm ht)]
    · obtain ⟨hlo, hhi⟩ := unbounded_bounds hb rm neg hm
      obtain ⟨m', e', hval, he', hmag⟩ := unpackF_normal hf neg hlo hhi (Int.not_lt.mp ht) ho
      rw [roundF_normal f rm neg m e hm ho ht]
      exact ⟨_, m', e', hval, Int.le_trans hunit he', hb.le_last, hmag b hb.le_last⟩

/-- What overflows toward zero is above the largest finite value. -/
theorem maxSig_le_of_overflows {rm : Rm} {neg : Bool} (hm : m ≠ 0) (ho : overflows f rm neg m e) (h : towardZero rm neg = true) :
    mag b f.maxSig f.qMax ≤ mag b m e := by
  rcases ho with hq | ⟨hq, hsig⟩
  · calc mag b f.maxSig f.qMax
      _ ≤ mag b (2 ^ (1 + f.mbits)) f.qMax := (mag_le_mag _ _ _ _).mpr (by rw [Nat.add_comm]; exact Nat.le_of_lt (maxSig_bounds f).2)
      _ = mag b (2 ^ f.mbits) (f.qMax + 1) := by rw [Nat.pow_add, mag_two_pow_mul (Int.le_trans hb.le_min (qMin_le_qMax f)), Int.natCast_one]
      _ ≤ mag b (2 ^ f.mbits) (lastBit f m e) := mag_mono_exp b _ hq
      _ ≤ mag b m e := (lastBit_bounds hb hm).1
  · calc mag b f.maxSig f.qMax
      _ ≤ mag b (unbounded f rm neg m e).1 (lastBit f m e) := by rw [hq, mag_le_mag]; exact Nat.le_of_lt hsig
      _ ≤ mag b m e := roundAt_towardZero hb.le_self hb.le_last h m

/-- A mode that rounds toward zero gives a finite value of no larger magnitude. -/
theorem roundF_towardZero (hf : f ≠ .e4m3) {rm : Rm} {neg : Bool} (h : towardZero rm neg = true) :
    ∃ m' e', unpackF f (roundF f rm (.fin neg m e)).1 = .fin neg m' e' ∧ b ≤ e' ∧ mag b m' e' ≤ mag b m e := by
  by_cases ho : m = 0 ∨ ¬ overflows f rm neg m e
  · obtain ⟨q, m', e', hval, he', hq, hmag⟩ := roundF_inRange hb hf rm neg ho
    exact ⟨m', e', hval, he', hmag ▸ roundAt_towardZero hb.le_self hq h m⟩
  · obtain ⟨hm, ho⟩ := not_or.mp ho
    have ho := Classical.not_not.mp ho
    refine ⟨f.maxSig, f.qMax, ?_, Int.le_trans hb.le_min (qMin_le_qMax f), maxSig_le_of_overflows hb hm ho h⟩
    rw [roundF_overflow_towardZero rm neg m e hf hm ho h, unpackF_maxBits]

/-- A mode that rounds away from zero gives an infinity or a finite value of no smaller magnitude. -/
theorem roundF_fromZero (hf : f ≠ .e4m3) {rm : Rm} {neg : Bool} (h : fromZero rm neg = true) :
    unpackF f (roundF f rm (.fin neg m e)).1 = .inf neg ∨
      ∃ m' e', unpackF f (roundF f rm (.fin neg m e)).1 = .fin neg m' e' ∧ b ≤ e' ∧ mag b m e ≤ mag b m' e' := by
  by_cases ho : m = 0 ∨ ¬ overflows f rm neg m e
  · obtain ⟨q, m', e', hval, he', hq, hmag⟩ := roundF_inRange hb hf rm neg ho
    exact .inr ⟨m', e', hval, he', hmag ▸ roundAt_fromZero hb.le_self hq h m⟩
  · obtain ⟨hm, ho⟩ := not_or.mp ho
    rw [roundF_overflow_fromZero rm neg m e hf hm (Classical.not_not.mp ho) h]
    exact .inl (unpackF_infBits hf neg)

end

/-- Toward zero: a positive result is not above the exact value, a negative one not below it. -/
theorem not_ltF_of_towardZero {f : Fmt} (hf : f ≠ .e4m3) {rm : Rm} {neg : Bool} (h : towardZero rm neg = true) (m : Nat) (e : Int) :
    (if neg then ltF (unpackF f (roundF f rm (.fin neg m e)).1) (.fin neg m e)
      else ltF (.fin neg m e) (unpackF f (roundF f rm (.fin neg m e)).1)) = false := by
  obtain ⟨b, hb⟩ := exists_unitOf f m e
  obtain ⟨m', e', hval, he', hmag⟩ := roundF_towardZero hb hf h
  rw [hval]
  cases neg
  · exact Bool.eq_false_iff.mpr (fun hlt => Nat.not_lt.mpr hmag ((ltF_fin_same hb.le_self he' false m m').mp hlt))
  · exact Bool.eq_false_iff.mpr (fun hlt => Nat.not_lt.mpr hmag ((ltF_fin_same he' hb.le_self true m' m).mp hlt))

/-- Away from zero: a positive result is not below the exact value, a negative one not above it. -/
theorem not_ltF_of_fromZero {f : Fmt} (hf : f ≠ .e4m3) {rm : Rm} {neg : Bool} (h : fromZero rm neg = true) (m : Nat) (e : Int) :
    (if neg then ltF (.fin neg m e) (unpackF f (roundF f rm (.fin neg m e)).1)
      else ltF (unpackF f (roundF f rm (.fin neg m e)).1) (.fin neg m e)) = false := by
  obtain ⟨b, hb⟩ := exists_unitOf f m e
  rcases roundF_fromZero hb hf h with hval | ⟨m', e', hval, he', hmag⟩
  · rw [hval]
    cases neg <;> rfl
  · rw [hval]
    cases neg
    · exact Bool.eq_false_iff.mpr (fun hlt => Nat.not_lt.mpr hmag ((ltF_fin_same he' hb.le_self false m' m).mp hlt))
    · exact Bool.eq_false_iff.mpr (fun hlt => Nat.not_lt.mpr hmag ((ltF_fin_same hb.le_self he' true m m').mp hlt))

/-! ### Exact values (R122) -/

/-- The fields of the encoding of a finite value: the exponent field is not all ones, but for those of E4M3 that are no NaN (R118). -/
theorem fields_of_unpackF {f : Fmt} {x : Nat} {neg : Bool} {m : Nat} {e : Int} (hx : x < 2 ^ f.width) (h : unpackF f x = .fin neg m e) :
    let mant := x % 2 ^ f.mbits
    let ex := x / 2 ^ f.mbits % 2 ^ (f.width - 1 - f.mbits)
    (x / 2 ^ (f.width - 1) == 1) = neg ∧ (if ex = 0 then mant else 2 ^ f.mbits + mant) = m ∧ (f.qMin + if ex = 0 then 0 else (ex : Int) - 1) = e ∧
      (ex = f.eOnes → f = .e4m3 ∧ mant ≠ 7) := by
  simp only [unpackF, Nat.mod_eq_of_lt hx] at h
  split at h
  next hones =>
    cases f with
    | e4m3 =>
      dsimp only at h
      split at h
      · exact nomatch h
      next hmant =>
        obtain ⟨hneg, hm, he⟩ := FVal.fin.inj h
        exact ⟨hneg, hm, he, fun _ => ⟨rfl, hmant⟩⟩
    | _ =>
      dsimp only at h
      split at h <;> exact nomatch h
  next hones =>
    obtain ⟨hneg, hm, he⟩ := FVal.fin.inj h
    exact ⟨hneg, hm, he, fun h => absurd h hones⟩

theorem signBit_top {f : Fmt} {x : Nat} (hx : x < 2 ^ f.width) : signBit f (x / 2 ^ (f.width - 1) == 1) = x / 2 ^ (f.width - 1) * 2 ^ (f.width - 1) := by
  have hw : f.width = f.width - 1 + 1 := by cases f <;> rfl
  have htop : x / 2 ^ (f.width - 1) < 2 := Nat.div_lt_of_lt_mul (by rw [← Nat.pow_succ, Nat.succ_eq_add_one, ← hw]; exact hx)
  generalize x / 2 ^ (f.width - 1) = top at htop
  obtain rfl | rfl : top = 0 ∨ top = 1 := by omega
  · simp [signBit]
  · simp [signBit]

/-- A finite value is normal or subnormal, within the format's range, and its encoding is its sign, exponent and significand put together. -/
theorem encoding_of_unpackF {f : Fmt} {x : Nat} {neg : Bool} {m : Nat} {e : Int} (hx : x < 2 ^ f.width) (h : unpackF f x = .fin neg m e) :
    (m < 2 ^ f.mbits ∧ e = f.qMin ∨ 2 ^ f.mbits ≤ m ∧ m < 2 ^ (f.mbits + 1) ∧ f.qMin ≤ e) ∧ e ≤ f.qMax ∧ (e = f.qMax → m ≤ f.maxSig) ∧
      x = signBit f neg + ((e - f.qMin) * (2 ^ f.mbits : Nat) + (m : Int)).toNat := by
  obtain ⟨rfl, rfl, rfl, hones⟩ := fields_of_unpackF hx h
  clear h
  rw [signBit_top hx]
  by_cases hex : x / 2 ^ f.mbits % 2 ^ (f.width - 1 - f.mbits) = 0
  · simp only [if_pos hex]
    cases f <;> simp [Fmt.mbits, Fmt.width, Fmt.qMin, Fmt.qMax, Fmt.bias, Fmt.maxSig, Fmt.eOnes] at * <;> omega
  · simp only [if_neg hex]
    cases f <;> simp [Fmt.mbits, Fmt.width, Fmt.qMin, Fmt.qMax, Fmt.bias, Fmt.maxSig, Fmt.eOnes] at * <;> omega

/-- An encoding of a finite value is what the value rounds to. -/
theorem roundF_unpackF (f : Fmt) (rm : Rm) {x : Nat} {neg : Bool} {m : Nat} {e : Int} (hx : x < 2 ^ f.width) (h : unpackF f x = .fin neg m e) :
    roundF f rm (.fin neg m e) = (x, 0) := by
  obtain ⟨hform, hmax, hsig, rfl⟩ := encoding_of_unpackF hx h
  by_cases hm : m = 0
  · obtain rfl : e = f.qMin := by rcases hform with h | h <;> have := Nat.two_pow_pos f.mbits <;> omega
    subst hm
    simp [roundF_zero]
  rcases hform with ⟨hlt, rfl⟩ | ⟨hlo, hhi, hmin⟩
  · have hlog : Nat.log2 m < f.mbits := (Nat.log2_lt hm).mpr hlt
    have hlast : lastBit f m f.qMin < f.qMin := by unfold lastBit; omega
    have ho : ¬ overflows f rm neg m f.qMin := by have := qMin_le_qMax f; unfold overflows; omega
    have hexact : (unbounded f rm neg m f.qMin).1 = m * 2 ^ (f.mbits - Nat.log2 m) := by
      rw [unbounded, roundAt_exact rm neg m (Int.le_of_lt hlast), show (f.qMin - lastBit f m f.qMin).toNat = f.mbits - Nat.log2 m by unfold lastBit; omega]
    have hbits : (unbounded f rm neg m f.qMin).1 < 2 ^ (f.mbits + 1) := by
      have hup : m * 2 ^ (f.mbits - Nat.log2 m) < 2 ^ (Nat.log2 m + 1) * 2 ^ (f.mbits - Nat.log2 m) :=
        Nat.mul_lt_mul_of_pos_right Nat.lt_log2_self (Nat.two_pow_pos _)
      rwa [← hexact, ← Nat.pow_add, show Nat.log2 m + 1 + (f.mbits - Nat.log2 m) = f.mbits + 1 by omega] at hup
    have ht : tiny f rm neg m f.qMin := by
      have hlog' : Nat.log2 (unbounded f rm neg m f.qMin).1 < f.mbits + 1 := (Nat.log2_lt (by rw [hexact]; exact Nat.mul_ne_zero hm (Nat.ne_of_gt (Nat.two_pow_pos _)))).mpr hbits
      unfold tiny lastBit
      omega
    rw [roundF_tiny f rm neg m _ hm ho ht, roundAt_exact rm neg m (Int.le_refl _)]
    simp [flagIf]
  · have hlog : Nat.log2 m = f.mbits := (Nat.log2_eq_iff hm).mpr ⟨hlo, hhi⟩
    have hlast : lastBit f m e = e := by unfold lastBit; omega
    have hround : unbounded f rm neg m e = (m, false) := by
      rw [unbounded, hlast, roundAt_exact rm neg m (Int.le_refl _), Int.sub_self, Int.toNat_zero, Nat.pow_zero, Nat.mul_one]
    have ho : ¬ overflows f rm neg m e := by unfold overflows; rw [hround, hlast]; dsimp only; omega
    have ht : ¬ tiny f rm neg m e := by unfold tiny; rw [hround, hlast, hlog]; omega
    rw [roundF_normal f rm neg m e hm ho ht, hround, hlast]
    rfl

/-- Settles O10: a finite encoding is exact at its own last bit; a directed mode takes the floor of the magnitude on one side of zero, the ceiling on the other. -/
theorem roundingLaws : Obligations.RoundingLaws := by
  refine ⟨fun f rm x neg m e hx h => roundF_unpackF f rm hx h, fun f neg m e hf => ⟨?_, ?_, ?_, ?_⟩⟩
  · cases neg
    · exact not_ltF_of_towardZero hf (rm := .rd) (neg := false) rfl m e
    · exact not_ltF_of_fromZero hf (rm := .rd) (neg := true) rfl m e
  · cases neg
    · exact not_ltF_of_fromZero hf (rm := .ru) (neg := false) rfl m e
    · exact not_ltF_of_towardZero hf (rm := .ru) (neg := true) rfl m e
  · exact not_ltF_of_towardZero hf (rm := .rz) (neg := false) rfl m e
  · exact not_ltF_of_towardZero hf (rm := .rz) (neg := true) rfl m e

end Sys2Proof.Proofs
